-- ==== Sys2Proof/Word.lean ====
section
/-! DEFINITION. Words, units, transfer tags and sparse tables: the plainest types of the model. -/
namespace Sys2Proof

/-- A word: 20 data bits (R7). -/
abbrev Word := BitVec 20

/-- A half: 10 bits (R7). -/
abbrev Half := BitVec 10

/-- A unit as it travels: one parity bit above 20 data bits (R7). -/
abbrev Unit21 := BitVec 21

/-- The 2-bit transfer tag of R43; `11b` is not used and is treated as a parity failure. -/
inductive Tag where
  | normal | replayed | poisoned | unused
  deriving DecidableEq, Repr, Inhabited

/-- One word in flight inside the part: its data, whether it is poisoned (R49), and whether any hop
inside the part had to replay it (R51). -/
structure FWord where
  data : Word := 0
  poison : Bool := false
  replayed : Bool := false
  deriving DecidableEq, Repr, Inhabited

/-- A sparse table: key and value pairs, keys strictly rising. -/
abbrev Table (α : Type) := List (Nat × α)

end Sys2Proof
end

