-- ==== Sys2Proof/Syntax.lean ====
section
/-! DEFINITION. The commands of the block, one constructor per row of the table of operations and events, with the
operands each carries. `dt` is the number of ring periods since the command before it. A pin or comparator event carries
its raw capture (R105), the ring tap `p` and the interpolator half `h`, and a comparator event the voltage V(P) − V(N) at
its input's pins in microvolts, `uv`. `unseen` is how many of the other side's latest reads or writes of an island FIFO
have not yet crossed to the side that acts (R63); `stray` says that a producer at fault writes without a credit (R65).
`hops`, `fin` and `eng` are the tags with which words arrive at a block that handles whole records, by place: NORMAL where
none is given (R51). `upsets` are bits of event memory that have changed by themselves since the command before (R250). -/
namespace Sys2Proof

/-- Who makes a dictionary request (R411, R415, R428): the class, key slot and session, the path
(0 bus, 1 bus broadcast, 2 in-band, 3 in-band broadcast) and the request's sequence number. -/
structure Rq where
  cls : Nat
  slot : Nat := 0
  sess : Option Nat := none
  path : Nat := 0
  seq : Nat := 0
  deriving DecidableEq, Repr, Inhabited

/-- Where a dictionary frame came from, and what its answer copies (R449, R454): the link it came by, or none for the
bus, its host number and session nibble, and the address and tier it named, with SER those of the target's parent. -/
structure Origin where
  via : Option Nat := none
  host : Nat := 0
  sess : Nat := 15
  ser : Bool := false
  addr : Nat := 0
  tier : Nat := 0
  deriving DecidableEq, Repr, Inhabited

/-- A latch array that is calibrated: an input group, the auxiliary latch GA (R132) or a lane quad GQq (R343). -/
inductive CalUnit where
  | group (g : Fin 16) | aux | quad (q : Fin 7)
  deriving DecidableEq, Repr, Inhabited

/-- An abortable operation and the unit it runs on (R73, R74). -/
inductive OpId where
  | capture (v : Fin 4) | job (v : Fin 4) | interval | cal (u : CalUnit) | scrub (r : Fin 16)
  | transfer (i : Fin 8) | image | hkCal (m : Fin 4)
  deriving DecidableEq, Repr, Inhabited

/-- An island FIFO that carries units (R64 to R67). -/
inductive FifoId where
  | collector (g : Fin 16) | refPps | compares | laneRx (l : Fin 28) | laneTx (l : Fin 28)
  | ethRx (x : Fin 2) | ethTx (x : Fin 2) | busRx | busTx | flashRd | flashWr | modulator (m : Fin 4)
  | calHits | mgmtRx (l : Fin 28) | mgmtTx (l : Fin 28) | mgmtCoreRx | mgmtCoreTx | dictRx | dictTx
  deriving DecidableEq, Repr, Inhabited

/-- A pass through a boundary-scan data register (R525): the levels of the covered pins as it captures them, and the bits shifted in
at TDI, the first one first. -/
structure DrScan where
  pins : List Bool
  tdi : List Bool
  deriving DecidableEq, Repr

/-- The blocks that can be the source or the receiver of a transfer (R75). -/
inductive Block where
  | collector (g : Fin 16) | derandomiser (g : Fin 16) | shutterStage | acquisition (v : Fin 4) | builder (v : Fin 4)
  | compressor (v : Fin 4) | bankPort (b : Fin 256) | laneReceiver (l : Fin 28) | laneTransmitter (l : Fin 28)
  | management | intervalUnit | chain (m : Fin 4) | islandFifo (i : Fin 18)
  deriving DecidableEq, Repr, Inhabited

/-- A unit that a sender presents on its path, and the unit as the receiver finds it on the first and on the second
presentation (R43, R48). -/
structure Present where
  src : Block
  unit : Unit21
  tag : Tag := .normal
  seen : Unit21
  seenAgain : Unit21 := 0
  deriving DecidableEq, Repr, Inhabited

/-- Stored bits of event memory that have been upset since the command before: an address, and a mask of the 27 bits stored
there, data bits [19:0] and check bits [26:20] (R241, R250). -/
abbrev Upsets := List (Nat × Nat)

/-- The units presented for a write to event memory, and what it covers (R251, R252): a half of a word, a word, or both
words of a row. -/
inductive MemWrite where
  | half (high : Bool) (x : Present) | word (x : Present) | pair (x0 x1 : Present)
  deriving DecidableEq, Repr, Inhabited

/-- The PTP messages of R351, by their type codes 0h, 1h, 2h, 3h, 8h, 9h, Ah, Bh; `other` is Signaling or Management. -/
inductive PtpKind where
  | sync | delayReq | pdelayReq | pdelayResp | followUp | delayResp | pdelayRespFollowUp | announce | other
  deriving DecidableEq, Repr, Inhabited

/-- A PTP message as it arrives: header, its timestamp field, whether its requesting port identity is the instance's, and
the data set of an Announce. Corrections are in 2^-16 ns. -/
structure PtpMsg where
  kind : PtpKind
  version : Nat := 2
  domain : Nat := 0
  udp : Bool := false
  src : Nat := 0
  seq : Nat := 0
  corr : Int := 0
  twoStep : Bool := false
  logInt : Int := 0
  sec : Nat := 0
  ns : Nat := 0
  mine : Bool := false
  prio1 : Nat := 128
  cls : Nat := 248
  acc : Nat := 254
  var : Nat := 65535
  prio2 : Nat := 128
  gm : Nat := 0
  steps : Nat := 0
  utc : Nat := 37
  deriving DecidableEq, Repr, Inhabited

/-- The commands (opcode_table.json). -/
inductive Instr where
  -- The handshake core
  | unitTransfer (dst : Block) (reqs : List Present)
  | headroomWindowEnd (rawH : Nat) (busiest busy : Nat)
  | islandFifoWrite (f : FifoId) (unit : Unit21) (tag : Tag) (unseen : Nat) (stray : Bool)
  | islandFifoRead (f : FifoId) (unseen : Nat)
  | islandClockStop (i : Fin 18)
  | islandClockRestart (i : Fin 18)
  | commitArbiterGrant (op : OpId) (tied : Nat)
  -- Hit inputs
  | comparatorEdge (dt : Nat) (n : Fin 256) (t : Fin 4) (uv : Int) (p : Fin 64) (h : Bool)
  | mergeWindowEnd (n : Fin 256) (t : Fin 4)
  | blankingEnd (n : Fin 256) (t : Fin 4)
  | edgeBufferEntry (n : Fin 256) (t : Fin 4)
  | collectorTake (g : Fin 16)
  | collectorTimeMark (g : Fin 16)
  | shutterStageRelease (hop0 hop1 : Tag) (eng : List (Tag × Tag))
  | shutterWindowStart (g : Fin 16)
  | shutterReopen (n : Fin 256) (t : Fin 4)
  | testPulse (g : Fin 16)
  | frameBoundary
  | fragmentEnd (v : Fin 4) (hops : List (Nat × Tag))
  -- Stamping and calibration
  | calibrationStart (rq : Rq) (u : CalUnit) (oscKHz : Nat)
  | calibrationAbort (rq : Rq) (u : CalUnit)
  | calibrationHit (u : CalUnit) (p : Fin 64) (h : Bool)
  | calibrationAccept (u : CalUnit)
  | calibrationDeferredStart (oscKHz : Nat)
  | autoCalibrationTimer (oscKHz : Nat)
  | tableStale (u : CalUnit)
  | refEdge (dt : Nat) (rising : Bool) (p : Fin 64) (h : Bool)
  | refMissing
  | ringOscLock
  | ringRefRelock
  -- The interval unit
  | intervalStart (rq : Rq)
  | intervalAbort (rq : Rq)
  | intervalSourceEvent
  | repetitionStopAccept
  | intervalOverflow
  | timeCompareEvent (c : Fin 2)
  -- Triggering and acquisition
  | trigPinEdge (dt : Nat) (nb : Bool) (rising : Bool) (p : Fin 64) (h : Bool)
  | triggerRequestReceived (k : Fin 18) (pois : Bool) (time outNo mask addr : Nat)
  | triggerCommandReceived (k : Fin 18) (pois : Bool) (time num mask outNo addr : Nat)
  | captureBusy (v : Fin 4)
  | captureExpire (v : Fin 4)
  | captureCommit (v : Fin 4) (hops fin : List (Nat × Tag))
  | captureAbort (rq : Rq) (v : Fin 4)
  | bufferRateWindow (v : Fin 4)
  -- Event building
  | frameFragmentPacket (k : Fin 18) (ws : List FWord)
  | endOfFragmentAccept (v : Fin 4) (slot : Fin 4096) (port : Fin 16)
  | abandonPacket (k : Fin 18) (v : Fin 4)
  | slotTimeout (v : Fin 4) (slot : Fin 4096)
  | closeRequest (rq : Rq) (v : Fin 4)
  | mergeStart (v : Fin 4) (slot : Fin 4096) (hops : List (Nat × Nat × Tag))
  | mergeComplete (v : Fin 4) (slot : Fin 4096)
  | outputCreditTimeout (v : Fin 4)
  -- The packed format
  | compressionJobStart (v : Fin 4) (hops : List (Nat × Tag))
  | jobReservationGrant (v : Fin 4)
  | jobCommit (v : Fin 4)
  | jobAbort (rq : Rq) (v : Fin 4)
  | packedBodyExceedsReservation (v : Fin 4)
  -- Event memory
  | regionTableWrite (rq : Rq) (r : Fin 16) (field value : Nat)
  | regionFillStart (rq : Rq) (r : Fin 16)
  | regionFillDone (r : Fin 16)
  | memoryRead (block : Block) (addr : Nat) (both : Bool) (upsets : Upsets)
  | memoryWrite (addr : Nat) (w : MemWrite) (upsets : Upsets)
  | scrubStart (rq : Rq) (r : Fin 16)
  | scrubAbort (rq : Rq) (r : Fin 16) (byRate : Bool)
  | scrubUnit (r : Fin 16) (upsets : Upsets)
  | bankWithdraw (rq : Rq)
  | bankWithdrawDone
  | bankReturn (rq : Rq)
  | bankReturnDone
  | useRegionName (rq : Rq) (shadows : Bool) (value : Nat)
  | useRegionSwitch (shadows : Bool)
  -- Lanes
  | laneEnable (rq : Rq) (l : Fin 28) (on : Bool)
  | groupReceived (l : Fin 28) (dt : Nat) (p : Fin 64) (h : Bool) (lag : Int) (line : List Bool)
  | huntTimeout (l : Fin 28)
  | lossOfSignal (l : Fin 28)
  | signalReturn (l : Fin 28)
  | equaliserScanDone (l : Fin 28) (eyes : List (Nat × Nat))
  | trainingAnnounce (l : Fin 28) (ws : List Nat)
  | trainingPropose (l : Fin 28) (ws : List Nat)
  | trainingSwitch (l : Fin 28) (ws : List Nat)
  | trainingDone (l : Fin 28) (ws : List Nat)
  | trainingAcknowledge (l : Fin 28) (ws : List Nat)
  | climbSwitchTimeout (l : Fin 28)
  | mainPathRetry (l : Fin 28)
  | slewComplete (l : Fin 28)
  | laneSleepRequest (rq : Rq) (l : Fin 28) (v : Nat)
  | sparingMapWrite (rq : Rq) (v : Nat)
  | bypassEngage (pin : Bool) (rq : Rq)
  | bypassRelease (pin : Bool) (rq : Rq)
  | retimerLock (a0ToD0 : Bool) (rate : Fin 5)
  | retimerLockLoss (a0ToD0 : Bool)
  | ethernetModeWrite (rq : Rq) (x : Fin 2) (mode : Nat)
  | ethernetLinkUp (x : Fin 2)
  | ethernetLinkDown (x : Fin 2)
  -- The link protocol
  | groupSetReceived (k : Fin 18) (drift : Int) (unread : List Nat)
  | nakRepeat (k : Fin 18)
  | ackReceived (k : Fin 18) (seq : Nat)
  | nakReceived (k : Fin 18) (attempt : Fin 7) (seq : Nat)
  | replaySend (k : Fin 18)
  | replayReceived (k : Fin 18) (attempt seq n : Nat)
  | retrainReceived (k : Fin 18)
  | retrainRequest (rq : Rq) (k : Fin 18)
  | ackTimeout (k : Fin 18)
  | replayTimeout (k : Fin 18)
  | laneNotReadyTimeout (k : Fin 18)
  | packetSelect (k : Fin 18)
  | markerGroupSent (l : Fin 28) (dt ctr : Nat) (p : Fin 64) (h : Bool)
  | creditReturnReceived (k : Fin 18) (mask : Nat) (grants : List Nat)
  | creditReturnSend (k : Fin 16)
  | helloReceived (k : Fin 16) (ws : List Nat)
  | helloRepeat (k : Fin 18)
  | assignReceived (k : Fin 18) (port : Fin 16) (ws : List Nat)
  | refuseReceived (k : Fin 18)
  | serviceReceived (k : Fin 16)
  | isolateReceived (k : Fin 18) (on : Bool)
  | handshakeTimeout (k : Fin 18)
  | trainTimeout (k : Fin 18)
  | holdLooptimedClear (rq : Rq) (k : Fin 18)
  -- Time
  | timeProbeReceived (k : Fin 18) (pois : Bool) (ws : List Nat)
  | servoUpdate
  | timeSourceWrite (rq : Rq) (v : Nat)
  | reacquireRequest (rq : Rq)
  | probeSourceLost
  | ppsEdge (dt : Nat) (rising : Bool) (p : Fin 64) (h : Bool)
  | ppsLoss
  | ptpMessageReceived (dt : Nat) (x : Fin 2) (m : PtpMsg) (p : Fin 64) (h : Bool) (turn : Nat) (p2 : Fin 64) (h2 : Bool)
  | ptpDelayRequestSend (dt : Nat) (d : Fin 2) (p : Fin 64) (h : Bool)
  | announceTimeout (d : Fin 2)
  | syncTimeout (d : Fin 2)
  | instanceLeftSlave
  | domainSwitchRequest (rq : Rq) (v : Nat)
  | arpRequest (x : Fin 2) (arp : Bool) (target asker : Nat)
  -- Housekeeping
  | resultDelivery (m : Fin 4) (mod : List Bool) (clip : Option Bool)
  | resultRead (rq : Rq) (m : Fin 4)
  | excitationChange (rq : Rq) (idx sub value : Nat)
  | chainSettingsWrite (rq : Rq) (m : Fin 4) (sub value : Nat)
  | converterSettled (m : Fin 4)
  | openWireTrip (dt : Nat) (m : Fin 4) (high : Bool)
  | openWireRelease (dt : Nat) (m : Fin 4) (high : Bool)
  | complianceLoss (n : Fin 4) (b : Bool)
  | complianceRegained (n : Fin 4) (b : Bool)
  | loopCurrentCheck (j : Fin 2) (measured : Nat)
  | loopSourceTimeout (j : Fin 2)
  | converterStartNow (rq : Rq)
  | converterStartAtCompare (rq : Rq)
  | converterStop (rq : Rq)
  | converterStartEvent
  | injectedRequest (rq : Rq) (m : Fin 4)
  | hkCalibrationRequest (rq : Rq) (m : Fin 4)
  | hkCalibrationAbort (rq : Rq) (m : Fin 4)
  | hkCalibrationComplete (m : Fin 4) (results : List (List Int))
  -- The object dictionary
  | dictionaryRead (rq : Rq) (idx sub : Nat)
  | dictionaryWrite (rq : Rq) (idx sub v : Nat)
  | describe (rq : Rq) (idx sub : Nat)
  | domainReadSegment (rq : Rq) (idx sub off n : Nat)
  | domainWriteBegin (rq : Rq) (idx sub total : Nat)
  | domainWriteSegment (rq : Rq) (idx sub off : Nat) (ws : List Nat)
  | domainTransferCommit (i : Fin 8) (ok : Bool)
  | domainTransferTimeout (i : Fin 8)
  | domainTransferAbort (rq : Rq)
  | snapshotTimeout (i : Fin 8)
  | scheduledWrite (rq : Rq) (idx sub time v : Nat)
  | scheduledCommit (ok retryOk : Bool)
  | closeSession (rq : Rq)
  | journalCommit (dt : Nat) (ok retryOk : Bool)
  | compactionStart
  | compactionDone
  | broadcast (via : Option (Fin 18)) (octets : List Nat)
  | summaryReceived (k : Fin 16) (octets : List Nat)
  | summaryTimeout
  | crownReport
  | crownReceived (k : Fin 16) (tier addr time : Nat) (vals : List Nat)
  | crownStale (k : Fin 16)
  | healthEvaluation (temp : Nat)
  -- The service bus and sessions
  | busFrameReceived (via : Option (Fin 18)) (octets : List Nat)
  | upwardFrame (via : Option (Fin 16)) (octets : List Nat)
  | relayEntryTimeout
  | pollSend
  | poll (o : Origin)
  | pollTimeout
  | managementPacket (k : Fin 18) (pois : Bool) (ws : List Nat)
  | discover (o : Origin)
  | openSession (o : Origin) (slot : Nat) (nonce : List Nat)
  | prove (o : Origin) (slot : Nat) (i : Fin 8) (proof : List Nat)
  | challengeTimeout (i : Fin 8)
  | lockoutEnd (slot : Fin 8)
  | sessionIdleTimeout (i : Fin 8)
  | sessionCloseWrite (rq : Rq) (i : Fin 8)
  | keyWrite (rq : Rq) (slot : Fin 8) (value : Nat)
  -- Firmware and trigger-table updates
  | rebuildRequest (rq : Rq)
  | rebuildSector (ok : Bool)
  | rebuildCommit (ok : Bool)
  | rebuildAbort (rq : Rq)
  | trialBoot (rq : Rq) (bad : Nat) (safe : Bool)
  | fallbackRequest (rq : Rq) (bad : Nat)
  | clearTrialStatus (rq : Rq)
  | trialConfirm
  | healthWindowEnd (bad : Nat)
  | transomInstall (i : Fin 8) (ok : Bool)
  | transomReadback (ok : Bool)
  | transomWindowEnd (ok : Bool)
  | transomRevert (rq : Rq)
  -- Power, reset and start-up
  | supplyRise (n : Fin 6)
  | supplyFail (n : Fin 6)
  | pfailAssert
  | lrefLoss
  | powerFailReset
  | resetRelease (straps : Fin 4) (safe : Bool) (bad : Nat) (ok : Bool)
  -- Testing and bypassing in service
  | portIsolate (rq : Rq) (port : Fin 16)
  | portRelease (rq : Rq) (port : Fin 16)
  | laneTestStart (rq : Rq) (l : Fin 28)
  | laneTestStop (rq : Rq) (l : Fin 28) (bs : List Bool)
  | laneTestDurationEnd (l : Fin 28) (bs : List Bool)
  | memorySelfTestStart (rq : Rq)
  | memorySelfTestDone (fails : List (Nat × Nat))
  | jtagInstructionUpdate (op : Fin 256) (scan : Option DrScan)
  | checkerLock (l : Fin 28) (bs : List Bool)
  | checkerLockLoss (l : Fin 28) (bs : List Bool)
  | testLogicReset
  deriving DecidableEq, Repr, Inhabited

end Sys2Proof
end

