-- ==== Sys2Proof/Decode.lean ====
section
/-! DEFINITION. Commands spelled by table words. The table of operations and events gives none of its 219 rows any bits:
each row is an event on a pin, a link, a memory or a service path, not an encoding. No word spells a command. -/
namespace Sys2Proof

/-- The command that a word of `nbits` bits spells by the table's bits: none, since no row of the table has any. -/
def decodeTableWord (_nbits _w : Nat) : Option Instr := none

end Sys2Proof
end

