-- ==== Sys2Proof/Machine/Operands.lean ====
section
/-! DEFINITION. Operand forms: bit fields, sign extension, the word order of R8 and parity (R7, R9). -/
namespace Sys2Proof.Machine

/-- Bits [hi:lo] of a number (R9). -/
def bits (n hi lo : Nat) : Nat := (n >>> lo) % 2 ^ (hi + 1 - lo)

/-- Bit `i` of a number (R9). -/
def bit (n i : Nat) : Bool := n.testBit i

/-- A number with bit `i` set. -/
def setBit (n i : Nat) : Nat := n ||| (1 <<< i)

/-- A number with bit `i` clear. -/
def clrBit (n i : Nat) : Nat := if n.testBit i then n ^^^ (1 <<< i) else n

/-- A number with bit `i` set as `b`. -/
def putBit (n i : Nat) (b : Bool) : Nat := if b then setBit n i else clrBit n i

/-- How many of the low `w` bits are one. -/
def popcount : (w n : Nat) → Nat
  | 0, _ => 0
  | w + 1, n => n % 2 + popcount w (n / 2)

/-- Two's complement value of the low `w` bits. -/
def toSigned (w n : Nat) : Int :=
  let m := n % 2 ^ w
  if m < 2 ^ (w - 1) then (m : Int) else (m : Int) - (2 ^ w : Nat)

/-- The low `w` bits of an integer, two's complement. -/
def ofSigned (w : Nat) (i : Int) : Nat := (i % ((2 ^ w : Nat) : Int)).toNat

/-- An I32 value in its 40 bits: bits [39:32] are copies of bit 31 (R410). -/
def ofI32 (i : Int) : Nat := ofSigned 40 (toSigned 32 (ofSigned 32 i))

/-- The signed value of an I32 entry (R410). -/
def s32 (n : Nat) : Int := toSigned 32 n

/-- The signed value of an I20 entry (R410). -/
def s20 (n : Nat) : Int := toSigned 20 n

/-- A number as `n` words, most significant word first (R8). -/
def toWords (n v : Nat) : List Nat :=
  (List.range n).map fun i => (v >>> (20 * (n - 1 - i))) % 2 ^ 20

/-- The number that a list of words spells, most significant word first (R8). -/
def ofWords (ws : List Nat) : Nat := ws.foldl (fun a w => a * 2 ^ 20 + w % 2 ^ 20) 0

/-- The number that a list of octets spells, most significant octet first. -/
def ofOctets (os : List Nat) : Nat := os.foldl (fun a o => a * 256 + o % 256) 0

/-- A number as `n` octets, most significant octet first. -/
def toOctets (n v : Nat) : List Nat := (List.range n).map fun i => (v >>> (8 * (n - 1 - i))) % 256

/-- The sum of 20-bit words modulo 2^20. -/
def sum20 (ws : List Nat) : Nat := ws.foldl (fun a w => (a + w) % 2 ^ 20) 0

/-- Whether the number of ones in the 21 bits of a unit is even (R7). -/
def evenParity (u : Unit21) : Bool := popcount 21 u.toNat % 2 == 0

/-- The 21-bit unit of a word: bit [20] makes the number of ones even (R7). -/
def withParity (w : Word) : Unit21 := BitVec.ofNat 21 (popcount 20 w.toNat % 2 * 2 ^ 20 + w.toNat)

/-- The poison unit 1FFFFFh (R43). -/
def poisonUnit : Unit21 := 0x1FFFFF

/-- A clean word in flight. -/
def fw (n : Nat) : FWord := { data := BitVec.ofNat 20 n }

/-- A poisoned word in flight: all ones (R49). -/
def poisonWord : FWord := { data := 0xFFFFF, poison := true }

/-- The value of a word in flight. -/
def wv (w : FWord) : Nat := w.data.toNat

/-- `a` minus `b` modulo 2^w (R11). -/
def subMod (w a b : Nat) : Nat := (a + 2 ^ w - b % 2 ^ w) % 2 ^ w

/-- `a` minus `b` modulo 2^w as a signed number: which of two times is later (R11). -/
def diffMod (w a b : Nat) : Int := toSigned w (subMod w a b)

/-- Division rounded up. -/
def ceilDiv (a b : Nat) : Nat := (a + b - 1) / b

/-- Round to nearest of `a / b`, halves away from zero, for a positive `b`. -/
def roundDiv (a : Int) (b : Nat) : Int :=
  if a < 0 then -(((-a).toNat * 2 + b) / (2 * b) : Nat) else ((a.toNat * 2 + b) / (2 * b) : Nat)

/-- The integer square root by bits, `w` bits of result. -/
def isqrtAux (n : Nat) : (w r : Nat) → Nat
  | 0, r => r
  | w + 1, r => let c := r + 2 ^ w; if c * c ≤ n then isqrtAux n w c else isqrtAux n w r

/-- The integer square root, rounded down, of a number below 2^128. -/
def isqrt (n : Nat) : Nat := isqrtAux n 64 0

/-- The 20-bit CRC-free check word that makes a list of words sum to 0 modulo 2^20. -/
def checkWord (ws : List Nat) : Nat := (2 ^ 20 - sum20 ws) % 2 ^ 20

/-- Replace the element at place `i`. -/
def setAt {α : Type} : List α → Nat → α → List α
  | [], _, _ => []
  | _ :: t, 0, v => v :: t
  | a :: t, i + 1, v => a :: setAt t i v

end Sys2Proof.Machine
end

