-- ==== Sys2Proof/Machine/Coding.lean ====
section
/-! DEFINITION. The line coding of a lane: sync pattern, group header, scrambling, stuffing and training words, both as
a transmitter sends them and as a receiver takes them (R270 to R275, R286). Line bits are lists, the first bit sent
first. -/
namespace Sys2Proof.Machine

/-- The bits of an `n`-bit number, bit [n - 1] first (R270). -/
def bitsOf : (n v : Nat) → List Bool
  | 0, _ => []
  | n + 1, v => v.testBit n :: bitsOf n v

/-- The number that bits spell, first bit highest. -/
def numOf (bs : List Bool) : Nat := bs.foldl (fun a b => 2 * a + b.toNat) 0

/-- The sync pattern: sixteen ones, then sixteen zeros (R270). -/
def syncBits : List Bool := List.replicate 16 true ++ List.replicate 16 false

/-- The fields of a group header (R271); kind 0 data, 1 marker, 2 training. -/
structure GroupHeader where
  idx : Nat := 0
  width : Nat := 0
  kind : Nat := 0
  slp : Bool := false
  lt : Bool := false
  seq : Nat := 0
  deriving DecidableEq, Repr, Inhabited

/-- A header as its 21-bit unit (R271). -/
def GroupHeader.unit (h : GroupHeader) : Nat :=
  let n := h.idx * 2 ^ 18 + h.width * 2 ^ 16 + h.kind * 2 ^ 14 + (if h.slp then 2 ^ 13 else 0) + (if h.lt then 2 ^ 12 else 0) + h.seq
  popcount 20 n % 2 * 2 ^ 20 + n

/-- A header read from its unit; none where parity fails or a field is marked not used (R271, R275). -/
def headerOf (u : Nat) : Option GroupHeader :=
  if popcount 21 u % 2 = 0 ∧ bits u 17 16 ≠ 3 ∧ bits u 15 14 ≠ 3 then
    some { idx := bits u 19 18, width := bits u 17 16, kind := bits u 15 14, slp := bit u 13, lt := bit u 12, seq := bits u 11 0 }
  else none

/-- The scrambler's seed for a group (R273). -/
def scrambleSeed (idx seq : Nat) : Nat := 2 ^ 30 + idx * 2 ^ 28 + seq * 2 ^ 16 + 0x5A5A

/-- Scramble or descramble bits from the register state `s` (R273). -/
def scramble : (s : Nat) → List Bool → List Bool
  | _, [] => []
  | s, x :: t =>
    let b := xor (s.testBit 30) (s.testBit 27)
    xor x b :: scramble (s * 2 % 2 ^ 31 + b.toNat) t

/-- The run after a bit: `run` bits equal to `last` came before it. -/
def runNext (last : Bool) (run : Nat) (b : Bool) : Nat := if b = last ∧ run ≠ 0 then run + 1 else 1

/-- Insert a stuffed bit after every run of 11 identical bits (R274). -/
def stuff : List Bool → (last : Bool) → (run : Nat) → List Bool
  | [], _, _ => []
  | b :: t, last, run =>
    if run = 11 then (!last) :: b :: stuff t b (runNext (!last) 1 b)
    else b :: stuff t b (runNext last run b)

/-- What removing the stuffed bits leaves: the other bits, the number of stuff violations and of stuffed bits, and how
many bits came before the first violation (R274). -/
structure Destuffed where
  bits : List Bool := []
  violations : Nat := 0
  stuffed : Nat := 0
  clean : Option Nat := none
  deriving DecidableEq, Repr, Inhabited

/-- Remove the bit that follows every 11 identical bits, until `need` bits are there (R274). -/
def destuff : List Bool → (last : Bool) → (run need : Nat) → Destuffed
  | [], _, _, _ => {}
  | b :: t, last, run, need =>
    if need = 0 then {}
    else if run = 11 then
      let r := destuff t b 1 need
      if b = last then { r with violations := r.violations + 1, stuffed := r.stuffed + 1, clean := some 0 }
      else { r with stuffed := r.stuffed + 1 }
    else
      let r := destuff t b (runNext last run b) (need - 1)
      { r with bits := b :: r.bits, clean := r.clean.map (· + 1) }

/-- A group as sent: sync pattern, header and 256 scrambled slots, stuffed (R270 to R274). -/
def sendGroup (h : GroupHeader) (units : List Nat) : List Bool :=
  syncBits ++ stuff (bitsOf 21 h.unit ++ scramble (scrambleSeed h.idx h.seq) (units.flatMap (bitsOf 21))) false 0

/-- What a receiver finds of a group: where its sync pattern begins, whether the lane is inverted, its header, its
slots, and the stuff violations and stuffed bits. -/
structure LineGroup where
  place : Nat
  inverted : Bool
  header : Option GroupHeader
  units : List Nat
  violations : Nat
  stuffed : Nat
  deriving DecidableEq, Repr, Inhabited

/-- The first place, counted from `i`, at which a list begins with the sync pattern, among `n` places (R275). -/
def findSync : (n i : Nat) → List Bool → Option Nat
  | 0, _, _ => none
  | _ + 1, _, [] => none
  | n + 1, i, b :: t => if (b :: t).take 32 = syncBits then some i else findSync n (i + 1) t

/-- Bits in pieces of 21, as numbers. -/
def unitsOf : (n : Nat) → List Bool → List Nat
  | 0, _ => []
  | n + 1, bs => numOf (bs.take 21) :: unitsOf n (bs.drop 21)

/-- A word's unit passes parity (R7). -/
def unitOk (u : Nat) : Bool := popcount 21 u % 2 == 0

/-- A unit made to fail parity. -/
def spoil (u : Nat) : Nat := if unitOk u then u ^^^ 2 ^ 20 else u

/-- The slots from the one in which a stuff violation falls on fail parity, whatever their bits (R274; DEDUCED: "the words
it then delivers" are all those from the violation to the end of the group, log 107). -/
def spoilFrom (clean : Option Nat) (us : List Nat) : List Nat :=
  match clean with
  | some n => let j := (n - 21) / 21; us.take j ++ (us.drop j).map spoil
  | none => us

/-- A group taken from line bits whose sync pattern begins at `place` (R273, R274). -/
def takeGroup (place : Nat) (inverted : Bool) (line : List Bool) : LineGroup :=
  let d := destuff (line.drop (place + 32)) false 0 5397
  let h := headerOf (numOf (d.bits.take 21))
  let s := match h with
    | some h => scramble (scrambleSeed h.idx h.seq) (d.bits.drop 21)
    | none => d.bits.drop 21
  { place, inverted, header := h, units := spoilFrom d.clean (unitsOf 256 s), violations := d.violations, stuffed := d.stuffed }

/-- The training words of a training group: the first copy whose four units pass parity (R286). -/
def trainingOf : (n : Nat) → List Nat → Option (List Nat)
  | 0, _ => none
  | n + 1, us =>
    if us.length < 4 then none
    else if (us.take 4).all unitOk then some ((us.take 4).map (· % 2 ^ 20)) else trainingOf n (us.drop 4)

/-- The training words of a training group (R286). -/
structure Training where
  step : Nat := 0
  rate : Nat := 0
  proposed : Nat := 0
  ack : Bool := false
  rates : Nat := 31
  highest : Nat := 4
  width : Nat := 0
  follower : Bool := false
  eyeWidth : Nat := 0
  eyeHeight : Nat := 0
  eq : Nat := 0
  switchSeq : Nat := 0
  deriving DecidableEq, Repr, Inhabited

/-- Training words as fields; none where the training code is not Ah (R286). -/
def trainingFields (ws : List Nat) : Option Training :=
  match ws with
  | [a, b, c, d] =>
    if bits a 19 16 = 0xA then
      some { step := bits a 15 14, rate := bits a 13 11, proposed := bits a 10 8, ack := bit a 7, rates := bits b 19 15, highest := bits b 14 12, width := bits b 11 10, follower := bit b 9, eyeWidth := bits c 19 14, eyeHeight := bits c 13 6, eq := bits c 5 0, switchSeq := bits d 11 0 }
    else none
  | _ => none

/-- Training words as sent (R286). -/
def Training.words (t : Training) : List Nat :=
  [0xA * 2 ^ 16 + t.step * 2 ^ 14 + t.rate * 2 ^ 11 + t.proposed * 2 ^ 8 + (if t.ack then 2 ^ 7 else 0),
   t.rates * 2 ^ 15 + t.highest * 2 ^ 12 + t.width * 2 ^ 10 + (if t.follower then 2 ^ 9 else 0),
   t.eyeWidth * 2 ^ 14 + t.eyeHeight * 2 ^ 6 + t.eq, t.switchSeq]

end Sys2Proof.Machine
end

