-- ==== Sys2Proof/Config.lean ====
section
/-! DEFINITION. What an implementation fixes and the values the manual leaves open.
A free value is an opaque constant: no proof can see which value it is. -/
namespace Sys2Proof

/-- The free value number `n`: any natural number. The step applies it to a counter of State
(`State.free`), so that each undetermined value is a fresh one. -/
opaque Config.freeNat : Nat → Nat

/-- The 27 stored bits of a word of event memory that was never written, by its address (R248). -/
opaque Config.powerUpBits : (address : Nat) → Nat

/-- What a port finds in a unit of event memory whose stored bits were not written under the region's code (R248), by its
first address: an outcome modulo 5, and above it the bits a correction names. -/
opaque Config.wildUnit : (address : Nat) → Nat

/-- The check bits of a unit under a code, in poison form or not: 7 for each word of it (R250); the manual does not print
the codes. -/
opaque Config.checkBits : (code data : Nat) → (poison : Bool) → Nat

/-- Which of the check bits 40 to 53 of a D2 pair a stored check bit of its even or odd word is (R257): the manual does not
place them in the row. -/
opaque Config.checkPlace : (odd : Bool) → (stored : Nat) → Nat

/-- Word `i` of the dictionary shadows that the management controller keeps in region 0 (R247, R259): the manual does not say
what they hold. -/
opaque Config.shadowWord : (i : Nat) → Nat

/-- What a Bough's own time counter adds to TUNL of a triggered event for which it applied no command: the span of the
event is not known to it (R128, R205). -/
opaque Config.unseenTunl : (view id : Nat) → Bool

/-- How far the rate that a lane's receiver measures lies from the part's own LREF, in 0.01 ppm, at a ring period (R299,
5020h + l.0F): it comes from the far end's reference, which is outside the part. -/
opaque Config.rateOffset : (lane ring : Nat) → Nat

/-- The Vendor's Ed25519 signature check of R477 (RFC 8032): the Vendor public key is in the mask ROM
and the manual does not print it, so the predicate of message and signature octets stays open. -/
opaque Config.vendorSigned : (message signature : List Nat) → Bool

/-- The octets of the firmware image that the flash holds in slot A from manufacture (R475): the manual does not print
them. -/
opaque Config.factoryImage : List Nat

/-- The layout version that the firmware of a version defines for an entry (R409, R489): its Randor listing holds it, and
the manual does not print one. -/
opaque Config.layout : (firmware index sub : Nat) → Nat

/-- Which entries the Vendor's block F000h to FFFFh has (R12, R441): the manual documents none. -/
opaque Config.vendorHas : (index sub : Nat) → Bool

/-- The words that a read or a describe of an entry of the Vendor's block returns, by the number of the free value (R12). -/
opaque Config.vendorWords : (index sub n : Nat) → List (BitVec 20)

/-- Apquin Devices' manufacturer identity under JEP106, as the BSDL file states it (R525). -/
opaque Config.jtagMaker : Nat

/-- The depth of the dictionary-access FIFOs of I12, as a power of two: R59 names them, and R66 gives them no depth. -/
opaque Config.dictFifoBits : Nat

/-- The Vendor's wrapping key and the factory key of slot 0 (R18, R460): the manual does not print it. -/
opaque Config.vendorKey : Nat

end Sys2Proof
end

