-- ==== Sys2Proof/Machine/Catalogue.lean ====
section
/-! DEFINITION. The catalogue of dictionary entries (R408 to R414): one row per line of the entry tables of the
chapters, with the columns of its descriptor and the range its Meaning column states. Written by a script from the
tables of spec/, in pieces joined by index range. -/
namespace Sys2Proof.Machine

/-- The types of R410. -/
inductive Ty where
  | bool | u8 | u16 | u20 | u32 | u40 | u80 | i20 | i32 | q20_8 | str | key | domain
  deriving DecidableEq, Repr, Inhabited

/-- Access codes of R12: read-only, read and write, write-only, write-limited. -/
inductive Acc where
  | ro | rw | wo | wl
  deriving DecidableEq, Repr, Inhabited

/-- The range of values an entry allows on its own, beyond its type's encoding (R410, R415 code 05h). -/
inductive Rng where
  | any
  | le (n : Nat)
  | between (lo hi : Nat)
  | zeroOr (lo hi : Nat)
  | oneOf (l : List Nat)
  | signed (lo hi : Int)
  | intervalSource   -- a source code of R130
  | hkSource         -- a source code of R363
  | sxPin            -- 00h to 1Fh, or FFh
  | evenU8           -- bit 0 zero
  | sparing          -- the map of R294
  deriving DecidableEq, Repr, Inhabited

/-- One line of an entry table: the rectangle of indices and sub-indices it covers and its descriptor. -/
structure Row where
  i0 : Nat
  i1 : Nat
  s0 : Nat
  s1 : Nat
  ty : Ty
  acc : Acc
  /-- Class sets, bit c for class code c. -/
  rd : Nat
  wr : Nat
  /-- The owner of the entry's view is added to both sets. -/
  owner : Bool
  /-- A committed write takes effect at a frame boundary. -/
  frame : Bool
  /-- The entry is a counter. -/
  counter : Bool
  /-- Persistence code of R419. -/
  pers : Nat
  dflt : Nat
  /-- DOMAIN: largest number of elements. STR: largest number of octets. -/
  len : Nat
  /-- DOMAIN: the type of each element. -/
  elem : Ty
  /-- WL: changes allowed. -/
  limit : Nat
  rng : Rng
  deriving DecidableEq, Repr, Inhabited

/-- Rows of the 0000h range, piece 0. -/
def rows0_0 : List Row := [
  ⟨0x0000, 0x0000, 0x00, 0x00, .u8, .ro, 0xFE, 0x00, false, false, false, 0, 9, 0, .bool, 0, .any⟩,
  ⟨0x0000, 0x0000, 0x01, 0x01, .str, .ro, 0xFE, 0x00, false, false, false, 0, 0, 128, .bool, 0, .any⟩,
  ⟨0x0000, 0x0000, 0x02, 0x02, .str, .ro, 0xFE, 0x00, false, false, false, 0, 0, 128, .bool, 0, .any⟩,
  ⟨0x0000, 0x0000, 0x03, 0x03, .str, .ro, 0xFE, 0x00, false, false, false, 3, 0, 128, .bool, 0, .any⟩,
  ⟨0x0000, 0x0000, 0x04, 0x04, .u8, .ro, 0xFE, 0x00, false, false, false, 3, 0, 0, .bool, 0, .any⟩,
  ⟨0x0000, 0x0000, 0x05, 0x05, .u16, .ro, 0xFE, 0x00, false, false, false, 0, 0, 0, .bool, 0, .any⟩,
  ⟨0x0000, 0x0000, 0x06, 0x06, .u80, .ro, 0xFE, 0x00, false, false, false, 3, 0, 0, .bool, 0, .any⟩,
  ⟨0x0000, 0x0000, 0x07, 0x07, .u8, .ro, 0xFE, 0x00, false, false, false, 3, 1, 0, .bool, 0, .any⟩,
  ⟨0x0000, 0x0000, 0x08, 0x08, .u16, .ro, 0xFE, 0x00, false, false, false, 0, 0, 0, .bool, 0, .any⟩,
  ⟨0x0000, 0x0000, 0x09, 0x09, .u32, .ro, 0xFE, 0x00, false, false, false, 1, 0, 0, .bool, 0, .any⟩]

/-- Rows of the 0000h range. -/
def rows0 : List Row := rows0_0

/-- Rows of the 1000h range, piece 0. -/
def rows1_0 : List Row := [
  ⟨0x1000, 0x1000, 0x00, 0x00, .u8, .ro, 0xFE, 0x00, false, false, false, 0, 7, 0, .bool, 0, .any⟩,
  ⟨0x1000, 0x1000, 0x01, 0x01, .u8, .ro, 0xFE, 0x00, false, false, false, 1, 0, 0, .bool, 0, .any⟩,
  ⟨0x1000, 0x1000, 0x02, 0x02, .u20, .ro, 0xFE, 0x00, false, false, false, 1, 0, 0, .bool, 0, .any⟩,
  ⟨0x1000, 0x1000, 0x03, 0x03, .u20, .rw, 0xFE, 0x02, false, false, false, 2, 0, 0, .bool, 0, .any⟩,
  ⟨0x1000, 0x1000, 0x04, 0x04, .i20, .ro, 0xFE, 0x00, false, false, false, 1, 0, 0, .bool, 0, .any⟩,
  ⟨0x1000, 0x1000, 0x05, 0x05, .u40, .ro, 0xFE, 0x00, false, false, false, 1, 0, 0, .bool, 0, .any⟩,
  ⟨0x1000, 0x1000, 0x06, 0x06, .u20, .rw, 0xFE, 0x02, false, false, true, 1, 0, 0, .bool, 0, (.oneOf [0])⟩,
  ⟨0x1000, 0x1000, 0x07, 0x07, .u40, .ro, 0xFE, 0x00, false, false, false, 1, 0, 0, .bool, 0, .any⟩,
  ⟨0x1020, 0x1020, 0x00, 0x00, .u8, .ro, 0xFE, 0x00, false, false, false, 0, 4, 0, .bool, 0, .any⟩,
  ⟨0x1020, 0x1020, 0x01, 0x01, .u8, .wl, 0xFE, 0x82, false, false, false, 3, 255, 0, .bool, 7, (.oneOf [0, 1, 255])⟩,
  ⟨0x1020, 0x1020, 0x02, 0x02, .u8, .ro, 0xFE, 0x00, false, false, false, 3, 0, 0, .bool, 0, .any⟩,
  ⟨0x1020, 0x1020, 0x03, 0x03, .u8, .ro, 0xFE, 0x00, false, false, false, 1, 0, 0, .bool, 0, .any⟩,
  ⟨0x1020, 0x1020, 0x04, 0x04, .u8, .ro, 0xFE, 0x00, false, false, false, 1, 0, 0, .bool, 0, .any⟩,
  ⟨0x1100, 0x1100, 0x00, 0x00, .u8, .ro, 0xFE, 0x00, false, false, false, 0, 10, 0, .bool, 0, .any⟩,
  ⟨0x1100, 0x1100, 0x01, 0x01, .u20, .ro, 0xFE, 0x00, false, false, false, 1, 0, 0, .bool, 0, .any⟩,
  ⟨0x1100, 0x1100, 0x02, 0x02, .u8, .ro, 0xFE, 0x00, false, false, false, 1, 255, 0, .bool, 0, .any⟩,
  ⟨0x1100, 0x1100, 0x03, 0x03, .u8, .ro, 0xFE, 0x00, false, false, false, 1, 0, 0, .bool, 0, .any⟩,
  ⟨0x1100, 0x1100, 0x04, 0x04, .bool, .rw, 0xFE, 0x82, false, false, false, 2, 0, 0, .bool, 0, .any⟩,
  ⟨0x1100, 0x1100, 0x05, 0x05, .u8, .wl, 0xFE, 0x82, false, false, false, 3, 16, 0, .bool, 15, (.le 16)⟩,
  ⟨0x1100, 0x1100, 0x06, 0x06, .u8, .ro, 0xFE, 0x00, false, false, false, 3, 0, 0, .bool, 0, .any⟩,
  ⟨0x1100, 0x1100, 0x07, 0x07, .u8, .ro, 0xFE, 0x00, false, false, false, 1, 255, 0, .bool, 0, .any⟩,
  ⟨0x1100, 0x1100, 0x08, 0x08, .u8, .ro, 0xFE, 0x00, false, false, false, 1, 255, 0, .bool, 0, .any⟩,
  ⟨0x1100, 0x1100, 0x09, 0x09, .u20, .rw, 0xFE, 0x02, false, false, true, 1, 0, 0, .bool, 0, (.oneOf [0])⟩,
  ⟨0x1100, 0x1100, 0x0A, 0x0A, .u8, .ro, 0xFE, 0x00, false, false, false, 1, 0, 0, .bool, 0, .any⟩,
  ⟨0x1110, 0x1110, 0x00, 0x00, .u8, .ro, 0xFE, 0x00, false, false, false, 0, 9, 0, .bool, 0, .any⟩,
  ⟨0x1110, 0x1110, 0x01, 0x04, .u8, .rw, 0xFE, 0x02, false, false, false, 2, 0, 0, .bool, 0, (.le 5)⟩,
  ⟨0x1110, 0x1110, 0x05, 0x08, .u8, .rw, 0xFE, 0x02, false, false, false, 2, 4, 0, .bool, 0, (.le 16)⟩,
  ⟨0x1110, 0x1110, 0x09, 0x09, .u16, .ro, 0xFE, 0x00, false, false, false, 1, 0, 0, .bool, 0, .any⟩,
  ⟨0x1200, 0x1200, 0x00, 0x00, .u8, .ro, 0xFE, 0x00, false, false, false, 0, 8, 0, .bool, 0, .any⟩,
  ⟨0x1200, 0x1200, 0x01, 0x01, .q20_8, .ro, 0xFE, 0x00, false, false, false, 1, 0, 0, .bool, 0, .any⟩,
  ⟨0x1200, 0x1200, 0x02, 0x02, .q20_8, .ro, 0xFE, 0x00, false, false, false, 1, 0, 0, .bool, 0, .any⟩,
  ⟨0x1200, 0x1200, 0x03, 0x03, .q20_8, .rw, 0xFE, 0x02, false, false, false, 1, 268435455, 0, .bool, 0, .any⟩,
  ⟨0x1200, 0x1200, 0x04, 0x04, .q20_8, .rw, 0xFE, 0x02, false, false, false, 2, 281, 0, .bool, 0, .any⟩,
  ⟨0x1200, 0x1200, 0x05, 0x05, .u20, .rw, 0xFE, 0x02, false, false, true, 1, 0, 0, .bool, 0, (.oneOf [0])⟩,
  ⟨0x1200, 0x1200, 0x06, 0x06, .u16, .ro, 0xFE, 0x00, false, false, false, 1, 0, 0, .bool, 0, .any⟩,
  ⟨0x1200, 0x1200, 0x07, 0x07, .u20, .rw, 0xFE, 0x02, false, false, true, 1, 0, 0, .bool, 0, (.oneOf [0])⟩,
  ⟨0x1200, 0x1200, 0x08, 0x08, .u20, .rw, 0xFE, 0x02, false, false, true, 1, 0, 0, .bool, 0, (.oneOf [0])⟩,
  ⟨0x1210, 0x1210, 0x00, 0x00, .u8, .ro, 0xFE, 0x00, false, false, false, 0, 18, 0, .bool, 0, .any⟩,
  ⟨0x1210, 0x1210, 0x01, 0x12, .u8, .rw, 0xFE, 0x02, false, false, false, 1, 0, 0, .bool, 0, (.oneOf [0])⟩,
  ⟨0x1211, 0x1211, 0x00, 0x00, .u8, .ro, 0xFE, 0x00, false, false, false, 0, 18, 0, .bool, 0, .any⟩]
/-- Rows of the 1000h range, piece 1. -/
def rows1_1 : List Row := [
  ⟨0x1211, 0x1211, 0x01, 0x12, .u20, .rw, 0xFE, 0x02, false, false, true, 1, 0, 0, .bool, 0, (.oneOf [0])⟩,
  ⟨0x1212, 0x1212, 0x00, 0x00, .u8, .ro, 0xFE, 0x00, false, false, false, 0, 18, 0, .bool, 0, .any⟩,
  ⟨0x1212, 0x1212, 0x01, 0x12, .u20, .rw, 0xFE, 0x02, false, false, true, 1, 0, 0, .bool, 0, (.oneOf [0])⟩,
  ⟨0x1220, 0x1220, 0x00, 0x00, .u8, .ro, 0xFE, 0x00, false, false, false, 0, 5, 0, .bool, 0, .any⟩,
  ⟨0x1220, 0x1220, 0x01, 0x01, .u20, .rw, 0xFE, 0x02, false, false, true, 1, 0, 0, .bool, 0, (.oneOf [0])⟩,
  ⟨0x1220, 0x1220, 0x02, 0x02, .u20, .rw, 0xFE, 0x02, false, false, true, 1, 0, 0, .bool, 0, (.oneOf [0])⟩,
  ⟨0x1220, 0x1220, 0x03, 0x03, .u20, .rw, 0xFE, 0x02, false, false, true, 1, 0, 0, .bool, 0, (.oneOf [0])⟩,
  ⟨0x1220, 0x1220, 0x04, 0x04, .u16, .ro, 0xFE, 0x00, false, false, false, 1, 0, 0, .bool, 0, .any⟩,
  ⟨0x1220, 0x1220, 0x05, 0x05, .u80, .ro, 0xFE, 0x00, false, false, false, 1, 0, 0, .bool, 0, .any⟩,
  ⟨0x1230, 0x1230, 0x00, 0x00, .u8, .ro, 0xFE, 0x00, false, false, false, 0, 3, 0, .bool, 0, .any⟩,
  ⟨0x1230, 0x1230, 0x01, 0x01, .u20, .rw, 0xFE, 0x02, false, false, true, 1, 0, 0, .bool, 0, (.oneOf [0])⟩,
  ⟨0x1230, 0x1230, 0x02, 0x02, .u20, .rw, 0xFE, 0x02, false, false, true, 1, 0, 0, .bool, 0, (.oneOf [0])⟩,
  ⟨0x1230, 0x1230, 0x03, 0x03, .u8, .ro, 0xFE, 0x00, false, false, false, 1, 0, 0, .bool, 0, .any⟩,
  ⟨0x1300, 0x1300, 0x00, 0x00, .u8, .ro, 0xFE, 0x00, false, false, false, 0, 5, 0, .bool, 0, .any⟩,
  ⟨0x1300, 0x1300, 0x01, 0x01, .u16, .rw, 0xFE, 0x02, false, false, false, 2, 65535, 0, .bool, 0, .any⟩,
  ⟨0x1300, 0x1300, 0x02, 0x02, .bool, .rw, 0xFE, 0x02, false, false, false, 2, 1, 0, .bool, 0, .any⟩,
  ⟨0x1300, 0x1300, 0x03, 0x03, .u16, .rw, 0xFE, 0x02, false, false, false, 2, 300, 0, .bool, 0, (.between 10 3600)⟩,
  ⟨0x1300, 0x1300, 0x04, 0x04, .u8, .rw, 0xFE, 0x02, false, false, false, 2, 130, 0, .bool, 0, .evenU8⟩,
  ⟨0x1300, 0x1300, 0x05, 0x05, .bool, .rw, 0xFE, 0x02, false, false, false, 2, 1, 0, .bool, 0, .any⟩,
  ⟨0x1301, 0x1301, 0x00, 0x00, .u8, .ro, 0xFE, 0x00, false, false, false, 0, 8, 0, .bool, 0, .any⟩,
  ⟨0x1301, 0x1301, 0x01, 0x01, .u20, .rw, 0xFE, 0x02, false, false, true, 1, 0, 0, .bool, 0, (.oneOf [0])⟩,
  ⟨0x1301, 0x1301, 0x02, 0x02, .u20, .rw, 0xFE, 0x02, false, false, true, 1, 0, 0, .bool, 0, (.oneOf [0])⟩,
  ⟨0x1301, 0x1301, 0x03, 0x03, .u20, .rw, 0xFE, 0x02, false, false, true, 1, 0, 0, .bool, 0, (.oneOf [0])⟩,
  ⟨0x1301, 0x1301, 0x04, 0x04, .u20, .rw, 0xFE, 0x02, false, false, true, 1, 0, 0, .bool, 0, (.oneOf [0])⟩,
  ⟨0x1301, 0x1301, 0x05, 0x05, .u20, .rw, 0xFE, 0x02, false, false, true, 1, 0, 0, .bool, 0, (.oneOf [0])⟩,
  ⟨0x1301, 0x1301, 0x06, 0x06, .u20, .rw, 0xFE, 0x02, false, false, true, 1, 0, 0, .bool, 0, (.oneOf [0])⟩,
  ⟨0x1301, 0x1301, 0x07, 0x07, .u20, .rw, 0xFE, 0x02, false, false, true, 1, 0, 0, .bool, 0, (.oneOf [0])⟩,
  ⟨0x1301, 0x1301, 0x08, 0x08, .u20, .rw, 0xFE, 0x02, false, false, true, 1, 0, 0, .bool, 0, (.oneOf [0])⟩,
  ⟨0x1302, 0x1302, 0x00, 0x00, .u8, .ro, 0xFE, 0x00, false, false, false, 0, 16, 0, .bool, 0, .any⟩,
  ⟨0x1302, 0x1302, 0x01, 0x10, .u8, .ro, 0xFE, 0x00, false, false, false, 1, 0, 0, .bool, 0, .any⟩,
  ⟨0x1310, 0x1317, 0x00, 0x00, .u8, .ro, 0xFE, 0x00, false, false, false, 0, 6, 0, .bool, 0, .any⟩,
  ⟨0x1310, 0x1310, 0x01, 0x01, .key, .wl, 0x00, 0x80, false, false, false, 3, 0, 0, .bool, 3, .any⟩,
  ⟨0x1312, 0x1317, 0x01, 0x01, .key, .wl, 0x00, 0x02, false, false, false, 3, 0, 0, .bool, 3, .any⟩,
  ⟨0x1311, 0x1311, 0x01, 0x01, .key, .wl, 0x00, 0x82, false, false, false, 3, 0, 0, .bool, 3, .any⟩,
  ⟨0x1310, 0x1317, 0x02, 0x02, .u8, .ro, 0xFE, 0x00, false, false, false, 3, 0, 0, .bool, 0, .any⟩,
  ⟨0x1310, 0x1317, 0x03, 0x03, .u8, .ro, 0xFE, 0x00, false, false, false, 0, 0, 0, .bool, 0, .any⟩,
  ⟨0x1310, 0x1317, 0x04, 0x04, .u8, .ro, 0xFE, 0x00, false, false, false, 3, 0, 0, .bool, 0, .any⟩,
  ⟨0x1310, 0x1317, 0x05, 0x05, .u20, .rw, 0xFE, 0x02, false, false, true, 1, 0, 0, .bool, 0, (.oneOf [0])⟩,
  ⟨0x1310, 0x1317, 0x06, 0x06, .u20, .rw, 0xFE, 0x02, false, false, true, 1, 0, 0, .bool, 0, (.oneOf [0])⟩,
  ⟨0x1320, 0x1327, 0x00, 0x00, .u8, .ro, 0xFE, 0x00, false, false, false, 0, 7, 0, .bool, 0, .any⟩,
  ⟨0x1320, 0x1327, 0x01, 0x01, .u8, .ro, 0xFE, 0x00, false, false, false, 1, 0, 0, .bool, 0, .any⟩,
  ⟨0x1320, 0x1327, 0x02, 0x02, .u8, .ro, 0xFE, 0x00, false, false, false, 1, 255, 0, .bool, 0, .any⟩]
/-- Rows of the 1000h range, piece 2. -/
def rows1_2 : List Row := [
  ⟨0x1320, 0x1327, 0x03, 0x03, .u8, .ro, 0xFE, 0x00, false, false, false, 1, 0, 0, .bool, 0, .any⟩,
  ⟨0x1320, 0x1327, 0x04, 0x04, .u8, .ro, 0xFE, 0x00, false, false, false, 1, 0, 0, .bool, 0, .any⟩,
  ⟨0x1320, 0x1327, 0x05, 0x05, .u20, .ro, 0xFE, 0x00, false, false, false, 1, 0, 0, .bool, 0, .any⟩,
  ⟨0x1320, 0x1327, 0x06, 0x06, .u80, .ro, 0xFE, 0x00, false, false, false, 1, 0, 0, .bool, 0, .any⟩,
  ⟨0x1320, 0x1327, 0x07, 0x07, .u32, .ro, 0xFE, 0x00, false, false, false, 1, 0, 0, .bool, 0, .any⟩,
  ⟨0x1330, 0x1330, 0x00, 0x00, .u8, .ro, 0xFE, 0x00, false, false, false, 0, 7, 0, .bool, 0, .any⟩,
  ⟨0x1330, 0x1330, 0x01, 0x01, .u8, .wo, 0x00, 0xFE, false, false, false, 0, 0, 0, .bool, 0, (.le 7)⟩,
  ⟨0x1330, 0x1330, 0x02, 0x02, .u20, .rw, 0xFE, 0x02, false, false, true, 1, 0, 0, .bool, 0, (.oneOf [0])⟩,
  ⟨0x1330, 0x1330, 0x03, 0x03, .u20, .rw, 0xFE, 0x02, false, false, true, 1, 0, 0, .bool, 0, (.oneOf [0])⟩,
  ⟨0x1330, 0x1330, 0x04, 0x04, .u20, .rw, 0xFE, 0x02, false, false, true, 1, 0, 0, .bool, 0, (.oneOf [0])⟩,
  ⟨0x1330, 0x1330, 0x05, 0x05, .u20, .rw, 0xFE, 0x02, false, false, true, 1, 0, 0, .bool, 0, (.oneOf [0])⟩,
  ⟨0x1330, 0x1330, 0x06, 0x06, .u20, .rw, 0xFE, 0x02, false, false, true, 1, 0, 0, .bool, 0, (.oneOf [0])⟩,
  ⟨0x1330, 0x1330, 0x07, 0x07, .u8, .ro, 0xFE, 0x00, false, false, false, 1, 0, 0, .bool, 0, .any⟩,
  ⟨0x1340, 0x1340, 0x00, 0x00, .u8, .ro, 0xFE, 0x00, false, false, false, 0, 10, 0, .bool, 0, .any⟩,
  ⟨0x1340, 0x1340, 0x01, 0x01, .u20, .rw, 0xFE, 0x02, false, false, true, 1, 0, 0, .bool, 0, (.oneOf [0])⟩,
  ⟨0x1340, 0x1340, 0x02, 0x02, .u20, .rw, 0xFE, 0x02, false, false, true, 1, 0, 0, .bool, 0, (.oneOf [0])⟩,
  ⟨0x1340, 0x1340, 0x03, 0x0A, .u80, .ro, 0xFE, 0x00, false, false, false, 1, 0, 0, .bool, 0, .any⟩,
  ⟨0x1400, 0x1400, 0x00, 0x00, .u8, .ro, 0xFE, 0x00, false, false, false, 0, 8, 0, .bool, 0, .any⟩,
  ⟨0x1400, 0x1400, 0x01, 0x01, .u40, .ro, 0xFE, 0x00, false, false, false, 1, 0, 0, .bool, 0, .any⟩,
  ⟨0x1400, 0x1400, 0x02, 0x02, .u40, .ro, 0xFE, 0x00, false, false, false, 1, 0, 0, .bool, 0, .any⟩,
  ⟨0x1400, 0x1400, 0x03, 0x03, .u20, .rw, 0xFE, 0x02, false, false, true, 1, 0, 0, .bool, 0, (.oneOf [0])⟩,
  ⟨0x1400, 0x1400, 0x04, 0x04, .u20, .rw, 0xFE, 0x02, false, false, true, 1, 0, 0, .bool, 0, (.oneOf [0])⟩,
  ⟨0x1400, 0x1400, 0x05, 0x05, .u20, .rw, 0xFE, 0x02, false, false, true, 1, 0, 0, .bool, 0, (.oneOf [0])⟩,
  ⟨0x1400, 0x1400, 0x06, 0x06, .u32, .rw, 0xFE, 0x02, false, false, false, 1, 0, 0, .bool, 0, .any⟩,
  ⟨0x1400, 0x1400, 0x07, 0x07, .u8, .ro, 0xFE, 0x00, false, false, false, 1, 0, 0, .bool, 0, .any⟩,
  ⟨0x1400, 0x1400, 0x08, 0x08, .u8, .ro, 0xFE, 0x00, false, false, false, 1, 0, 0, .bool, 0, .any⟩,
  ⟨0x1401, 0x1401, 0x00, 0x00, .u8, .ro, 0xFE, 0x00, false, false, false, 0, 1, 0, .bool, 0, .any⟩,
  ⟨0x1401, 0x1401, 0x01, 0x01, .u40, .rw, 0xFE, 0xFE, false, false, false, 1, 1, 0, .bool, 0, .any⟩,
  ⟨0x1410, 0x1410, 0x00, 0x00, .domain, .ro, 0xFE, 0x00, false, false, false, 1, 0, 6144, .u20, 0, .any⟩,
  ⟨0x1420, 0x1420, 0x00, 0x00, .u8, .ro, 0xFE, 0x00, false, false, false, 0, 6, 0, .bool, 0, .any⟩,
  ⟨0x1420, 0x1420, 0x01, 0x01, .u32, .ro, 0xFE, 0x00, false, false, false, 1, 0, 0, .bool, 0, .any⟩,
  ⟨0x1420, 0x1420, 0x02, 0x02, .u8, .ro, 0xFE, 0x00, false, false, false, 1, 0, 0, .bool, 0, .any⟩,
  ⟨0x1420, 0x1420, 0x03, 0x03, .u8, .ro, 0xFE, 0x00, false, false, false, 1, 0, 0, .bool, 0, .any⟩,
  ⟨0x1420, 0x1420, 0x04, 0x04, .u20, .ro, 0xFE, 0x00, false, false, false, 1, 0, 0, .bool, 0, .any⟩,
  ⟨0x1420, 0x1420, 0x05, 0x05, .u20, .ro, 0xFE, 0x00, false, false, false, 1, 0, 0, .bool, 0, .any⟩,
  ⟨0x1420, 0x1420, 0x06, 0x06, .u8, .wo, 0x00, 0xBE, false, false, false, 0, 0, 0, .bool, 0, (.oneOf [2])⟩]

/-- Rows of the 1000h range. -/
def rows1 : List Row := rows1_0 ++ rows1_1 ++ rows1_2

/-- Rows of the 2000h range, piece 0. -/
def rows2_0 : List Row := [
  ⟨0x2000, 0x2000, 0x00, 0x00, .u8, .ro, 0xFE, 0x00, false, false, false, 0, 16, 0, .bool, 0, .any⟩,
  ⟨0x2000, 0x2000, 0x01, 0x10, .bool, .rw, 0xFE, 0x02, false, true, false, 2, 0, 0, .bool, 0, .any⟩,
  ⟨0x2001, 0x2001, 0x00, 0x00, .u8, .ro, 0xFE, 0x00, false, false, false, 0, 16, 0, .bool, 0, .any⟩,
  ⟨0x2001, 0x2001, 0x01, 0x10, .u16, .rw, 0xFE, 0x02, false, true, false, 2, 0, 0, .bool, 0, .any⟩,
  ⟨0x2002, 0x2002, 0x00, 0x00, .u8, .ro, 0xFE, 0x00, false, false, false, 0, 64, 0, .bool, 0, .any⟩,
  ⟨0x2002, 0x2002, 0x01, 0x40, .u16, .rw, 0xFE, 0x02, false, true, false, 2, 0, 0, .bool, 0, .any⟩,
  ⟨0x2010, 0x201F, 0x00, 0x00, .u8, .ro, 0xFE, 0x00, false, false, false, 0, 64, 0, .bool, 0, .any⟩,
  ⟨0x2010, 0x201F, 0x01, 0x40, .u16, .rw, 0xFE, 0x02, false, true, false, 2, 1023, 0, .bool, 0, (.le 1023)⟩,
  ⟨0x2020, 0x202F, 0x00, 0x00, .u8, .ro, 0xFE, 0x00, false, false, false, 0, 64, 0, .bool, 0, .any⟩,
  ⟨0x2020, 0x202F, 0x01, 0x40, .u8, .rw, 0xFE, 0x02, false, true, false, 2, 2, 0, .bool, 0, (.le 15)⟩,
  ⟨0x2030, 0x203F, 0x00, 0x00, .u8, .ro, 0xFE, 0x00, false, false, false, 0, 8, 0, .bool, 0, .any⟩,
  ⟨0x2030, 0x203F, 0x01, 0x01, .u8, .rw, 0xFE, 0x02, false, true, false, 2, 0, 0, .bool, 0, (.le 2)⟩,
  ⟨0x2030, 0x203F, 0x02, 0x02, .u16, .rw, 0xFE, 0x02, false, true, false, 2, 0, 0, .bool, 0, .any⟩,
  ⟨0x2030, 0x203F, 0x03, 0x03, .u8, .rw, 0xFE, 0x02, false, true, false, 2, 0, 0, .bool, 0, .any⟩,
  ⟨0x2030, 0x203F, 0x04, 0x04, .u8, .rw, 0xFE, 0x02, false, true, false, 2, 1, 0, .bool, 0, (.between 1 255)⟩,
  ⟨0x2030, 0x203F, 0x05, 0x05, .u20, .rw, 0xFE, 0x02, false, true, false, 2, 2560, 0, .bool, 0, .any⟩,
  ⟨0x2030, 0x203F, 0x06, 0x06, .u80, .rw, 0xFE, 0x02, false, true, false, 2, 0, 0, .bool, 0, .any⟩,
  ⟨0x2030, 0x203F, 0x07, 0x07, .bool, .rw, 0xFE, 0x02, false, true, false, 2, 0, 0, .bool, 0, .any⟩,
  ⟨0x2030, 0x203F, 0x08, 0x08, .u20, .rw, 0xFE, 0x02, false, false, true, 1, 0, 0, .bool, 0, (.oneOf [0])⟩,
  ⟨0x2040, 0x204F, 0x00, 0x00, .u8, .ro, 0xFE, 0x00, false, false, false, 0, 10, 0, .bool, 0, .any⟩,
  ⟨0x2040, 0x204F, 0x01, 0x01, .bool, .rw, 0xFE, 0x02, false, true, false, 2, 0, 0, .bool, 0, .any⟩,
  ⟨0x2040, 0x204F, 0x02, 0x02, .u16, .rw, 0xFE, 0x02, false, true, false, 2, 100, 0, .bool, 0, (.between 1 65535)⟩,
  ⟨0x2040, 0x204F, 0x03, 0x03, .u16, .rw, 0xFE, 0x02, false, true, false, 2, 100, 0, .bool, 0, (.between 1 65535)⟩,
  ⟨0x2040, 0x204F, 0x04, 0x04, .u16, .rw, 0xFE, 0x02, false, true, false, 2, 40, 0, .bool, 0, .any⟩,
  ⟨0x2040, 0x204F, 0x05, 0x08, .u16, .rw, 0xFE, 0x02, false, true, false, 1, 0, 0, .bool, 0, .any⟩,
  ⟨0x2040, 0x204F, 0x09, 0x09, .u20, .rw, 0xFE, 0x02, false, false, true, 1, 0, 0, .bool, 0, (.oneOf [0])⟩,
  ⟨0x2040, 0x204F, 0x0A, 0x0A, .u20, .rw, 0xFE, 0x02, false, false, true, 1, 0, 0, .bool, 0, (.oneOf [0])⟩,
  ⟨0x2050, 0x2053, 0x00, 0x00, .u8, .ro, 0xFE, 0x00, false, false, false, 0, 16, 0, .bool, 0, .any⟩,
  ⟨0x2050, 0x2050, 0x01, 0x10, .u20, .rw, 0xFE, 0x02, false, false, true, 1, 0, 0, .bool, 0, (.oneOf [0])⟩,
  ⟨0x2051, 0x2051, 0x01, 0x10, .u20, .rw, 0xFE, 0x02, false, false, true, 1, 0, 0, .bool, 0, (.oneOf [0])⟩,
  ⟨0x2052, 0x2052, 0x01, 0x10, .u20, .rw, 0xFE, 0x02, false, false, true, 1, 0, 0, .bool, 0, (.oneOf [0])⟩,
  ⟨0x2053, 0x2053, 0x01, 0x10, .u20, .rw, 0xFE, 0x02, false, false, true, 1, 0, 0, .bool, 0, (.oneOf [0])⟩,
  ⟨0x2060, 0x2063, 0x00, 0x00, .u8, .ro, 0xFE, 0x00, false, false, false, 0, 19, 0, .bool, 0, .any⟩,
  ⟨0x2060, 0x2063, 0x01, 0x10, .u16, .rw, 0x42, 0x00, true, true, false, 2, 0, 0, .bool, 0, .any⟩,
  ⟨0x2060, 0x2063, 0x11, 0x11, .u8, .rw, 0x42, 0x00, true, true, false, 2, 0, 0, .bool, 0, (.le 15)⟩,
  ⟨0x2060, 0x2063, 0x12, 0x12, .u8, .rw, 0x42, 0x00, true, true, false, 2, 0, 0, .bool, 0, (.le 1)⟩,
  ⟨0x2060, 0x2063, 0x13, 0x13, .bool, .rw, 0x42, 0x00, true, true, false, 2, 1, 0, .bool, 0, .any⟩,
  ⟨0x2080, 0x2080, 0x00, 0x00, .u8, .ro, 0xFE, 0x00, false, false, false, 0, 16, 0, .bool, 0, .any⟩,
  ⟨0x2080, 0x2080, 0x01, 0x10, .u8, .wo, 0x00, 0x02, false, false, false, 0, 0, 0, .bool, 0, (.oneOf [1, 2])⟩,
  ⟨0x2081, 0x2081, 0x00, 0x00, .u8, .ro, 0xFE, 0x00, false, false, false, 0, 16, 0, .bool, 0, .any⟩]
/-- Rows of the 2000h range, piece 1. -/
def rows2_1 : List Row := [
  ⟨0x2081, 0x2081, 0x01, 0x10, .u8, .ro, 0xFE, 0x00, false, false, false, 1, 0, 0, .bool, 0, .any⟩,
  ⟨0x2082, 0x2082, 0x00, 0x00, .u8, .ro, 0xFE, 0x00, false, false, false, 0, 16, 0, .bool, 0, .any⟩,
  ⟨0x2082, 0x2082, 0x01, 0x10, .u8, .ro, 0xFE, 0x00, false, false, false, 1, 0, 0, .bool, 0, .any⟩,
  ⟨0x2083, 0x2083, 0x00, 0x00, .u8, .ro, 0xFE, 0x00, false, false, false, 0, 5, 0, .bool, 0, .any⟩,
  ⟨0x2083, 0x2083, 0x01, 0x01, .u8, .rw, 0xFE, 0x02, false, true, false, 2, 20, 0, .bool, 0, (.between 16 24)⟩,
  ⟨0x2083, 0x2083, 0x02, 0x02, .u16, .rw, 0xFE, 0x02, false, true, false, 2, 540, 0, .bool, 0, (.zeroOr 10 65535)⟩,
  ⟨0x2083, 0x2083, 0x03, 0x03, .bool, .rw, 0xFE, 0x02, false, true, false, 2, 1, 0, .bool, 0, .any⟩,
  ⟨0x2083, 0x2083, 0x04, 0x04, .u16, .rw, 0xFE, 0x02, false, true, false, 2, 3600, 0, .bool, 0, (.between 60 65535)⟩,
  ⟨0x2083, 0x2083, 0x05, 0x05, .bool, .rw, 0xFE, 0x02, false, true, false, 2, 1, 0, .bool, 0, .any⟩,
  ⟨0x2084, 0x2084, 0x00, 0x00, .u8, .ro, 0xFE, 0x00, false, false, false, 0, 16, 0, .bool, 0, .any⟩,
  ⟨0x2084, 0x2084, 0x01, 0x10, .u80, .ro, 0xFE, 0x00, false, false, false, 1, 0, 0, .bool, 0, .any⟩,
  ⟨0x2085, 0x2085, 0x00, 0x00, .u8, .ro, 0xFE, 0x00, false, false, false, 0, 16, 0, .bool, 0, .any⟩,
  ⟨0x2085, 0x2085, 0x01, 0x10, .u20, .rw, 0xFE, 0x02, false, false, true, 1, 0, 0, .bool, 0, (.oneOf [0])⟩,
  ⟨0x2086, 0x2086, 0x00, 0x00, .u8, .ro, 0xFE, 0x00, false, false, false, 0, 16, 0, .bool, 0, .any⟩,
  ⟨0x2086, 0x2086, 0x01, 0x10, .u8, .ro, 0xFE, 0x00, false, false, false, 1, 0, 0, .bool, 0, .any⟩,
  ⟨0x2087, 0x2087, 0x00, 0x00, .u8, .ro, 0xFE, 0x00, false, false, false, 0, 16, 0, .bool, 0, .any⟩,
  ⟨0x2087, 0x2087, 0x01, 0x10, .u16, .ro, 0xFE, 0x00, false, false, false, 1, 0, 0, .bool, 0, .any⟩,
  ⟨0x2090, 0x209F, 0x00, 0x00, .domain, .ro, 0xFE, 0x00, false, false, false, 1, 0, 129, .u16, 0, .any⟩,
  ⟨0x20A0, 0x20A0, 0x00, 0x00, .u8, .ro, 0xFE, 0x00, false, false, false, 0, 16, 0, .bool, 0, .any⟩,
  ⟨0x20A0, 0x20A0, 0x01, 0x10, .i20, .ro, 0xFE, 0x00, false, false, false, 3, 0, 0, .bool, 0, .any⟩,
  ⟨0x20B0, 0x20BF, 0x00, 0x00, .u8, .ro, 0xFE, 0x00, false, false, false, 0, 16, 0, .bool, 0, .any⟩,
  ⟨0x20B0, 0x20BF, 0x01, 0x10, .i20, .ro, 0xFE, 0x00, false, false, false, 3, 0, 0, .bool, 0, .any⟩,
  ⟨0x20C0, 0x20CF, 0x00, 0x00, .u8, .ro, 0xFE, 0x00, false, false, false, 0, 16, 0, .bool, 0, .any⟩,
  ⟨0x20C0, 0x20CF, 0x01, 0x10, .i20, .rw, 0xFE, 0x02, false, true, false, 2, 0, 0, .bool, 0, .any⟩,
  ⟨0x20D0, 0x20D0, 0x00, 0x00, .u8, .ro, 0xFE, 0x00, false, false, false, 0, 6, 0, .bool, 0, .any⟩,
  ⟨0x20D0, 0x20D0, 0x01, 0x01, .bool, .ro, 0xFE, 0x00, false, false, false, 1, 0, 0, .bool, 0, .any⟩,
  ⟨0x20D0, 0x20D0, 0x02, 0x02, .u8, .ro, 0xFE, 0x00, false, false, false, 1, 3, 0, .bool, 0, .any⟩,
  ⟨0x20D0, 0x20D0, 0x03, 0x03, .u20, .rw, 0xFE, 0x02, false, false, true, 1, 0, 0, .bool, 0, (.oneOf [0])⟩,
  ⟨0x20D0, 0x20D0, 0x04, 0x04, .u80, .ro, 0xFE, 0x00, false, false, false, 1, 0, 0, .bool, 0, .any⟩,
  ⟨0x20D0, 0x20D0, 0x05, 0x05, .u80, .ro, 0xFE, 0x00, false, false, false, 1, 0, 0, .bool, 0, .any⟩,
  ⟨0x20D0, 0x20D0, 0x06, 0x06, .u20, .rw, 0xFE, 0x02, false, false, true, 1, 0, 0, .bool, 0, (.oneOf [0])⟩,
  ⟨0x2100, 0x2100, 0x00, 0x00, .u8, .ro, 0xFE, 0x00, false, false, false, 0, 1, 0, .bool, 0, .any⟩,
  ⟨0x2100, 0x2100, 0x01, 0x01, .u8, .wo, 0x00, 0x02, false, false, false, 0, 0, 0, .bool, 0, (.oneOf [1, 2])⟩,
  ⟨0x2101, 0x2101, 0x00, 0x00, .u8, .ro, 0xFE, 0x00, false, false, false, 0, 8, 0, .bool, 0, .any⟩,
  ⟨0x2101, 0x2101, 0x01, 0x01, .u20, .rw, 0xFE, 0x02, false, false, false, 2, 0, 0, .bool, 0, .intervalSource⟩,
  ⟨0x2101, 0x2101, 0x02, 0x02, .u20, .rw, 0xFE, 0x02, false, false, false, 2, 0, 0, .bool, 0, .intervalSource⟩,
  ⟨0x2101, 0x2101, 0x03, 0x03, .u16, .rw, 0xFE, 0x02, false, false, false, 2, 1, 0, .bool, 0, (.between 1 65535)⟩,
  ⟨0x2101, 0x2101, 0x04, 0x04, .u16, .rw, 0xFE, 0x02, false, false, false, 2, 0, 0, .bool, 0, (.le 1023)⟩,
  ⟨0x2101, 0x2101, 0x05, 0x05, .u80, .rw, 0xFE, 0x02, false, false, false, 1, 0, 0, .bool, 0, .any⟩,
  ⟨0x2101, 0x2101, 0x06, 0x06, .u40, .rw, 0xFE, 0x02, false, false, false, 2, 0, 0, .bool, 0, .any⟩]
/-- Rows of the 2000h range, piece 2. -/
def rows2_2 : List Row := [
  ⟨0x2101, 0x2101, 0x07, 0x07, .u80, .rw, 0xFE, 0x02, false, false, false, 1, 0, 0, .bool, 0, .any⟩,
  ⟨0x2101, 0x2101, 0x08, 0x08, .u40, .rw, 0xFE, 0x02, false, false, false, 2, 0, 0, .bool, 0, .any⟩,
  ⟨0x2102, 0x2102, 0x00, 0x00, .u8, .ro, 0xFE, 0x00, false, false, false, 0, 4, 0, .bool, 0, .any⟩,
  ⟨0x2102, 0x2102, 0x01, 0x01, .u8, .ro, 0xFE, 0x00, false, false, false, 1, 0, 0, .bool, 0, .any⟩,
  ⟨0x2102, 0x2102, 0x02, 0x02, .u8, .ro, 0xFE, 0x00, false, false, false, 1, 0, 0, .bool, 0, .any⟩,
  ⟨0x2102, 0x2102, 0x03, 0x03, .u16, .ro, 0xFE, 0x00, false, false, false, 1, 0, 0, .bool, 0, .any⟩,
  ⟨0x2102, 0x2102, 0x04, 0x04, .u80, .ro, 0xFE, 0x00, false, false, false, 1, 0, 0, .bool, 0, .any⟩,
  ⟨0x2103, 0x2103, 0x00, 0x00, .u8, .ro, 0xFE, 0x00, false, false, false, 0, 8, 0, .bool, 0, .any⟩,
  ⟨0x2103, 0x2103, 0x01, 0x01, .u16, .ro, 0xFE, 0x00, false, false, false, 1, 0, 0, .bool, 0, .any⟩,
  ⟨0x2103, 0x2103, 0x02, 0x02, .u80, .ro, 0xFE, 0x00, false, false, false, 1, 0, 0, .bool, 0, .any⟩,
  ⟨0x2103, 0x2103, 0x03, 0x03, .u80, .ro, 0xFE, 0x00, false, false, false, 1, 0, 0, .bool, 0, .any⟩,
  ⟨0x2103, 0x2103, 0x04, 0x04, .u40, .ro, 0xFE, 0x00, false, false, false, 1, 0, 0, .bool, 0, .any⟩,
  ⟨0x2103, 0x2103, 0x05, 0x05, .u40, .ro, 0xFE, 0x00, false, false, false, 1, 0, 0, .bool, 0, .any⟩,
  ⟨0x2103, 0x2103, 0x06, 0x06, .u8, .ro, 0xFE, 0x00, false, false, false, 1, 0, 0, .bool, 0, .any⟩,
  ⟨0x2103, 0x2103, 0x07, 0x07, .u20, .ro, 0xFE, 0x00, false, false, false, 1, 0, 0, .bool, 0, .any⟩,
  ⟨0x2103, 0x2103, 0x08, 0x08, .u20, .ro, 0xFE, 0x00, false, false, false, 1, 0, 0, .bool, 0, .any⟩,
  ⟨0x2104, 0x2104, 0x00, 0x00, .u8, .ro, 0xFE, 0x00, false, false, false, 0, 3, 0, .bool, 0, .any⟩,
  ⟨0x2104, 0x2104, 0x01, 0x01, .u20, .rw, 0xFE, 0x02, false, false, true, 1, 0, 0, .bool, 0, (.oneOf [0])⟩,
  ⟨0x2104, 0x2104, 0x02, 0x02, .u20, .rw, 0xFE, 0x02, false, false, true, 1, 0, 0, .bool, 0, (.oneOf [0])⟩,
  ⟨0x2104, 0x2104, 0x03, 0x03, .u20, .rw, 0xFE, 0x02, false, false, true, 1, 0, 0, .bool, 0, (.oneOf [0])⟩,
  ⟨0x2108, 0x2108, 0x00, 0x00, .u8, .ro, 0xFE, 0x00, false, false, false, 0, 7, 0, .bool, 0, .any⟩,
  ⟨0x2108, 0x2108, 0x01, 0x01, .u8, .wo, 0x00, 0x02, false, false, false, 0, 0, 0, .bool, 0, (.oneOf [1, 2])⟩,
  ⟨0x2108, 0x2108, 0x02, 0x02, .u8, .ro, 0xFE, 0x00, false, false, false, 1, 0, 0, .bool, 0, .any⟩,
  ⟨0x2108, 0x2108, 0x03, 0x03, .u8, .ro, 0xFE, 0x00, false, false, false, 1, 0, 0, .bool, 0, .any⟩,
  ⟨0x2108, 0x2108, 0x04, 0x04, .u8, .ro, 0xFE, 0x00, false, false, false, 1, 0, 0, .bool, 0, .any⟩,
  ⟨0x2108, 0x2108, 0x05, 0x05, .u80, .ro, 0xFE, 0x00, false, false, false, 1, 0, 0, .bool, 0, .any⟩,
  ⟨0x2108, 0x2108, 0x06, 0x06, .u20, .rw, 0xFE, 0x02, false, false, true, 1, 0, 0, .bool, 0, (.oneOf [0])⟩,
  ⟨0x2108, 0x2108, 0x07, 0x07, .u16, .ro, 0xFE, 0x00, false, false, false, 1, 0, 0, .bool, 0, .any⟩,
  ⟨0x2109, 0x2109, 0x00, 0x00, .domain, .ro, 0xFE, 0x00, false, false, false, 1, 0, 129, .u16, 0, .any⟩,
  ⟨0x210A, 0x210A, 0x00, 0x00, .u8, .ro, 0xFE, 0x00, false, false, false, 0, 5, 0, .bool, 0, .any⟩,
  ⟨0x210A, 0x210A, 0x01, 0x04, .i20, .ro, 0xFE, 0x00, false, false, false, 3, 0, 0, .bool, 0, .any⟩,
  ⟨0x210A, 0x210A, 0x05, 0x05, .i20, .ro, 0xFE, 0x00, false, false, false, 3, 0, 0, .bool, 0, .any⟩]

/-- Rows of the 2000h range. -/
def rows2 : List Row := rows2_0 ++ rows2_1 ++ rows2_2

/-- Rows of the 3000h range, piece 0. -/
def rows3_0 : List Row := [
  ⟨0x3000, 0x3003, 0x00, 0x00, .u8, .ro, 0xFE, 0x00, false, false, false, 0, 8, 0, .bool, 0, .any⟩,
  ⟨0x3000, 0x3003, 0x01, 0x01, .u8, .rw, 0x42, 0x00, true, true, false, 2, 0, 0, .bool, 0, (.le 3)⟩,
  ⟨0x3000, 0x3003, 0x02, 0x02, .u32, .rw, 0x42, 0x00, true, true, false, 2, 3276800, 0, .bool, 0, .any⟩,
  ⟨0x3000, 0x3003, 0x03, 0x03, .u32, .rw, 0x42, 0x00, true, true, false, 2, 9830400, 0, .bool, 0, (.between 1 4294967295)⟩,
  ⟨0x3000, 0x3003, 0x04, 0x04, .u8, .rw, 0x42, 0x00, true, true, false, 2, 0, 0, .bool, 0, .any⟩,
  ⟨0x3000, 0x3003, 0x05, 0x05, .u32, .rw, 0x42, 0x00, true, true, false, 2, 327680, 0, .bool, 0, .any⟩,
  ⟨0x3000, 0x3003, 0x06, 0x06, .u16, .rw, 0x42, 0x00, true, true, false, 2, 64, 0, .bool, 0, (.between 1 4096)⟩,
  ⟨0x3000, 0x3003, 0x07, 0x07, .u8, .wo, 0x00, 0x00, true, false, false, 0, 0, 0, .bool, 0, (.oneOf [2])⟩,
  ⟨0x3000, 0x3003, 0x08, 0x08, .u8, .ro, 0x42, 0x00, true, false, false, 1, 0, 0, .bool, 0, .any⟩,
  ⟨0x3010, 0x3013, 0x00, 0x00, .u8, .ro, 0xFE, 0x00, false, false, false, 0, 6, 0, .bool, 0, .any⟩,
  ⟨0x3010, 0x3013, 0x01, 0x01, .u8, .rw, 0xFE, 0x02, false, true, false, 2, 16, 0, .bool, 0, (.le 16)⟩,
  ⟨0x3010, 0x3013, 0x02, 0x02, .u8, .rw, 0xFE, 0x02, false, true, false, 2, 16, 0, .bool, 0, (.le 16)⟩,
  ⟨0x3010, 0x3013, 0x03, 0x03, .u32, .ro, 0x42, 0x00, true, false, false, 1, 0, 0, .bool, 0, .any⟩,
  ⟨0x3010, 0x3013, 0x04, 0x04, .u32, .ro, 0x42, 0x00, true, false, false, 1, 268435455, 0, .bool, 0, .any⟩,
  ⟨0x3010, 0x3013, 0x05, 0x05, .u80, .ro, 0x42, 0x00, true, false, false, 1, 0, 0, .bool, 0, .any⟩,
  ⟨0x3010, 0x3013, 0x06, 0x06, .u32, .ro, 0xFE, 0x00, false, false, false, 1, 0, 0, .bool, 0, .any⟩,
  ⟨0x3020, 0x3020, 0x00, 0x00, .u8, .ro, 0xFE, 0x00, false, false, false, 0, 2, 0, .bool, 0, .any⟩,
  ⟨0x3020, 0x3020, 0x01, 0x01, .u8, .rw, 0xFE, 0x02, false, true, false, 2, 0, 0, .bool, 0, (.le 1)⟩,
  ⟨0x3020, 0x3020, 0x02, 0x02, .u8, .rw, 0xFE, 0x02, false, true, false, 2, 0, 0, .bool, 0, (.le 1)⟩,
  ⟨0x3030, 0x3030, 0x00, 0x00, .u8, .ro, 0xFE, 0x00, false, false, false, 0, 3, 0, .bool, 0, .any⟩,
  ⟨0x3030, 0x3030, 0x01, 0x01, .u20, .ro, 0xFE, 0x00, false, false, false, 1, 0, 0, .bool, 0, .any⟩,
  ⟨0x3030, 0x3030, 0x02, 0x02, .u8, .ro, 0xFE, 0x00, false, false, false, 1, 0, 0, .bool, 0, .any⟩,
  ⟨0x3030, 0x3030, 0x03, 0x03, .u80, .ro, 0xFE, 0x00, false, false, false, 1, 0, 0, .bool, 0, .any⟩,
  ⟨0x3031, 0x3031, 0x00, 0x00, .u8, .ro, 0xFE, 0x00, false, false, false, 0, 8, 0, .bool, 0, .any⟩,
  ⟨0x3031, 0x3031, 0x01, 0x08, .u20, .rw, 0xFE, 0x02, false, false, true, 1, 0, 0, .bool, 0, (.oneOf [0])⟩,
  ⟨0x3032, 0x3032, 0x00, 0x00, .u8, .ro, 0xFE, 0x00, false, false, false, 0, 8, 0, .bool, 0, .any⟩,
  ⟨0x3032, 0x3032, 0x01, 0x08, .u20, .rw, 0xFE, 0x02, false, false, true, 1, 0, 0, .bool, 0, (.oneOf [0])⟩,
  ⟨0x3040, 0x3040, 0x00, 0x00, .domain, .ro, 0xFE, 0x00, false, false, false, 1, 0, 573, .u20, 0, .any⟩,
  ⟨0x3050, 0x3050, 0x00, 0x00, .u8, .ro, 0xFE, 0x00, false, false, false, 0, 10, 0, .bool, 0, .any⟩,
  ⟨0x3050, 0x3050, 0x01, 0x01, .bool, .rw, 0xFE, 0x02, false, true, false, 2, 0, 0, .bool, 0, .any⟩,
  ⟨0x3050, 0x3050, 0x02, 0x02, .u8, .rw, 0xFE, 0x02, false, true, false, 2, 15, 0, .bool, 0, (.le 15)⟩,
  ⟨0x3050, 0x3050, 0x03, 0x03, .u32, .rw, 0xFE, 0x02, false, true, false, 2, 327680000, 0, .bool, 0, .any⟩,
  ⟨0x3050, 0x3050, 0x04, 0x04, .u40, .rw, 0xFE, 0x02, false, true, false, 2, 1, 0, .bool, 0, .any⟩,
  ⟨0x3050, 0x3050, 0x05, 0x05, .u20, .rw, 0xFE, 0x02, false, false, true, 1, 0, 0, .bool, 0, (.oneOf [0])⟩,
  ⟨0x3050, 0x3050, 0x06, 0x06, .u20, .rw, 0xFE, 0x02, false, false, true, 1, 0, 0, .bool, 0, (.oneOf [0])⟩,
  ⟨0x3050, 0x3050, 0x07, 0x07, .u20, .rw, 0xFE, 0x02, false, false, true, 1, 0, 0, .bool, 0, (.oneOf [0])⟩,
  ⟨0x3050, 0x3050, 0x08, 0x08, .u20, .rw, 0xFE, 0x02, false, false, true, 1, 0, 0, .bool, 0, (.oneOf [0])⟩,
  ⟨0x3050, 0x3050, 0x09, 0x09, .u20, .rw, 0xFE, 0x02, false, false, true, 1, 0, 0, .bool, 0, (.oneOf [0])⟩,
  ⟨0x3050, 0x3050, 0x0A, 0x0A, .u20, .rw, 0xFE, 0x02, false, false, true, 1, 0, 0, .bool, 0, (.oneOf [0])⟩,
  ⟨0x3060, 0x3063, 0x00, 0x00, .u8, .ro, 0xFE, 0x00, false, false, false, 0, 7, 0, .bool, 0, .any⟩]
/-- Rows of the 3000h range, piece 1. -/
def rows3_1 : List Row := [
  ⟨0x3060, 0x3063, 0x01, 0x01, .u20, .rw, 0x42, 0x00, true, false, true, 1, 0, 0, .bool, 0, (.oneOf [0])⟩,
  ⟨0x3060, 0x3063, 0x02, 0x02, .u20, .rw, 0x42, 0x00, true, false, true, 1, 0, 0, .bool, 0, (.oneOf [0])⟩,
  ⟨0x3060, 0x3063, 0x03, 0x03, .u20, .rw, 0x42, 0x00, true, false, true, 1, 0, 0, .bool, 0, (.oneOf [0])⟩,
  ⟨0x3060, 0x3063, 0x04, 0x04, .u20, .rw, 0x42, 0x00, true, false, true, 1, 0, 0, .bool, 0, (.oneOf [0])⟩,
  ⟨0x3060, 0x3063, 0x05, 0x05, .u20, .rw, 0x42, 0x00, true, false, true, 1, 0, 0, .bool, 0, (.oneOf [0])⟩,
  ⟨0x3060, 0x3063, 0x06, 0x06, .u20, .rw, 0x42, 0x00, true, false, true, 1, 0, 0, .bool, 0, (.oneOf [0])⟩,
  ⟨0x3060, 0x3063, 0x07, 0x07, .u8, .ro, 0x42, 0x00, true, false, false, 1, 0, 0, .bool, 0, .any⟩]

/-- Rows of the 3000h range. -/
def rows3 : List Row := rows3_0 ++ rows3_1

/-- Rows of the 4000h range, piece 0. -/
def rows4_0 : List Row := [
  ⟨0x4000, 0x4003, 0x00, 0x00, .u8, .ro, 0xFE, 0x00, false, false, false, 0, 7, 0, .bool, 0, .any⟩,
  ⟨0x4000, 0x4003, 0x01, 0x01, .u16, .rw, 0xFE, 0x02, false, true, false, 2, 0, 0, .bool, 0, .any⟩,
  ⟨0x4000, 0x4003, 0x02, 0x02, .u20, .rw, 0xFE, 0x02, false, true, false, 2, 0, 0, .bool, 0, .any⟩,
  ⟨0x4000, 0x4003, 0x03, 0x03, .u8, .rw, 0x42, 0x00, true, false, false, 2, 0, 0, .bool, 0, (.le 1)⟩,
  ⟨0x4000, 0x4003, 0x04, 0x04, .bool, .rw, 0x42, 0x00, true, false, false, 2, 0, 0, .bool, 0, .any⟩,
  ⟨0x4000, 0x4003, 0x05, 0x05, .u20, .rw, 0xFE, 0x02, false, true, false, 2, 0, 0, .bool, 0, .any⟩,
  ⟨0x4000, 0x4003, 0x06, 0x06, .u8, .rw, 0xFE, 0x02, false, true, false, 2, 16, 0, .bool, 0, (.le 16)⟩,
  ⟨0x4000, 0x4003, 0x07, 0x07, .u8, .wo, 0x00, 0x02, false, false, false, 0, 0, 0, .bool, 0, (.oneOf [1])⟩,
  ⟨0x4010, 0x401F, 0x00, 0x00, .u8, .ro, 0xFE, 0x00, false, false, false, 0, 4, 0, .bool, 0, .any⟩,
  ⟨0x4010, 0x401F, 0x01, 0x04, .u20, .rw, 0xFE, 0x02, false, false, false, 2, 0, 0, .bool, 0, .any⟩,
  ⟨0x4020, 0x4020, 0x00, 0x00, .u8, .ro, 0xFE, 0x00, false, false, false, 0, 6, 0, .bool, 0, .any⟩,
  ⟨0x4020, 0x4020, 0x01, 0x01, .u16, .rw, 0xFE, 0x02, false, true, false, 2, 0, 0, .bool, 0, .any⟩,
  ⟨0x4020, 0x4020, 0x02, 0x02, .u32, .ro, 0xFE, 0x00, false, false, false, 1, 0, 0, .bool, 0, .any⟩,
  ⟨0x4020, 0x4020, 0x03, 0x03, .u32, .ro, 0xFE, 0x00, false, false, false, 1, 0, 0, .bool, 0, .any⟩,
  ⟨0x4020, 0x4020, 0x04, 0x04, .u32, .ro, 0xFE, 0x00, false, false, false, 1, 0, 0, .bool, 0, .any⟩,
  ⟨0x4020, 0x4020, 0x05, 0x05, .u32, .rw, 0xFE, 0x02, false, false, false, 1, 0, 0, .bool, 0, .any⟩,
  ⟨0x4020, 0x4020, 0x06, 0x06, .u20, .rw, 0xFE, 0x02, false, false, true, 1, 0, 0, .bool, 0, (.oneOf [0])⟩,
  ⟨0x4021, 0x4021, 0x00, 0x00, .u8, .ro, 0xFE, 0x00, false, false, false, 0, 1, 0, .bool, 0, .any⟩,
  ⟨0x4021, 0x4021, 0x01, 0x01, .bool, .rw, 0xFE, 0x02, false, true, false, 2, 0, 0, .bool, 0, .any⟩,
  ⟨0x4030, 0x4033, 0x00, 0x00, .u8, .ro, 0xFE, 0x00, false, false, false, 0, 12, 0, .bool, 0, .any⟩,
  ⟨0x4030, 0x4033, 0x01, 0x01, .u16, .ro, 0x42, 0x00, true, false, false, 1, 0, 0, .bool, 0, .any⟩,
  ⟨0x4030, 0x4033, 0x02, 0x02, .u80, .ro, 0x42, 0x00, true, false, false, 1, 0, 0, .bool, 0, .any⟩,
  ⟨0x4030, 0x4033, 0x03, 0x03, .u20, .rw, 0x42, 0x00, true, false, true, 1, 0, 0, .bool, 0, (.oneOf [0])⟩,
  ⟨0x4030, 0x4033, 0x04, 0x04, .u20, .rw, 0x42, 0x00, true, false, true, 1, 0, 0, .bool, 0, (.oneOf [0])⟩,
  ⟨0x4030, 0x4033, 0x05, 0x05, .u20, .rw, 0x42, 0x00, true, false, true, 1, 0, 0, .bool, 0, (.oneOf [0])⟩,
  ⟨0x4030, 0x4033, 0x06, 0x06, .u20, .rw, 0x42, 0x00, true, false, true, 1, 0, 0, .bool, 0, (.oneOf [0])⟩,
  ⟨0x4030, 0x4033, 0x07, 0x07, .u20, .rw, 0x42, 0x00, true, false, true, 1, 0, 0, .bool, 0, (.oneOf [0])⟩,
  ⟨0x4030, 0x4033, 0x08, 0x08, .u20, .rw, 0x42, 0x00, true, false, true, 1, 0, 0, .bool, 0, (.oneOf [0])⟩,
  ⟨0x4030, 0x4033, 0x09, 0x09, .u20, .rw, 0x42, 0x00, true, false, true, 1, 0, 0, .bool, 0, (.oneOf [0])⟩,
  ⟨0x4030, 0x4033, 0x0A, 0x0A, .u20, .rw, 0x42, 0x00, true, false, true, 1, 0, 0, .bool, 0, (.oneOf [0])⟩,
  ⟨0x4030, 0x4033, 0x0B, 0x0B, .u20, .rw, 0x42, 0x00, true, false, true, 1, 0, 0, .bool, 0, (.oneOf [0])⟩,
  ⟨0x4030, 0x4033, 0x0C, 0x0C, .u20, .rw, 0x42, 0x00, true, false, true, 1, 0, 0, .bool, 0, (.oneOf [0])⟩,
  ⟨0x4040, 0x4043, 0x00, 0x00, .u8, .ro, 0xFE, 0x00, false, false, false, 0, 11, 0, .bool, 0, .any⟩,
  ⟨0x4040, 0x4043, 0x01, 0x01, .u8, .rw, 0x42, 0x00, true, false, false, 2, 1, 0, .bool, 0, (.le 1)⟩,
  ⟨0x4040, 0x4043, 0x02, 0x02, .u8, .rw, 0x42, 0x00, true, false, false, 2, 33, 0, .bool, 0, (.between 1 33)⟩,
  ⟨0x4040, 0x4043, 0x03, 0x03, .u8, .rw, 0xFE, 0x02, false, false, false, 2, 16, 0, .bool, 0, (.le 16)⟩,
  ⟨0x4040, 0x4043, 0x04, 0x04, .u8, .wo, 0x00, 0x00, true, false, false, 0, 0, 0, .bool, 0, (.oneOf [2])⟩,
  ⟨0x4040, 0x4043, 0x05, 0x05, .u8, .ro, 0x42, 0x00, true, false, false, 1, 0, 0, .bool, 0, .any⟩,
  ⟨0x4040, 0x4043, 0x06, 0x06, .u8, .ro, 0x42, 0x00, true, false, false, 1, 0, 0, .bool, 0, .any⟩,
  ⟨0x4040, 0x4043, 0x07, 0x07, .u20, .rw, 0x42, 0x00, true, false, true, 1, 0, 0, .bool, 0, (.oneOf [0])⟩]
/-- Rows of the 4000h range, piece 1. -/
def rows4_1 : List Row := [
  ⟨0x4040, 0x4043, 0x08, 0x08, .u20, .rw, 0x42, 0x00, true, false, true, 1, 0, 0, .bool, 0, (.oneOf [0])⟩,
  ⟨0x4040, 0x4043, 0x09, 0x09, .u20, .rw, 0x42, 0x00, true, false, true, 1, 0, 0, .bool, 0, (.oneOf [0])⟩,
  ⟨0x4040, 0x4043, 0x0A, 0x0A, .u20, .ro, 0x42, 0x00, true, false, false, 1, 0, 0, .bool, 0, .any⟩,
  ⟨0x4040, 0x4043, 0x0B, 0x0B, .u20, .ro, 0x42, 0x00, true, false, false, 1, 0, 0, .bool, 0, .any⟩,
  ⟨0x4048, 0x4048, 0x00, 0x00, .u8, .ro, 0xFE, 0x00, false, false, false, 0, 16, 0, .bool, 0, .any⟩,
  ⟨0x4048, 0x4048, 0x01, 0x10, .u20, .rw, 0xFE, 0x02, false, false, true, 1, 0, 0, .bool, 0, (.oneOf [0])⟩,
  ⟨0x4049, 0x4049, 0x00, 0x00, .u8, .ro, 0xFE, 0x00, false, false, false, 0, 16, 0, .bool, 0, .any⟩,
  ⟨0x4049, 0x4049, 0x01, 0x10, .u20, .rw, 0xFE, 0x02, false, false, true, 1, 0, 0, .bool, 0, (.oneOf [0])⟩,
  ⟨0x404A, 0x404A, 0x00, 0x00, .u8, .ro, 0xFE, 0x00, false, false, false, 0, 16, 0, .bool, 0, .any⟩,
  ⟨0x404A, 0x404A, 0x01, 0x10, .u20, .rw, 0xFE, 0x02, false, false, true, 1, 0, 0, .bool, 0, (.oneOf [0])⟩,
  ⟨0x404B, 0x404B, 0x00, 0x00, .u8, .ro, 0xFE, 0x00, false, false, false, 0, 2, 0, .bool, 0, .any⟩,
  ⟨0x404B, 0x404B, 0x01, 0x01, .u8, .ro, 0xFE, 0x00, false, false, false, 1, 255, 0, .bool, 0, .any⟩,
  ⟨0x404B, 0x404B, 0x02, 0x02, .u8, .ro, 0xFE, 0x00, false, false, false, 1, 0, 0, .bool, 0, .any⟩,
  ⟨0x4050, 0x405F, 0x00, 0x00, .u8, .ro, 0xFE, 0x00, false, false, false, 0, 10, 0, .bool, 0, .any⟩,
  ⟨0x4050, 0x405F, 0x01, 0x01, .u8, .ro, 0xFE, 0x00, false, false, false, 1, 0, 0, .bool, 0, .any⟩,
  ⟨0x4050, 0x405F, 0x02, 0x02, .u20, .rw, 0xFE, 0x02, false, false, true, 1, 0, 0, .bool, 0, (.oneOf [0])⟩,
  ⟨0x4050, 0x405F, 0x03, 0x06, .u20, .rw, 0x42, 0x00, true, false, true, 1, 0, 0, .bool, 0, (.oneOf [0])⟩,
  ⟨0x4050, 0x405F, 0x07, 0x0A, .u20, .rw, 0x42, 0x00, true, false, true, 1, 0, 0, .bool, 0, (.oneOf [0])⟩]

/-- Rows of the 4000h range. -/
def rows4 : List Row := rows4_0 ++ rows4_1

/-- Rows of the 5000h range, piece 0. -/
def rows5_0 : List Row := [
  ⟨0x5000, 0x501B, 0x00, 0x00, .u8, .ro, 0xFE, 0x00, false, false, false, 0, 9, 0, .bool, 0, .any⟩,
  ⟨0x5000, 0x501B, 0x01, 0x01, .bool, .rw, 0xFE, 0x02, false, false, false, 2, 0, 0, .bool, 0, .any⟩,
  ⟨0x5000, 0x501B, 0x02, 0x02, .u8, .rw, 0xFE, 0x02, false, false, false, 2, 4, 0, .bool, 0, (.le 4)⟩,
  ⟨0x5000, 0x501B, 0x03, 0x03, .u8, .rw, 0xFE, 0x02, false, false, false, 2, 0, 0, .bool, 0, (.le 2)⟩,
  ⟨0x5000, 0x501B, 0x04, 0x04, .u8, .rw, 0xFE, 0x02, false, false, false, 2, 0, 0, .bool, 0, (.le 2)⟩,
  ⟨0x5000, 0x501B, 0x05, 0x05, .u8, .rw, 0xFE, 0x02, false, false, false, 2, 0, 0, .bool, 0, (.le 1)⟩,
  ⟨0x5000, 0x501B, 0x06, 0x06, .u8, .rw, 0xFE, 0x02, false, false, false, 2, 16, 0, .bool, 0, (.le 36)⟩,
  ⟨0x5000, 0x501B, 0x07, 0x07, .u8, .rw, 0xFE, 0x02, false, false, false, 2, 2, 0, .bool, 0, (.le 3)⟩,
  ⟨0x5000, 0x501B, 0x08, 0x08, .u8, .rw, 0xFE, 0x02, false, false, false, 2, 0, 0, .bool, 0, (.le 6)⟩,
  ⟨0x5000, 0x501B, 0x09, 0x09, .u8, .rw, 0xFE, 0x02, false, false, false, 1, 0, 0, .bool, 0, (.le 3)⟩,
  ⟨0x5020, 0x503B, 0x00, 0x00, .u8, .ro, 0xFE, 0x00, false, false, false, 0, 15, 0, .bool, 0, .any⟩,
  ⟨0x5020, 0x503B, 0x01, 0x01, .u8, .ro, 0xFE, 0x00, false, false, false, 1, 0, 0, .bool, 0, .any⟩,
  ⟨0x5020, 0x503B, 0x02, 0x02, .u8, .ro, 0xFE, 0x00, false, false, false, 1, 0, 0, .bool, 0, .any⟩,
  ⟨0x5020, 0x503B, 0x03, 0x03, .u8, .ro, 0xFE, 0x00, false, false, false, 1, 255, 0, .bool, 0, .any⟩,
  ⟨0x5020, 0x503B, 0x04, 0x04, .u8, .ro, 0xFE, 0x00, false, false, false, 1, 0, 0, .bool, 0, .any⟩,
  ⟨0x5020, 0x503B, 0x05, 0x05, .u8, .ro, 0xFE, 0x00, false, false, false, 1, 0, 0, .bool, 0, .any⟩,
  ⟨0x5020, 0x503B, 0x06, 0x06, .u8, .ro, 0xFE, 0x00, false, false, false, 1, 255, 0, .bool, 0, .any⟩,
  ⟨0x5020, 0x503B, 0x07, 0x07, .u8, .ro, 0xFE, 0x00, false, false, false, 1, 255, 0, .bool, 0, .any⟩,
  ⟨0x5020, 0x503B, 0x08, 0x08, .u8, .ro, 0xFE, 0x00, false, false, false, 1, 0, 0, .bool, 0, .any⟩,
  ⟨0x5020, 0x503B, 0x09, 0x09, .u8, .ro, 0xFE, 0x00, false, false, false, 1, 0, 0, .bool, 0, .any⟩,
  ⟨0x5020, 0x503B, 0x0A, 0x0A, .u8, .ro, 0xFE, 0x00, false, false, false, 1, 0, 0, .bool, 0, .any⟩,
  ⟨0x5020, 0x503B, 0x0B, 0x0B, .i20, .ro, 0xFE, 0x00, false, false, false, 1, 0, 0, .bool, 0, .any⟩,
  ⟨0x5020, 0x503B, 0x0C, 0x0C, .u8, .ro, 0xFE, 0x00, false, false, false, 1, 0, 0, .bool, 0, .any⟩,
  ⟨0x5020, 0x503B, 0x0D, 0x0D, .u8, .ro, 0xFE, 0x00, false, false, false, 1, 0, 0, .bool, 0, .any⟩,
  ⟨0x5020, 0x503B, 0x0E, 0x0E, .u8, .ro, 0xFE, 0x00, false, false, false, 1, 0, 0, .bool, 0, .any⟩,
  ⟨0x5020, 0x503B, 0x0F, 0x0F, .i20, .ro, 0xFE, 0x00, false, false, false, 1, 0, 0, .bool, 0, .any⟩,
  ⟨0x5040, 0x505B, 0x00, 0x00, .u8, .ro, 0xFE, 0x00, false, false, false, 0, 10, 0, .bool, 0, .any⟩,
  ⟨0x5040, 0x505B, 0x01, 0x01, .u20, .rw, 0xFE, 0x02, false, false, true, 1, 0, 0, .bool, 0, (.oneOf [0])⟩,
  ⟨0x5040, 0x505B, 0x02, 0x02, .u20, .rw, 0xFE, 0x02, false, false, true, 1, 0, 0, .bool, 0, (.oneOf [0])⟩,
  ⟨0x5040, 0x505B, 0x03, 0x03, .u20, .rw, 0xFE, 0x02, false, false, true, 1, 0, 0, .bool, 0, (.oneOf [0])⟩,
  ⟨0x5040, 0x505B, 0x04, 0x04, .u20, .rw, 0xFE, 0x02, false, false, true, 1, 0, 0, .bool, 0, (.oneOf [0])⟩,
  ⟨0x5040, 0x505B, 0x05, 0x05, .u20, .rw, 0xFE, 0x02, false, false, true, 1, 0, 0, .bool, 0, (.oneOf [0])⟩,
  ⟨0x5040, 0x505B, 0x06, 0x06, .u20, .rw, 0xFE, 0x02, false, false, true, 1, 0, 0, .bool, 0, (.oneOf [0])⟩,
  ⟨0x5040, 0x505B, 0x07, 0x07, .u20, .rw, 0xFE, 0x02, false, false, true, 1, 0, 0, .bool, 0, (.oneOf [0])⟩,
  ⟨0x5040, 0x505B, 0x08, 0x08, .u20, .rw, 0xFE, 0x02, false, false, true, 1, 0, 0, .bool, 0, (.oneOf [0])⟩,
  ⟨0x5040, 0x505B, 0x09, 0x09, .u20, .rw, 0xFE, 0x02, false, false, true, 1, 0, 0, .bool, 0, (.oneOf [0])⟩,
  ⟨0x5040, 0x505B, 0x0A, 0x0A, .u20, .rw, 0xFE, 0x02, false, false, true, 1, 0, 0, .bool, 0, (.oneOf [0])⟩,
  ⟨0x5060, 0x5060, 0x00, 0x00, .u8, .ro, 0xFE, 0x00, false, false, false, 0, 3, 0, .bool, 0, .any⟩,
  ⟨0x5060, 0x5060, 0x01, 0x01, .u8, .rw, 0xFE, 0x02, false, false, false, 2, 1, 0, .bool, 0, (.oneOf [1, 2, 4])⟩,
  ⟨0x5060, 0x5060, 0x02, 0x02, .u8, .rw, 0xFE, 0x02, false, false, false, 2, 1, 0, .bool, 0, (.oneOf [1, 2, 4])⟩]
/-- Rows of the 5000h range, piece 1. -/
def rows5_1 : List Row := [
  ⟨0x5060, 0x5060, 0x03, 0x03, .u8, .rw, 0xFE, 0x02, false, false, false, 2, 0, 0, .bool, 0, .any⟩,
  ⟨0x5061, 0x5061, 0x00, 0x00, .u8, .ro, 0xFE, 0x00, false, false, false, 0, 2, 0, .bool, 0, .any⟩,
  ⟨0x5061, 0x5061, 0x01, 0x01, .u8, .rw, 0xFE, 0x02, false, false, false, 2, 16, 0, .bool, 0, .any⟩,
  ⟨0x5061, 0x5061, 0x02, 0x02, .u8, .rw, 0xFE, 0x02, false, false, false, 2, 10, 0, .bool, 0, .any⟩,
  ⟨0x5070, 0x5070, 0x00, 0x00, .u8, .ro, 0xFE, 0x00, false, false, false, 0, 2, 0, .bool, 0, .any⟩,
  ⟨0x5070, 0x5070, 0x01, 0x01, .u16, .wl, 0xFE, 0x82, false, false, false, 3, 65535, 0, .bool, 15, .sparing⟩,
  ⟨0x5070, 0x5070, 0x02, 0x02, .u8, .ro, 0xFE, 0x00, false, false, false, 3, 0, 0, .bool, 0, .any⟩,
  ⟨0x5078, 0x5078, 0x00, 0x00, .u8, .ro, 0xFE, 0x00, false, false, false, 0, 5, 0, .bool, 0, .any⟩,
  ⟨0x5078, 0x5078, 0x01, 0x01, .bool, .rw, 0xFE, 0x02, false, false, false, 2, 0, 0, .bool, 0, .any⟩,
  ⟨0x5078, 0x5078, 0x02, 0x02, .u8, .ro, 0xFE, 0x00, false, false, false, 1, 0, 0, .bool, 0, .any⟩,
  ⟨0x5078, 0x5078, 0x03, 0x03, .u8, .ro, 0xFE, 0x00, false, false, false, 1, 0, 0, .bool, 0, .any⟩,
  ⟨0x5078, 0x5078, 0x04, 0x04, .u8, .ro, 0xFE, 0x00, false, false, false, 1, 255, 0, .bool, 0, .any⟩,
  ⟨0x5078, 0x5078, 0x05, 0x05, .u8, .ro, 0xFE, 0x00, false, false, false, 1, 255, 0, .bool, 0, .any⟩,
  ⟨0x5080, 0x5080, 0x00, 0x00, .u8, .ro, 0xFE, 0x00, false, false, false, 0, 5, 0, .bool, 0, .any⟩,
  ⟨0x5080, 0x5080, 0x01, 0x01, .u8, .rw, 0xFE, 0x02, false, false, false, 2, 0, 0, .bool, 0, (.le 2)⟩,
  ⟨0x5080, 0x5080, 0x02, 0x02, .u8, .rw, 0xFE, 0x02, false, false, false, 2, 0, 0, .bool, 0, (.le 2)⟩,
  ⟨0x5080, 0x5080, 0x03, 0x03, .bool, .ro, 0xFE, 0x00, false, false, false, 1, 0, 0, .bool, 0, .any⟩,
  ⟨0x5080, 0x5080, 0x04, 0x04, .bool, .ro, 0xFE, 0x00, false, false, false, 1, 0, 0, .bool, 0, .any⟩,
  ⟨0x5080, 0x5080, 0x05, 0x05, .bool, .rw, 0xFE, 0x02, false, false, false, 2, 1, 0, .bool, 0, .any⟩,
  ⟨0x5100, 0x5111, 0x00, 0x00, .u8, .ro, 0xFE, 0x00, false, false, false, 0, 12, 0, .bool, 0, .any⟩,
  ⟨0x5100, 0x5111, 0x01, 0x01, .u8, .ro, 0xFE, 0x00, false, false, false, 1, 0, 0, .bool, 0, .any⟩,
  ⟨0x5100, 0x5111, 0x02, 0x02, .u8, .ro, 0xFE, 0x00, false, false, false, 1, 0, 0, .bool, 0, .any⟩,
  ⟨0x5100, 0x5111, 0x03, 0x03, .bool, .rw, 0xFE, 0x02, false, false, false, 1, 0, 0, .bool, 0, .any⟩,
  ⟨0x5100, 0x5111, 0x04, 0x04, .u8, .wo, 0x00, 0x02, false, false, false, 0, 0, 0, .bool, 0, (.oneOf [1])⟩,
  ⟨0x5100, 0x5111, 0x05, 0x05, .u8, .ro, 0xFE, 0x00, false, false, false, 1, 0, 0, .bool, 0, .any⟩,
  ⟨0x5100, 0x5111, 0x06, 0x06, .u16, .ro, 0xFE, 0x00, false, false, false, 1, 0, 0, .bool, 0, .any⟩,
  ⟨0x5100, 0x5111, 0x07, 0x07, .u80, .ro, 0xFE, 0x00, false, false, false, 1, 0, 0, .bool, 0, .any⟩,
  ⟨0x5100, 0x5111, 0x08, 0x08, .u8, .ro, 0xFE, 0x00, false, false, false, 1, 255, 0, .bool, 0, .any⟩,
  ⟨0x5100, 0x5111, 0x09, 0x0C, .u32, .ro, 0xFE, 0x00, false, false, false, 1, 0, 0, .bool, 0, .any⟩,
  ⟨0x5120, 0x5131, 0x00, 0x00, .u8, .ro, 0xFE, 0x00, false, false, false, 0, 9, 0, .bool, 0, .any⟩,
  ⟨0x5120, 0x5131, 0x01, 0x01, .u20, .rw, 0xFE, 0x02, false, false, true, 1, 0, 0, .bool, 0, (.oneOf [0])⟩,
  ⟨0x5120, 0x5131, 0x02, 0x02, .u20, .rw, 0xFE, 0x02, false, false, true, 1, 0, 0, .bool, 0, (.oneOf [0])⟩,
  ⟨0x5120, 0x5131, 0x03, 0x03, .u20, .rw, 0xFE, 0x02, false, false, true, 1, 0, 0, .bool, 0, (.oneOf [0])⟩,
  ⟨0x5120, 0x5131, 0x04, 0x04, .u20, .rw, 0xFE, 0x02, false, false, true, 1, 0, 0, .bool, 0, (.oneOf [0])⟩,
  ⟨0x5120, 0x5131, 0x05, 0x05, .u20, .rw, 0xFE, 0x02, false, false, true, 1, 0, 0, .bool, 0, (.oneOf [0])⟩,
  ⟨0x5120, 0x5131, 0x06, 0x06, .u20, .rw, 0xFE, 0x02, false, false, true, 1, 0, 0, .bool, 0, (.oneOf [0])⟩,
  ⟨0x5120, 0x5131, 0x07, 0x07, .u20, .rw, 0xFE, 0x02, false, false, true, 1, 0, 0, .bool, 0, (.oneOf [0])⟩,
  ⟨0x5120, 0x5131, 0x08, 0x08, .u20, .rw, 0xFE, 0x02, false, false, true, 1, 0, 0, .bool, 0, (.oneOf [0])⟩,
  ⟨0x5120, 0x5131, 0x09, 0x09, .u20, .rw, 0xFE, 0x02, false, false, true, 1, 0, 0, .bool, 0, (.oneOf [0])⟩]

/-- Rows of the 5000h range. -/
def rows5 : List Row := rows5_0 ++ rows5_1

/-- Rows of the 6000h range, piece 0. -/
def rows6_0 : List Row := [
  ⟨0x6000, 0x6000, 0x00, 0x00, .u8, .ro, 0xFE, 0x00, false, false, false, 0, 12, 0, .bool, 0, .any⟩,
  ⟨0x6000, 0x6000, 0x01, 0x01, .u80, .ro, 0xFE, 0x00, false, false, false, 1, 0, 0, .bool, 0, .any⟩,
  ⟨0x6000, 0x6000, 0x02, 0x02, .i32, .ro, 0xFE, 0x00, false, false, false, 1, 0, 0, .bool, 0, .any⟩,
  ⟨0x6000, 0x6000, 0x03, 0x03, .u8, .ro, 0xFE, 0x00, false, false, false, 1, 0, 0, .bool, 0, .any⟩,
  ⟨0x6000, 0x6000, 0x04, 0x04, .u8, .rw, 0xFE, 0x02, false, false, false, 2, 1, 0, .bool, 0, (.le 3)⟩,
  ⟨0x6000, 0x6000, 0x05, 0x05, .u8, .rw, 0xFE, 0x02, false, false, false, 2, 2, 0, .bool, 0, (.le 24)⟩,
  ⟨0x6000, 0x6000, 0x06, 0x06, .u8, .rw, 0xFE, 0x02, false, false, false, 2, 6, 0, .bool, 0, (.le 30)⟩,
  ⟨0x6000, 0x6000, 0x07, 0x07, .u20, .rw, 0xFE, 0x02, false, false, false, 2, 64, 0, .bool, 0, .any⟩,
  ⟨0x6000, 0x6000, 0x08, 0x08, .u20, .rw, 0xFE, 0x02, false, false, false, 2, 256, 0, .bool, 0, .any⟩,
  ⟨0x6000, 0x6000, 0x09, 0x09, .u32, .rw, 0xFE, 0x02, false, false, false, 2, 327680, 0, .bool, 0, (.between 256 4294967295)⟩,
  ⟨0x6000, 0x6000, 0x0A, 0x0A, .i32, .ro, 0xFE, 0x00, false, false, false, 1, 0, 0, .bool, 0, .any⟩,
  ⟨0x6000, 0x6000, 0x0B, 0x0B, .i32, .ro, 0xFE, 0x00, false, false, false, 1, 0, 0, .bool, 0, .any⟩,
  ⟨0x6000, 0x6000, 0x0C, 0x0C, .u8, .wo, 0x00, 0x02, false, false, false, 0, 0, 0, .bool, 0, (.oneOf [1])⟩,
  ⟨0x6001, 0x6001, 0x00, 0x00, .u8, .ro, 0xFE, 0x00, false, false, false, 0, 6, 0, .bool, 0, .any⟩,
  ⟨0x6001, 0x6001, 0x01, 0x01, .u20, .rw, 0xFE, 0x02, false, false, true, 1, 0, 0, .bool, 0, (.oneOf [0])⟩,
  ⟨0x6001, 0x6001, 0x02, 0x02, .u20, .rw, 0xFE, 0x02, false, false, true, 1, 0, 0, .bool, 0, (.oneOf [0])⟩,
  ⟨0x6001, 0x6001, 0x03, 0x03, .u20, .rw, 0xFE, 0x02, false, false, true, 1, 0, 0, .bool, 0, (.oneOf [0])⟩,
  ⟨0x6001, 0x6001, 0x04, 0x04, .u20, .rw, 0xFE, 0x02, false, false, true, 1, 0, 0, .bool, 0, (.oneOf [0])⟩,
  ⟨0x6001, 0x6001, 0x05, 0x05, .u20, .rw, 0xFE, 0x02, false, false, true, 1, 0, 0, .bool, 0, (.oneOf [0])⟩,
  ⟨0x6001, 0x6001, 0x06, 0x06, .u20, .rw, 0xFE, 0x02, false, false, true, 1, 0, 0, .bool, 0, (.oneOf [0])⟩,
  ⟨0x6002, 0x6002, 0x00, 0x00, .domain, .ro, 0xFE, 0x00, false, false, false, 1, 0, 96, .u20, 0, .any⟩,
  ⟨0x6003, 0x6003, 0x00, 0x00, .u8, .ro, 0xFE, 0x00, false, false, false, 0, 1, 0, .bool, 0, .any⟩,
  ⟨0x6003, 0x6003, 0x01, 0x01, .u8, .ro, 0xFE, 0x00, false, false, false, 1, 255, 0, .bool, 0, .any⟩,
  ⟨0x6010, 0x6010, 0x00, 0x00, .u8, .ro, 0xFE, 0x00, false, false, false, 0, 10, 0, .bool, 0, .any⟩,
  ⟨0x6010, 0x6010, 0x01, 0x01, .u8, .rw, 0xFE, 0x02, false, false, false, 2, 0, 0, .bool, 0, (.le 1)⟩,
  ⟨0x6010, 0x6010, 0x02, 0x02, .u8, .rw, 0xFE, 0x02, false, false, false, 2, 5, 0, .bool, 0, (.le 8)⟩,
  ⟨0x6010, 0x6010, 0x03, 0x03, .i20, .rw, 0xFE, 0x02, false, false, false, 2, 0, 0, .bool, 0, .any⟩,
  ⟨0x6010, 0x6010, 0x04, 0x04, .i20, .rw, 0xFE, 0x02, false, false, false, 2, 0, 0, .bool, 0, .any⟩,
  ⟨0x6010, 0x6010, 0x05, 0x05, .u20, .rw, 0xFE, 0x02, false, false, false, 2, 64, 0, .bool, 0, .any⟩,
  ⟨0x6010, 0x6010, 0x06, 0x06, .u8, .ro, 0xFE, 0x00, false, false, false, 1, 255, 0, .bool, 0, .any⟩,
  ⟨0x6010, 0x6010, 0x07, 0x07, .u32, .ro, 0xFE, 0x00, false, false, false, 1, 0, 0, .bool, 0, .any⟩,
  ⟨0x6010, 0x6010, 0x08, 0x08, .u20, .rw, 0xFE, 0x02, false, false, true, 1, 0, 0, .bool, 0, (.oneOf [0])⟩,
  ⟨0x6010, 0x6010, 0x09, 0x09, .u20, .rw, 0xFE, 0x02, false, false, true, 1, 0, 0, .bool, 0, (.oneOf [0])⟩,
  ⟨0x6010, 0x6010, 0x0A, 0x0A, .u20, .rw, 0xFE, 0x02, false, false, true, 1, 0, 0, .bool, 0, (.oneOf [0])⟩,
  ⟨0x6020, 0x6020, 0x00, 0x00, .u8, .ro, 0xFE, 0x00, false, false, false, 0, 8, 0, .bool, 0, .any⟩,
  ⟨0x6020, 0x6020, 0x01, 0x01, .u8, .rw, 0xFE, 0x02, false, false, false, 2, 0, 0, .bool, 0, (.le 1)⟩,
  ⟨0x6020, 0x6020, 0x02, 0x02, .u40, .rw, 0xFE, 0x02, false, false, false, 1, 0, 0, .bool, 0, .any⟩,
  ⟨0x6020, 0x6020, 0x03, 0x03, .i32, .rw, 0xFE, 0x02, false, false, false, 2, 0, 0, .bool, 0, .any⟩,
  ⟨0x6020, 0x6020, 0x04, 0x04, .u32, .rw, 0xFE, 0x02, false, false, false, 2, 327680, 0, .bool, 0, .any⟩,
  ⟨0x6020, 0x6020, 0x05, 0x05, .bool, .ro, 0xFE, 0x00, false, false, false, 1, 0, 0, .bool, 0, .any⟩]
/-- Rows of the 6000h range, piece 1. -/
def rows6_1 : List Row := [
  ⟨0x6020, 0x6020, 0x06, 0x06, .u20, .rw, 0xFE, 0x02, false, false, true, 1, 0, 0, .bool, 0, (.oneOf [0])⟩,
  ⟨0x6020, 0x6020, 0x07, 0x07, .u20, .rw, 0xFE, 0x02, false, false, true, 1, 0, 0, .bool, 0, (.oneOf [0])⟩,
  ⟨0x6020, 0x6020, 0x08, 0x08, .u20, .rw, 0xFE, 0x02, false, false, true, 1, 0, 0, .bool, 0, (.oneOf [0])⟩,
  ⟨0x6030, 0x6030, 0x00, 0x00, .u8, .ro, 0xFE, 0x00, false, false, false, 0, 9, 0, .bool, 0, .any⟩,
  ⟨0x6030, 0x6030, 0x01, 0x01, .bool, .rw, 0xFE, 0x02, false, false, false, 2, 0, 0, .bool, 0, .any⟩,
  ⟨0x6030, 0x6030, 0x02, 0x02, .u8, .rw, 0xFE, 0x02, false, false, false, 2, 0, 0, .bool, 0, (.le 1)⟩,
  ⟨0x6030, 0x6030, 0x03, 0x03, .u8, .rw, 0xFE, 0x02, false, false, false, 2, 0, 0, .bool, 0, .any⟩,
  ⟨0x6030, 0x6030, 0x04, 0x04, .u8, .rw, 0xFE, 0x02, false, false, false, 2, 0, 0, .bool, 0, (.le 1)⟩,
  ⟨0x6030, 0x6030, 0x05, 0x05, .u8, .rw, 0xFE, 0x02, false, false, false, 2, 0, 0, .bool, 0, (.le 1)⟩,
  ⟨0x6030, 0x6030, 0x06, 0x06, .u32, .rw, 0xFE, 0x02, false, false, false, 2, 0, 0, .bool, 0, .any⟩,
  ⟨0x6030, 0x6030, 0x07, 0x07, .i20, .rw, 0xFE, 0x02, false, false, false, 2, 0, 0, .bool, 0, (.signed (-7) 4)⟩,
  ⟨0x6030, 0x6030, 0x08, 0x08, .u8, .rw, 0xFE, 0x02, false, false, false, 2, 16, 0, .bool, 0, (.between 4 64)⟩,
  ⟨0x6030, 0x6030, 0x09, 0x09, .u8, .rw, 0xFE, 0x02, false, false, false, 2, 1, 0, .bool, 0, (.le 1)⟩,
  ⟨0x6031, 0x6031, 0x00, 0x00, .u8, .ro, 0xFE, 0x00, false, false, false, 0, 9, 0, .bool, 0, .any⟩,
  ⟨0x6031, 0x6031, 0x01, 0x01, .bool, .rw, 0xFE, 0x02, false, false, false, 2, 0, 0, .bool, 0, .any⟩,
  ⟨0x6031, 0x6031, 0x02, 0x02, .u8, .rw, 0xFE, 0x02, false, false, false, 2, 0, 0, .bool, 0, (.le 1)⟩,
  ⟨0x6031, 0x6031, 0x03, 0x03, .u8, .rw, 0xFE, 0x02, false, false, false, 2, 0, 0, .bool, 0, .any⟩,
  ⟨0x6031, 0x6031, 0x04, 0x04, .u8, .rw, 0xFE, 0x02, false, false, false, 2, 0, 0, .bool, 0, (.le 1)⟩,
  ⟨0x6031, 0x6031, 0x05, 0x05, .u8, .rw, 0xFE, 0x02, false, false, false, 2, 0, 0, .bool, 0, (.le 1)⟩,
  ⟨0x6031, 0x6031, 0x06, 0x06, .u32, .rw, 0xFE, 0x02, false, false, false, 2, 0, 0, .bool, 0, .any⟩,
  ⟨0x6031, 0x6031, 0x07, 0x07, .i20, .rw, 0xFE, 0x02, false, false, false, 2, 0, 0, .bool, 0, (.signed (-7) 4)⟩,
  ⟨0x6031, 0x6031, 0x08, 0x08, .u8, .rw, 0xFE, 0x02, false, false, false, 2, 16, 0, .bool, 0, (.between 4 64)⟩,
  ⟨0x6031, 0x6031, 0x09, 0x09, .u8, .rw, 0xFE, 0x02, false, false, false, 2, 1, 0, .bool, 0, (.le 1)⟩,
  ⟨0x6038, 0x6038, 0x00, 0x00, .u8, .ro, 0xFE, 0x00, false, false, false, 0, 8, 0, .bool, 0, .any⟩,
  ⟨0x6038, 0x6038, 0x01, 0x01, .u8, .ro, 0xFE, 0x00, false, false, false, 1, 0, 0, .bool, 0, .any⟩,
  ⟨0x6038, 0x6038, 0x02, 0x02, .u80, .ro, 0xFE, 0x00, false, false, false, 1, 0, 0, .bool, 0, .any⟩,
  ⟨0x6038, 0x6038, 0x03, 0x03, .i32, .ro, 0xFE, 0x00, false, false, false, 1, 0, 0, .bool, 0, .any⟩,
  ⟨0x6038, 0x6038, 0x04, 0x04, .u32, .ro, 0xFE, 0x00, false, false, false, 1, 0, 0, .bool, 0, .any⟩,
  ⟨0x6038, 0x6038, 0x05, 0x05, .u16, .ro, 0xFE, 0x00, false, false, false, 1, 0, 0, .bool, 0, .any⟩,
  ⟨0x6038, 0x6038, 0x06, 0x06, .u20, .rw, 0xFE, 0x02, false, false, true, 1, 0, 0, .bool, 0, (.oneOf [0])⟩,
  ⟨0x6038, 0x6038, 0x07, 0x07, .u20, .rw, 0xFE, 0x02, false, false, true, 1, 0, 0, .bool, 0, (.oneOf [0])⟩,
  ⟨0x6038, 0x6038, 0x08, 0x08, .u20, .rw, 0xFE, 0x02, false, false, true, 1, 0, 0, .bool, 0, (.oneOf [0])⟩,
  ⟨0x6039, 0x6039, 0x00, 0x00, .u8, .ro, 0xFE, 0x00, false, false, false, 0, 8, 0, .bool, 0, .any⟩,
  ⟨0x6039, 0x6039, 0x01, 0x01, .u8, .ro, 0xFE, 0x00, false, false, false, 1, 0, 0, .bool, 0, .any⟩,
  ⟨0x6039, 0x6039, 0x02, 0x02, .u80, .ro, 0xFE, 0x00, false, false, false, 1, 0, 0, .bool, 0, .any⟩,
  ⟨0x6039, 0x6039, 0x03, 0x03, .i32, .ro, 0xFE, 0x00, false, false, false, 1, 0, 0, .bool, 0, .any⟩,
  ⟨0x6039, 0x6039, 0x04, 0x04, .u32, .ro, 0xFE, 0x00, false, false, false, 1, 0, 0, .bool, 0, .any⟩,
  ⟨0x6039, 0x6039, 0x05, 0x05, .u16, .ro, 0xFE, 0x00, false, false, false, 1, 0, 0, .bool, 0, .any⟩,
  ⟨0x6039, 0x6039, 0x06, 0x06, .u20, .rw, 0xFE, 0x02, false, false, true, 1, 0, 0, .bool, 0, (.oneOf [0])⟩,
  ⟨0x6039, 0x6039, 0x07, 0x07, .u20, .rw, 0xFE, 0x02, false, false, true, 1, 0, 0, .bool, 0, (.oneOf [0])⟩]
/-- Rows of the 6000h range, piece 2. -/
def rows6_2 : List Row := [
  ⟨0x6039, 0x6039, 0x08, 0x08, .u20, .rw, 0xFE, 0x02, false, false, true, 1, 0, 0, .bool, 0, (.oneOf [0])⟩,
  ⟨0x6040, 0x6040, 0x00, 0x00, .u8, .ro, 0xFE, 0x00, false, false, false, 0, 6, 0, .bool, 0, .any⟩,
  ⟨0x6040, 0x6040, 0x01, 0x01, .u8, .rw, 0xFE, 0x02, false, false, false, 2, 0, 0, .bool, 0, (.le 1)⟩,
  ⟨0x6040, 0x6040, 0x02, 0x02, .u8, .ro, 0xFE, 0x00, false, false, false, 1, 0, 0, .bool, 0, .any⟩,
  ⟨0x6040, 0x6040, 0x03, 0x03, .bool, .rw, 0xFE, 0x02, false, false, false, 2, 1, 0, .bool, 0, .any⟩,
  ⟨0x6040, 0x6040, 0x04, 0x04, .u16, .rw, 0xFE, 0x02, false, false, false, 2, 500, 0, .bool, 0, (.between 1 500)⟩,
  ⟨0x6040, 0x6040, 0x05, 0x05, .i32, .ro, 0xFE, 0x00, false, false, false, 1, 0, 0, .bool, 0, .any⟩,
  ⟨0x6040, 0x6040, 0x06, 0x06, .u20, .rw, 0xFE, 0x02, false, false, true, 1, 0, 0, .bool, 0, (.oneOf [0])⟩,
  ⟨0x6050, 0x6050, 0x00, 0x00, .u8, .ro, 0xFE, 0x00, false, false, false, 0, 5, 0, .bool, 0, .any⟩,
  ⟨0x6050, 0x6050, 0x01, 0x04, .i20, .rw, 0xFE, 0x02, false, false, false, 2, 0, 0, .bool, 0, .any⟩,
  ⟨0x6050, 0x6050, 0x05, 0x05, .u20, .rw, 0xFE, 0x02, false, false, true, 1, 0, 0, .bool, 0, (.oneOf [0])⟩,
  ⟨0x6060, 0x6066, 0x00, 0x00, .u8, .ro, 0xFE, 0x00, false, false, false, 0, 7, 0, .bool, 0, .any⟩,
  ⟨0x6060, 0x6066, 0x01, 0x01, .u8, .wo, 0x00, 0x02, false, false, false, 0, 0, 0, .bool, 0, (.oneOf [1, 2])⟩,
  ⟨0x6060, 0x6066, 0x02, 0x02, .u8, .ro, 0xFE, 0x00, false, false, false, 1, 0, 0, .bool, 0, .any⟩,
  ⟨0x6060, 0x6066, 0x03, 0x03, .u8, .ro, 0xFE, 0x00, false, false, false, 1, 0, 0, .bool, 0, .any⟩,
  ⟨0x6060, 0x6066, 0x04, 0x04, .u8, .ro, 0xFE, 0x00, false, false, false, 1, 0, 0, .bool, 0, .any⟩,
  ⟨0x6060, 0x6066, 0x05, 0x05, .u80, .ro, 0xFE, 0x00, false, false, false, 1, 0, 0, .bool, 0, .any⟩,
  ⟨0x6060, 0x6066, 0x06, 0x06, .u20, .rw, 0xFE, 0x02, false, false, true, 1, 0, 0, .bool, 0, (.oneOf [0])⟩,
  ⟨0x6060, 0x6066, 0x07, 0x07, .u16, .ro, 0xFE, 0x00, false, false, false, 1, 0, 0, .bool, 0, .any⟩,
  ⟨0x6068, 0x606E, 0x00, 0x00, .domain, .ro, 0xFE, 0x00, false, false, false, 1, 0, 129, .u16, 0, .any⟩]

/-- Rows of the 6000h range. -/
def rows6 : List Row := rows6_0 ++ rows6_1 ++ rows6_2

/-- Rows of the 7000h range, piece 0. -/
def rows7_0 : List Row := [
  ⟨0x7000, 0x700F, 0x00, 0x00, .u8, .ro, 0xFE, 0x00, false, false, false, 0, 8, 0, .bool, 0, .any⟩,
  ⟨0x7000, 0x700F, 0x01, 0x01, .u8, .rw, 0xFE, 0x02, false, false, false, 2, 0, 0, .bool, 0, .any⟩,
  ⟨0x7000, 0x700F, 0x02, 0x02, .u16, .rw, 0xFE, 0x02, false, false, false, 2, 1, 0, .bool, 0, (.between 1 256)⟩,
  ⟨0x7000, 0x700F, 0x03, 0x03, .u16, .rw, 0xFE, 0x02, false, false, false, 2, 0, 0, .bool, 0, (.le 4095)⟩,
  ⟨0x7000, 0x700F, 0x04, 0x04, .u20, .rw, 0xFE, 0x02, false, false, false, 2, 0, 0, .bool, 0, .any⟩,
  ⟨0x7000, 0x700F, 0x05, 0x05, .u8, .rw, 0xFE, 0x02, false, false, false, 2, 1, 0, .bool, 0, (.le 2)⟩,
  ⟨0x7000, 0x700F, 0x06, 0x06, .u8, .ro, 0xFE, 0x00, false, false, false, 1, 0, 0, .bool, 0, .any⟩,
  ⟨0x7000, 0x700F, 0x07, 0x07, .u8, .ro, 0xFE, 0x00, false, false, false, 1, 0, 0, .bool, 0, .any⟩,
  ⟨0x7000, 0x700F, 0x08, 0x08, .u32, .ro, 0xFE, 0x00, false, false, false, 1, 0, 0, .bool, 0, .any⟩,
  ⟨0x7010, 0x701F, 0x00, 0x00, .u8, .ro, 0xFE, 0x00, false, false, false, 0, 7, 0, .bool, 0, .any⟩,
  ⟨0x7010, 0x701F, 0x01, 0x01, .u8, .wo, 0x00, 0x02, false, false, false, 0, 0, 0, .bool, 0, (.oneOf [1])⟩,
  ⟨0x7010, 0x701F, 0x02, 0x02, .u8, .ro, 0xFE, 0x00, false, false, false, 1, 0, 0, .bool, 0, .any⟩,
  ⟨0x7010, 0x701F, 0x03, 0x03, .u32, .rw, 0xFE, 0x02, false, false, false, 2, 0, 0, .bool, 0, (.le 16777216)⟩,
  ⟨0x7010, 0x701F, 0x04, 0x04, .u8, .wo, 0x00, 0x02, false, false, false, 0, 0, 0, .bool, 0, (.oneOf [1, 2])⟩,
  ⟨0x7010, 0x701F, 0x05, 0x05, .u8, .ro, 0xFE, 0x00, false, false, false, 1, 0, 0, .bool, 0, .any⟩,
  ⟨0x7010, 0x701F, 0x06, 0x06, .u20, .ro, 0xFE, 0x00, false, false, false, 1, 0, 0, .bool, 0, .any⟩,
  ⟨0x7010, 0x701F, 0x07, 0x07, .u80, .ro, 0xFE, 0x00, false, false, false, 1, 0, 0, .bool, 0, .any⟩,
  ⟨0x7020, 0x702F, 0x00, 0x00, .u8, .ro, 0xFE, 0x00, false, false, false, 0, 7, 0, .bool, 0, .any⟩,
  ⟨0x7020, 0x702F, 0x01, 0x01, .u20, .rw, 0xFE, 0x02, false, false, true, 1, 0, 0, .bool, 0, (.oneOf [0])⟩,
  ⟨0x7020, 0x702F, 0x02, 0x02, .u20, .rw, 0xFE, 0x02, false, false, true, 1, 0, 0, .bool, 0, (.oneOf [0])⟩,
  ⟨0x7020, 0x702F, 0x03, 0x03, .u20, .rw, 0xFE, 0x02, false, false, true, 1, 0, 0, .bool, 0, (.oneOf [0])⟩,
  ⟨0x7020, 0x702F, 0x04, 0x04, .u20, .rw, 0xFE, 0x02, false, false, true, 1, 0, 0, .bool, 0, (.oneOf [0])⟩,
  ⟨0x7020, 0x702F, 0x05, 0x05, .u20, .rw, 0xFE, 0x02, false, false, true, 1, 0, 0, .bool, 0, (.oneOf [0])⟩,
  ⟨0x7020, 0x702F, 0x06, 0x06, .u20, .rw, 0xFE, 0x02, false, false, true, 1, 0, 0, .bool, 0, (.oneOf [0])⟩,
  ⟨0x7020, 0x702F, 0x07, 0x07, .u20, .rw, 0xFE, 0x02, false, false, true, 1, 0, 0, .bool, 0, (.oneOf [0])⟩,
  ⟨0x7030, 0x7030, 0x00, 0x00, .u8, .ro, 0xFE, 0x00, false, false, false, 0, 2, 0, .bool, 0, .any⟩,
  ⟨0x7030, 0x7030, 0x01, 0x01, .u8, .rw, 0xFE, 0x02, false, true, false, 2, 16, 0, .bool, 0, (.between 1 16)⟩,
  ⟨0x7030, 0x7030, 0x02, 0x02, .u8, .rw, 0xFE, 0x02, false, true, false, 2, 16, 0, .bool, 0, (.between 1 16)⟩,
  ⟨0x7040, 0x7040, 0x00, 0x00, .u8, .ro, 0xFE, 0x00, false, false, false, 0, 128, 0, .bool, 0, .any⟩,
  ⟨0x7040, 0x7041, 0x01, 0x80, .u20, .rw, 0xFE, 0x02, false, false, true, 1, 0, 0, .bool, 0, (.oneOf [0])⟩,
  ⟨0x7041, 0x7041, 0x00, 0x00, .u8, .ro, 0xFE, 0x00, false, false, false, 0, 128, 0, .bool, 0, .any⟩,
  ⟨0x7042, 0x7042, 0x00, 0x00, .u8, .ro, 0xFE, 0x00, false, false, false, 0, 128, 0, .bool, 0, .any⟩,
  ⟨0x7042, 0x7043, 0x01, 0x80, .u20, .rw, 0xFE, 0x02, false, false, true, 1, 0, 0, .bool, 0, (.oneOf [0])⟩,
  ⟨0x7043, 0x7043, 0x00, 0x00, .u8, .ro, 0xFE, 0x00, false, false, false, 0, 128, 0, .bool, 0, .any⟩,
  ⟨0x7044, 0x7044, 0x00, 0x00, .u8, .ro, 0xFE, 0x00, false, false, false, 0, 128, 0, .bool, 0, .any⟩,
  ⟨0x7044, 0x7045, 0x01, 0x80, .u8, .ro, 0xFE, 0x00, false, false, false, 1, 0, 0, .bool, 0, .any⟩,
  ⟨0x7045, 0x7045, 0x00, 0x00, .u8, .ro, 0xFE, 0x00, false, false, false, 0, 128, 0, .bool, 0, .any⟩,
  ⟨0x7046, 0x7046, 0x00, 0x00, .u8, .ro, 0xFE, 0x00, false, false, false, 0, 4, 0, .bool, 0, .any⟩,
  ⟨0x7046, 0x7046, 0x01, 0x01, .u8, .rw, 0xFE, 0x02, false, false, false, 1, 0, 0, .bool, 0, .any⟩,
  ⟨0x7046, 0x7046, 0x02, 0x02, .u8, .wo, 0x00, 0x02, false, false, false, 0, 0, 0, .bool, 0, (.oneOf [1, 2])⟩]
/-- Rows of the 7000h range, piece 1. -/
def rows7_1 : List Row := [
  ⟨0x7046, 0x7046, 0x03, 0x03, .u8, .ro, 0xFE, 0x00, false, false, false, 1, 0, 0, .bool, 0, .any⟩,
  ⟨0x7046, 0x7046, 0x04, 0x04, .u8, .ro, 0xFE, 0x00, false, false, false, 1, 0, 0, .bool, 0, .any⟩,
  ⟨0x7050, 0x7050, 0x00, 0x00, .domain, .ro, 0xFE, 0x00, false, false, false, 1, 0, 512, .u20, 0, .any⟩,
  ⟨0x7051, 0x7051, 0x00, 0x00, .u8, .ro, 0xFE, 0x00, false, false, false, 0, 2, 0, .bool, 0, .any⟩,
  ⟨0x7051, 0x7051, 0x01, 0x01, .u20, .rw, 0xFE, 0x02, false, false, true, 1, 0, 0, .bool, 0, (.oneOf [0])⟩,
  ⟨0x7051, 0x7051, 0x02, 0x02, .u8, .ro, 0xFE, 0x00, false, false, false, 1, 255, 0, .bool, 0, .any⟩,
  ⟨0x7060, 0x7060, 0x00, 0x00, .u8, .ro, 0xFE, 0x00, false, false, false, 0, 3, 0, .bool, 0, .any⟩,
  ⟨0x7060, 0x7060, 0x01, 0x01, .u20, .rw, 0xFE, 0x02, false, false, true, 1, 0, 0, .bool, 0, (.oneOf [0])⟩,
  ⟨0x7060, 0x7060, 0x02, 0x02, .u8, .ro, 0xFE, 0x00, false, false, false, 1, 0, 0, .bool, 0, .any⟩,
  ⟨0x7060, 0x7060, 0x03, 0x03, .u16, .ro, 0xFE, 0x00, false, false, false, 1, 0, 0, .bool, 0, .any⟩]

/-- Rows of the 7000h range. -/
def rows7 : List Row := rows7_0 ++ rows7_1

/-- Rows of the 8000h range, piece 0. -/
def rows8_0 : List Row := [
  ⟨0x8000, 0x8003, 0x00, 0x00, .u8, .ro, 0xFE, 0x00, false, false, false, 0, 16, 0, .bool, 0, .any⟩,
  ⟨0x8000, 0x8003, 0x01, 0x01, .u8, .rw, 0xFE, 0x02, false, false, false, 2, 32, 0, .bool, 0, .hkSource⟩,
  ⟨0x8000, 0x8003, 0x02, 0x02, .u8, .rw, 0xFE, 0x02, false, false, false, 2, 32, 0, .bool, 0, .hkSource⟩,
  ⟨0x8000, 0x8003, 0x03, 0x03, .u8, .rw, 0xFE, 0x02, false, false, false, 2, 0, 0, .bool, 0, (.le 1)⟩,
  ⟨0x8000, 0x8003, 0x04, 0x04, .u8, .rw, 0xFE, 0x02, false, false, false, 2, 32, 0, .bool, 0, .hkSource⟩,
  ⟨0x8000, 0x8003, 0x05, 0x05, .u8, .rw, 0xFE, 0x02, false, false, false, 2, 32, 0, .bool, 0, .hkSource⟩,
  ⟨0x8000, 0x8003, 0x06, 0x06, .u8, .rw, 0xFE, 0x02, false, false, false, 2, 16, 0, .bool, 0, (.between 1 255)⟩,
  ⟨0x8000, 0x8003, 0x07, 0x07, .u8, .rw, 0xFE, 0x02, false, false, false, 2, 1, 0, .bool, 0, (.le 1)⟩,
  ⟨0x8000, 0x8003, 0x08, 0x08, .u8, .rw, 0xFE, 0x02, false, false, false, 2, 0, 0, .bool, 0, (.le 7)⟩,
  ⟨0x8000, 0x8003, 0x09, 0x09, .u8, .rw, 0xFE, 0x02, false, false, false, 2, 0, 0, .bool, 0, (.le 3)⟩,
  ⟨0x8000, 0x8003, 0x0A, 0x0A, .u8, .rw, 0xFE, 0x02, false, false, false, 2, 0, 0, .bool, 0, (.le 3)⟩,
  ⟨0x8000, 0x8003, 0x0B, 0x0B, .u8, .ro, 0xFE, 0x00, false, false, false, 1, 0, 0, .bool, 0, .any⟩,
  ⟨0x8000, 0x8003, 0x0C, 0x0C, .u8, .rw, 0xFE, 0x02, false, false, false, 2, 7, 0, .bool, 0, (.le 7)⟩,
  ⟨0x8000, 0x8003, 0x0D, 0x0D, .u20, .rw, 0xFE, 0x02, false, false, true, 1, 0, 0, .bool, 0, (.oneOf [0])⟩,
  ⟨0x8000, 0x8003, 0x0E, 0x0E, .u20, .rw, 0xFE, 0x02, false, false, true, 1, 0, 0, .bool, 0, (.oneOf [0])⟩,
  ⟨0x8000, 0x8003, 0x0F, 0x0F, .i20, .ro, 0xFE, 0x00, false, false, false, 1, 0, 0, .bool, 0, .any⟩,
  ⟨0x8000, 0x8003, 0x10, 0x10, .u20, .rw, 0xFE, 0x02, false, false, true, 1, 0, 0, .bool, 0, (.oneOf [0])⟩,
  ⟨0x8010, 0x8013, 0x00, 0x00, .u8, .ro, 0xFE, 0x00, false, false, false, 0, 8, 0, .bool, 0, .any⟩,
  ⟨0x8010, 0x8013, 0x01, 0x01, .u16, .rw, 0xFE, 0x02, false, false, false, 2, 0, 0, .bool, 0, (.zeroOr 10 1000)⟩,
  ⟨0x8010, 0x8013, 0x02, 0x02, .u8, .rw, 0xFE, 0x02, false, false, false, 2, 255, 0, .bool, 0, .sxPin⟩,
  ⟨0x8010, 0x8013, 0x03, 0x03, .u8, .rw, 0xFE, 0x02, false, false, false, 2, 255, 0, .bool, 0, .sxPin⟩,
  ⟨0x8010, 0x8013, 0x04, 0x04, .u8, .rw, 0xFE, 0x02, false, false, false, 2, 0, 0, .bool, 0, (.le 2)⟩,
  ⟨0x8010, 0x8013, 0x05, 0x05, .u8, .rw, 0xFE, 0x02, false, false, false, 2, 0, 0, .bool, 0, (.le 15)⟩,
  ⟨0x8010, 0x8013, 0x06, 0x06, .u8, .ro, 0xFE, 0x00, false, false, false, 1, 0, 0, .bool, 0, .any⟩,
  ⟨0x8010, 0x8013, 0x07, 0x07, .u8, .ro, 0xFE, 0x00, false, false, false, 1, 0, 0, .bool, 0, .any⟩,
  ⟨0x8010, 0x8013, 0x08, 0x08, .u20, .rw, 0xFE, 0x02, false, false, true, 1, 0, 0, .bool, 0, (.oneOf [0])⟩,
  ⟨0x8020, 0x8020, 0x00, 0x00, .u8, .ro, 0xFE, 0x00, false, false, false, 0, 4, 0, .bool, 0, .any⟩,
  ⟨0x8020, 0x8020, 0x01, 0x04, .u8, .ro, 0xFE, 0x00, false, false, false, 1, 0, 0, .bool, 0, .any⟩,
  ⟨0x8040, 0x8040, 0x00, 0x00, .u8, .ro, 0xFE, 0x00, false, false, false, 0, 11, 0, .bool, 0, .any⟩,
  ⟨0x8040, 0x8040, 0x01, 0x01, .bool, .rw, 0xFE, 0x02, false, false, false, 2, 0, 0, .bool, 0, .any⟩,
  ⟨0x8040, 0x8040, 0x02, 0x02, .u8, .rw, 0xFE, 0x02, false, false, false, 2, 4, 0, .bool, 0, (.le 5)⟩,
  ⟨0x8040, 0x8040, 0x03, 0x03, .i32, .rw, 0xFE, 0x02, false, false, false, 2, 0, 0, .bool, 0, .any⟩,
  ⟨0x8040, 0x8040, 0x04, 0x04, .i32, .rw, 0xFE, 0x02, false, false, false, 2, 67108864, 0, .bool, 0, .any⟩,
  ⟨0x8040, 0x8040, 0x05, 0x05, .u8, .rw, 0xFE, 0x02, false, false, false, 2, 0, 0, .bool, 0, (.le 1)⟩,
  ⟨0x8040, 0x8040, 0x06, 0x06, .u16, .rw, 0xFE, 0x02, false, false, false, 2, 53750, 0, .bool, 0, (.between 52500 57500)⟩,
  ⟨0x8040, 0x8040, 0x07, 0x07, .u16, .rw, 0xFE, 0x02, false, false, false, 2, 10000, 0, .bool, 0, (.between 9000 57500)⟩,
  ⟨0x8040, 0x8040, 0x08, 0x08, .u16, .rw, 0xFE, 0x02, false, false, false, 2, 1000, 0, .bool, 0, (.between 10 65535)⟩,
  ⟨0x8040, 0x8040, 0x09, 0x09, .u16, .ro, 0xFE, 0x00, false, false, false, 1, 0, 0, .bool, 0, .any⟩,
  ⟨0x8040, 0x8040, 0x0A, 0x0A, .u20, .rw, 0xFE, 0x02, false, false, true, 1, 0, 0, .bool, 0, (.oneOf [0])⟩,
  ⟨0x8040, 0x8040, 0x0B, 0x0B, .u20, .rw, 0xFE, 0x02, false, false, true, 1, 0, 0, .bool, 0, (.oneOf [0])⟩]
/-- Rows of the 8000h range, piece 1. -/
def rows8_1 : List Row := [
  ⟨0x8041, 0x8041, 0x00, 0x00, .u8, .ro, 0xFE, 0x00, false, false, false, 0, 11, 0, .bool, 0, .any⟩,
  ⟨0x8041, 0x8041, 0x01, 0x01, .bool, .rw, 0xFE, 0x02, false, false, false, 2, 0, 0, .bool, 0, .any⟩,
  ⟨0x8041, 0x8041, 0x02, 0x02, .u8, .rw, 0xFE, 0x02, false, false, false, 2, 4, 0, .bool, 0, (.le 5)⟩,
  ⟨0x8041, 0x8041, 0x03, 0x03, .i32, .rw, 0xFE, 0x02, false, false, false, 2, 0, 0, .bool, 0, .any⟩,
  ⟨0x8041, 0x8041, 0x04, 0x04, .i32, .rw, 0xFE, 0x02, false, false, false, 2, 67108864, 0, .bool, 0, .any⟩,
  ⟨0x8041, 0x8041, 0x05, 0x05, .u8, .rw, 0xFE, 0x02, false, false, false, 2, 0, 0, .bool, 0, (.le 1)⟩,
  ⟨0x8041, 0x8041, 0x06, 0x06, .u16, .rw, 0xFE, 0x02, false, false, false, 2, 53750, 0, .bool, 0, (.between 52500 57500)⟩,
  ⟨0x8041, 0x8041, 0x07, 0x07, .u16, .rw, 0xFE, 0x02, false, false, false, 2, 10000, 0, .bool, 0, (.between 9000 57500)⟩,
  ⟨0x8041, 0x8041, 0x08, 0x08, .u16, .rw, 0xFE, 0x02, false, false, false, 2, 1000, 0, .bool, 0, (.between 10 65535)⟩,
  ⟨0x8041, 0x8041, 0x09, 0x09, .u16, .ro, 0xFE, 0x00, false, false, false, 1, 0, 0, .bool, 0, .any⟩,
  ⟨0x8041, 0x8041, 0x0A, 0x0A, .u20, .rw, 0xFE, 0x02, false, false, true, 1, 0, 0, .bool, 0, (.oneOf [0])⟩,
  ⟨0x8041, 0x8041, 0x0B, 0x0B, .u20, .rw, 0xFE, 0x02, false, false, true, 1, 0, 0, .bool, 0, (.oneOf [0])⟩,
  ⟨0x8048, 0x8048, 0x00, 0x00, .u8, .ro, 0xFE, 0x00, false, false, false, 0, 4, 0, .bool, 0, .any⟩,
  ⟨0x8048, 0x8048, 0x01, 0x01, .u8, .ro, 0xFE, 0x00, false, false, false, 1, 0, 0, .bool, 0, .any⟩,
  ⟨0x8048, 0x8048, 0x02, 0x02, .u8, .ro, 0xFE, 0x00, false, false, false, 1, 0, 0, .bool, 0, .any⟩,
  ⟨0x8048, 0x8048, 0x03, 0x03, .u16, .ro, 0xFE, 0x00, false, false, false, 1, 0, 0, .bool, 0, .any⟩,
  ⟨0x8048, 0x8048, 0x04, 0x04, .bool, .ro, 0xFE, 0x00, false, false, false, 1, 0, 0, .bool, 0, .any⟩,
  ⟨0x8049, 0x8049, 0x00, 0x00, .u8, .ro, 0xFE, 0x00, false, false, false, 0, 4, 0, .bool, 0, .any⟩,
  ⟨0x8049, 0x8049, 0x01, 0x01, .u8, .ro, 0xFE, 0x00, false, false, false, 1, 0, 0, .bool, 0, .any⟩,
  ⟨0x8049, 0x8049, 0x02, 0x02, .u8, .ro, 0xFE, 0x00, false, false, false, 1, 0, 0, .bool, 0, .any⟩,
  ⟨0x8049, 0x8049, 0x03, 0x03, .u16, .ro, 0xFE, 0x00, false, false, false, 1, 0, 0, .bool, 0, .any⟩,
  ⟨0x8049, 0x8049, 0x04, 0x04, .bool, .ro, 0xFE, 0x00, false, false, false, 1, 0, 0, .bool, 0, .any⟩,
  ⟨0x8050, 0x8053, 0x00, 0x00, .u8, .ro, 0xFE, 0x00, false, false, false, 0, 6, 0, .bool, 0, .any⟩,
  ⟨0x8050, 0x8053, 0x01, 0x01, .u8, .rw, 0xFE, 0x02, false, false, false, 2, 2, 0, .bool, 0, (.le 15)⟩,
  ⟨0x8050, 0x8053, 0x02, 0x02, .u16, .rw, 0xFE, 0x02, false, false, false, 2, 2048, 0, .bool, 0, (.between 1 65535)⟩,
  ⟨0x8050, 0x8053, 0x03, 0x03, .u16, .rw, 0xFE, 0x02, false, false, false, 2, 2048, 0, .bool, 0, (.between 1 65535)⟩,
  ⟨0x8050, 0x8053, 0x04, 0x04, .u16, .rw, 0xFE, 0x02, false, false, false, 2, 2048, 0, .bool, 0, (.between 1 65535)⟩,
  ⟨0x8050, 0x8053, 0x05, 0x05, .u20, .rw, 0xFE, 0x02, false, false, false, 2, 0, 0, .bool, 0, .any⟩,
  ⟨0x8050, 0x8053, 0x06, 0x06, .bool, .rw, 0xFE, 0x02, false, false, false, 2, 0, 0, .bool, 0, .any⟩,
  ⟨0x8054, 0x8054, 0x00, 0x00, .u8, .ro, 0xFE, 0x00, false, false, false, 0, 6, 0, .bool, 0, .any⟩,
  ⟨0x8054, 0x8054, 0x01, 0x01, .u8, .rw, 0xFE, 0x02, false, false, false, 2, 15, 0, .bool, 0, (.le 15)⟩,
  ⟨0x8054, 0x8054, 0x02, 0x02, .u8, .wo, 0x00, 0x02, false, false, false, 0, 0, 0, .bool, 0, (.between 1 3)⟩,
  ⟨0x8054, 0x8054, 0x03, 0x03, .u80, .rw, 0xFE, 0x02, false, false, false, 1, 0, 0, .bool, 0, .any⟩,
  ⟨0x8054, 0x8054, 0x04, 0x04, .u8, .ro, 0xFE, 0x00, false, false, false, 1, 0, 0, .bool, 0, .any⟩,
  ⟨0x8054, 0x8054, 0x05, 0x05, .u80, .ro, 0xFE, 0x00, false, false, false, 1, 0, 0, .bool, 0, .any⟩,
  ⟨0x8054, 0x8054, 0x06, 0x06, .u8, .ro, 0xFE, 0x00, false, false, false, 1, 0, 0, .bool, 0, .any⟩,
  ⟨0x8058, 0x805B, 0x00, 0x00, .u8, .ro, 0xFE, 0x00, false, false, false, 0, 4, 0, .bool, 0, .any⟩,
  ⟨0x8058, 0x805B, 0x01, 0x01, .u80, .ro, 0xFE, 0x00, false, false, false, 1, 0, 0, .bool, 0, .any⟩,
  ⟨0x8058, 0x805B, 0x02, 0x02, .u80, .ro, 0xFE, 0x00, false, false, false, 1, 0, 0, .bool, 0, .any⟩,
  ⟨0x8058, 0x805B, 0x03, 0x03, .u20, .ro, 0xFE, 0x00, false, false, false, 1, 0, 0, .bool, 0, .any⟩]
/-- Rows of the 8000h range, piece 2. -/
def rows8_2 : List Row := [
  ⟨0x8058, 0x805B, 0x04, 0x04, .u8, .ro, 0xFE, 0x00, false, false, false, 1, 0, 0, .bool, 0, .any⟩,
  ⟨0x805C, 0x805F, 0x00, 0x00, .u8, .ro, 0xFE, 0x00, false, false, false, 0, 6, 0, .bool, 0, .any⟩,
  ⟨0x805C, 0x805F, 0x01, 0x01, .u8, .wo, 0x00, 0x02, false, false, false, 0, 0, 0, .bool, 0, (.oneOf [1])⟩,
  ⟨0x805C, 0x805F, 0x02, 0x02, .u8, .rw, 0xFE, 0x02, false, false, false, 2, 33, 0, .bool, 0, .hkSource⟩,
  ⟨0x805C, 0x805F, 0x03, 0x03, .u8, .rw, 0xFE, 0x02, false, false, false, 2, 32, 0, .bool, 0, .hkSource⟩,
  ⟨0x805C, 0x805F, 0x04, 0x04, .u8, .rw, 0xFE, 0x02, false, false, false, 2, 0, 0, .bool, 0, (.le 7)⟩,
  ⟨0x805C, 0x805F, 0x05, 0x05, .u8, .ro, 0xFE, 0x00, false, false, false, 1, 0, 0, .bool, 0, .any⟩,
  ⟨0x805C, 0x805F, 0x06, 0x06, .u8, .ro, 0xFE, 0x00, false, false, false, 1, 0, 0, .bool, 0, .any⟩,
  ⟨0x8060, 0x8063, 0x00, 0x00, .u8, .ro, 0xFE, 0x00, false, false, false, 0, 5, 0, .bool, 0, .any⟩,
  ⟨0x8060, 0x8063, 0x01, 0x01, .u8, .wo, 0x00, 0x02, false, false, false, 0, 0, 0, .bool, 0, (.oneOf [1, 2])⟩,
  ⟨0x8060, 0x8063, 0x02, 0x02, .u8, .ro, 0xFE, 0x00, false, false, false, 1, 0, 0, .bool, 0, .any⟩,
  ⟨0x8060, 0x8063, 0x03, 0x03, .u8, .ro, 0xFE, 0x00, false, false, false, 1, 0, 0, .bool, 0, .any⟩,
  ⟨0x8060, 0x8063, 0x04, 0x04, .u80, .ro, 0xFE, 0x00, false, false, false, 1, 0, 0, .bool, 0, .any⟩,
  ⟨0x8060, 0x8063, 0x05, 0x05, .u20, .rw, 0xFE, 0x02, false, false, true, 1, 0, 0, .bool, 0, (.oneOf [0])⟩,
  ⟨0x8064, 0x8067, 0x00, 0x00, .domain, .ro, 0xFE, 0x00, false, false, false, 1, 0, 16, .i20, 0, .any⟩,
  ⟨0x8068, 0x806B, 0x00, 0x00, .u8, .ro, 0xFE, 0x00, false, false, false, 0, 4, 0, .bool, 0, .any⟩,
  ⟨0x8068, 0x806B, 0x01, 0x01, .u20, .rw, 0xFE, 0x02, false, false, true, 1, 0, 0, .bool, 0, (.oneOf [0])⟩,
  ⟨0x8068, 0x806B, 0x02, 0x02, .u20, .rw, 0xFE, 0x02, false, false, true, 1, 0, 0, .bool, 0, (.oneOf [0])⟩,
  ⟨0x8068, 0x806B, 0x03, 0x03, .u20, .rw, 0xFE, 0x02, false, false, true, 1, 0, 0, .bool, 0, (.oneOf [0])⟩,
  ⟨0x8068, 0x806B, 0x04, 0x04, .u20, .rw, 0xFE, 0x02, false, false, true, 1, 0, 0, .bool, 0, (.oneOf [0])⟩]

/-- Rows of the 8000h range. -/
def rows8 : List Row := rows8_0 ++ rows8_1 ++ rows8_2

/-- Rows of the 9000h range, piece 0. -/
def rows9_0 : List Row := [
  ⟨0x9000, 0x9000, 0x00, 0x00, .u8, .ro, 0xFE, 0x00, false, false, false, 0, 12, 0, .bool, 0, .any⟩,
  ⟨0x9000, 0x9000, 0x01, 0x01, .u8, .wo, 0x00, 0x82, false, false, false, 0, 0, 0, .bool, 0, (.between 1 5)⟩,
  ⟨0x9000, 0x9000, 0x02, 0x02, .u8, .ro, 0xFE, 0x00, false, false, false, 1, 0, 0, .bool, 0, .any⟩,
  ⟨0x9000, 0x9000, 0x03, 0x03, .u8, .ro, 0xFE, 0x00, false, false, false, 1, 0, 0, .bool, 0, .any⟩,
  ⟨0x9000, 0x9000, 0x04, 0x04, .u32, .ro, 0xFE, 0x00, false, false, false, 1, 0, 0, .bool, 0, .any⟩,
  ⟨0x9000, 0x9000, 0x05, 0x05, .u16, .rw, 0xFE, 0x82, false, false, false, 2, 120, 0, .bool, 0, (.between 10 600)⟩,
  ⟨0x9000, 0x9000, 0x06, 0x06, .u8, .ro, 0xFE, 0x00, false, false, false, 2, 0, 0, .bool, 0, .any⟩,
  ⟨0x9000, 0x9000, 0x07, 0x07, .u8, .ro, 0xFE, 0x00, false, false, false, 2, 0, 0, .bool, 0, .any⟩,
  ⟨0x9000, 0x9000, 0x08, 0x08, .u32, .ro, 0xFE, 0x00, false, false, false, 1, 0, 0, .bool, 0, .any⟩,
  ⟨0x9000, 0x9000, 0x09, 0x09, .u8, .ro, 0xFE, 0x00, false, false, false, 1, 0, 0, .bool, 0, .any⟩,
  ⟨0x9000, 0x9000, 0x0A, 0x0A, .u8, .ro, 0xFE, 0x00, false, false, false, 2, 0, 0, .bool, 0, .any⟩,
  ⟨0x9000, 0x9000, 0x0B, 0x0B, .u32, .ro, 0xFE, 0x00, false, false, false, 1, 0, 0, .bool, 0, .any⟩,
  ⟨0x9000, 0x9000, 0x0C, 0x0C, .u20, .rw, 0xFE, 0x02, false, false, true, 1, 0, 0, .bool, 0, (.oneOf [0])⟩,
  ⟨0x9001, 0x9001, 0x00, 0x00, .u8, .ro, 0xFE, 0x00, false, false, false, 0, 7, 0, .bool, 0, .any⟩,
  ⟨0x9001, 0x9001, 0x01, 0x01, .u8, .ro, 0xFE, 0x00, false, false, false, 2, 0, 0, .bool, 0, .any⟩,
  ⟨0x9001, 0x9001, 0x02, 0x02, .u32, .ro, 0xFE, 0x00, false, false, false, 2, 0, 0, .bool, 0, .any⟩,
  ⟨0x9001, 0x9001, 0x03, 0x03, .u32, .ro, 0xFE, 0x00, false, false, false, 2, 0, 0, .bool, 0, .any⟩,
  ⟨0x9001, 0x9001, 0x04, 0x04, .u32, .ro, 0xFE, 0x00, false, false, false, 2, 0, 0, .bool, 0, .any⟩,
  ⟨0x9001, 0x9001, 0x05, 0x05, .u80, .ro, 0xFE, 0x00, false, false, false, 2, 0, 0, .bool, 0, .any⟩,
  ⟨0x9001, 0x9001, 0x06, 0x06, .u80, .ro, 0xFE, 0x00, false, false, false, 2, 0, 0, .bool, 0, .any⟩,
  ⟨0x9001, 0x9001, 0x07, 0x07, .u80, .ro, 0xFE, 0x00, false, false, false, 2, 0, 0, .bool, 0, .any⟩,
  ⟨0x9002, 0x9002, 0x00, 0x00, .u8, .ro, 0xFE, 0x00, false, false, false, 0, 7, 0, .bool, 0, .any⟩,
  ⟨0x9002, 0x9002, 0x01, 0x01, .u8, .ro, 0xFE, 0x00, false, false, false, 2, 0, 0, .bool, 0, .any⟩,
  ⟨0x9002, 0x9002, 0x02, 0x02, .u32, .ro, 0xFE, 0x00, false, false, false, 2, 0, 0, .bool, 0, .any⟩,
  ⟨0x9002, 0x9002, 0x03, 0x03, .u32, .ro, 0xFE, 0x00, false, false, false, 2, 0, 0, .bool, 0, .any⟩,
  ⟨0x9002, 0x9002, 0x04, 0x04, .u32, .ro, 0xFE, 0x00, false, false, false, 2, 0, 0, .bool, 0, .any⟩,
  ⟨0x9002, 0x9002, 0x05, 0x05, .u80, .ro, 0xFE, 0x00, false, false, false, 2, 0, 0, .bool, 0, .any⟩,
  ⟨0x9002, 0x9002, 0x06, 0x06, .u80, .ro, 0xFE, 0x00, false, false, false, 2, 0, 0, .bool, 0, .any⟩,
  ⟨0x9002, 0x9002, 0x07, 0x07, .u80, .ro, 0xFE, 0x00, false, false, false, 2, 0, 0, .bool, 0, .any⟩,
  ⟨0x9010, 0x9010, 0x00, 0x00, .domain, .wo, 0x00, 0x82, false, false, false, 0, 0, 524288, .u16, 0, .any⟩,
  ⟨0x9011, 0x9011, 0x00, 0x00, .u8, .ro, 0xFE, 0x00, false, false, false, 0, 2, 0, .bool, 0, .any⟩,
  ⟨0x9011, 0x9011, 0x01, 0x01, .u32, .ro, 0xFE, 0x00, false, false, false, 2, 0, 0, .bool, 0, .any⟩,
  ⟨0x9011, 0x9011, 0x02, 0x02, .u8, .ro, 0xFE, 0x00, false, false, false, 2, 0, 0, .bool, 0, .any⟩,
  ⟨0x9020, 0x9020, 0x00, 0x00, .domain, .wo, 0x00, 0x02, false, false, false, 0, 0, 573, .u20, 0, .any⟩,
  ⟨0x9021, 0x9021, 0x00, 0x00, .u8, .ro, 0xFE, 0x00, false, false, false, 0, 8, 0, .bool, 0, .any⟩,
  ⟨0x9021, 0x9021, 0x01, 0x01, .u8, .wo, 0x00, 0x02, false, false, false, 0, 0, 0, .bool, 0, (.oneOf [1])⟩,
  ⟨0x9021, 0x9021, 0x02, 0x02, .u8, .ro, 0xFE, 0x00, false, false, false, 1, 0, 0, .bool, 0, .any⟩,
  ⟨0x9021, 0x9021, 0x03, 0x03, .u8, .ro, 0xFE, 0x00, false, false, false, 1, 0, 0, .bool, 0, .any⟩,
  ⟨0x9021, 0x9021, 0x04, 0x04, .u20, .ro, 0xFE, 0x00, false, false, false, 1, 0, 0, .bool, 0, .any⟩,
  ⟨0x9021, 0x9021, 0x05, 0x05, .u16, .rw, 0xFE, 0x02, false, false, false, 2, 4, 0, .bool, 0, .any⟩]
/-- Rows of the 9000h range, piece 1. -/
def rows9_1 : List Row := [
  ⟨0x9021, 0x9021, 0x06, 0x06, .u20, .rw, 0xFE, 0x02, false, false, true, 1, 0, 0, .bool, 0, (.oneOf [0])⟩,
  ⟨0x9021, 0x9021, 0x07, 0x07, .u20, .rw, 0xFE, 0x02, false, false, true, 1, 0, 0, .bool, 0, (.oneOf [0])⟩,
  ⟨0x9021, 0x9021, 0x08, 0x08, .u20, .ro, 0xFE, 0x00, false, false, false, 1, 0, 0, .bool, 0, .any⟩]

/-- Rows of the 9000h range. -/
def rows9 : List Row := rows9_0 ++ rows9_1

/-- Rows of the A000h range, piece 0. -/
def rowsA_0 : List Row := [
  ⟨0xA000, 0xA000, 0x00, 0x00, .u8, .ro, 0xFE, 0x00, false, false, false, 0, 16, 0, .bool, 0, .any⟩,
  ⟨0xA000, 0xA000, 0x01, 0x10, .bool, .rw, 0xFE, 0x02, false, false, false, 2, 0, 0, .bool, 0, .any⟩,
  ⟨0xA001, 0xA001, 0x00, 0x00, .u8, .ro, 0xFE, 0x00, false, false, false, 0, 16, 0, .bool, 0, .any⟩,
  ⟨0xA001, 0xA001, 0x01, 0x10, .u20, .rw, 0xFE, 0x02, false, false, true, 1, 0, 0, .bool, 0, (.oneOf [0])⟩,
  ⟨0xA010, 0xA02B, 0x00, 0x00, .u8, .ro, 0xFE, 0x00, false, false, false, 0, 11, 0, .bool, 0, .any⟩,
  ⟨0xA010, 0xA02B, 0x01, 0x01, .u8, .wo, 0x00, 0x02, false, false, false, 0, 0, 0, .bool, 0, (.oneOf [1, 2])⟩,
  ⟨0xA010, 0xA02B, 0x02, 0x02, .u8, .rw, 0xFE, 0x02, false, false, false, 1, 1, 0, .bool, 0, (.between 1 3)⟩,
  ⟨0xA010, 0xA02B, 0x03, 0x03, .u8, .rw, 0xFE, 0x02, false, false, false, 1, 3, 0, .bool, 0, (.le 3)⟩,
  ⟨0xA010, 0xA02B, 0x04, 0x04, .u8, .rw, 0xFE, 0x02, false, false, false, 1, 4, 0, .bool, 0, (.le 4)⟩,
  ⟨0xA010, 0xA02B, 0x05, 0x05, .u32, .rw, 0xFE, 0x02, false, false, false, 1, 1000, 0, .bool, 0, .any⟩,
  ⟨0xA010, 0xA02B, 0x06, 0x06, .u8, .ro, 0xFE, 0x00, false, false, false, 1, 0, 0, .bool, 0, .any⟩,
  ⟨0xA010, 0xA02B, 0x07, 0x07, .u8, .ro, 0xFE, 0x00, false, false, false, 1, 0, 0, .bool, 0, .any⟩,
  ⟨0xA010, 0xA02B, 0x08, 0x08, .u40, .ro, 0xFE, 0x00, false, false, false, 1, 0, 0, .bool, 0, .any⟩,
  ⟨0xA010, 0xA02B, 0x09, 0x09, .u40, .ro, 0xFE, 0x00, false, false, false, 1, 0, 0, .bool, 0, .any⟩,
  ⟨0xA010, 0xA02B, 0x0A, 0x0A, .u20, .rw, 0xFE, 0x02, false, false, true, 1, 0, 0, .bool, 0, (.oneOf [0])⟩,
  ⟨0xA010, 0xA02B, 0x0B, 0x0B, .u8, .ro, 0xFE, 0x00, false, false, false, 1, 0, 0, .bool, 0, .any⟩,
  ⟨0xA040, 0xA040, 0x00, 0x00, .u8, .ro, 0xFE, 0x00, false, false, false, 0, 8, 0, .bool, 0, .any⟩,
  ⟨0xA040, 0xA040, 0x01, 0x01, .u8, .rw, 0xFE, 0x02, false, false, false, 1, 0, 0, .bool, 0, .any⟩,
  ⟨0xA040, 0xA040, 0x02, 0x02, .u8, .wo, 0x00, 0x02, false, false, false, 0, 0, 0, .bool, 0, (.oneOf [1])⟩,
  ⟨0xA040, 0xA040, 0x03, 0x03, .u8, .ro, 0xFE, 0x00, false, false, false, 1, 0, 0, .bool, 0, .any⟩,
  ⟨0xA040, 0xA040, 0x04, 0x04, .u8, .ro, 0xFE, 0x00, false, false, false, 1, 0, 0, .bool, 0, .any⟩,
  ⟨0xA040, 0xA040, 0x05, 0x05, .u20, .ro, 0xFE, 0x00, false, false, false, 1, 0, 0, .bool, 0, .any⟩,
  ⟨0xA040, 0xA040, 0x06, 0x06, .u32, .ro, 0xFE, 0x00, false, false, false, 1, 0, 0, .bool, 0, .any⟩,
  ⟨0xA040, 0xA040, 0x07, 0x07, .u8, .ro, 0xFE, 0x00, false, false, false, 1, 255, 0, .bool, 0, .any⟩,
  ⟨0xA040, 0xA040, 0x08, 0x08, .u20, .rw, 0xFE, 0x02, false, false, true, 1, 0, 0, .bool, 0, (.oneOf [0])⟩,
  ⟨0xA050, 0xA050, 0x00, 0x00, .u8, .ro, 0xFE, 0x00, false, false, false, 0, 3, 0, .bool, 0, .any⟩,
  ⟨0xA050, 0xA050, 0x01, 0x01, .u8, .ro, 0xFE, 0x00, false, false, false, 1, 1, 0, .bool, 0, .any⟩,
  ⟨0xA050, 0xA050, 0x02, 0x02, .u20, .rw, 0xFE, 0x02, false, false, true, 1, 0, 0, .bool, 0, (.oneOf [0])⟩,
  ⟨0xA050, 0xA050, 0x03, 0x03, .u32, .ro, 0xFE, 0x00, false, false, false, 0, 0, 0, .bool, 0, .any⟩]

/-- Rows of the A000h range. -/
def rowsA : List Row := rowsA_0

/-- Rows of the B000h range, piece 0. -/
def rowsB_0 : List Row := [
  ⟨0xB000, 0xB000, 0x00, 0x00, .u8, .ro, 0xFE, 0x00, false, false, false, 0, 14, 0, .bool, 0, .any⟩,
  ⟨0xB000, 0xB000, 0x01, 0x01, .u20, .ro, 0xFE, 0x00, false, false, false, 1, 1, 0, .bool, 0, .any⟩,
  ⟨0xB000, 0xB000, 0x02, 0x02, .u20, .ro, 0xFE, 0x00, false, false, false, 1, 0, 0, .bool, 0, .any⟩,
  ⟨0xB000, 0xB000, 0x03, 0x03, .u8, .ro, 0xFE, 0x00, false, false, false, 1, 0, 0, .bool, 0, .any⟩,
  ⟨0xB000, 0xB000, 0x04, 0x04, .u20, .ro, 0xFE, 0x00, false, false, false, 1, 0, 0, .bool, 0, .any⟩,
  ⟨0xB000, 0xB000, 0x05, 0x05, .u20, .ro, 0xFE, 0x00, false, false, false, 1, 0, 0, .bool, 0, .any⟩,
  ⟨0xB000, 0xB000, 0x06, 0x06, .q20_8, .ro, 0xFE, 0x00, false, false, false, 1, 268435455, 0, .bool, 0, .any⟩,
  ⟨0xB000, 0xB000, 0x07, 0x07, .u20, .ro, 0xFE, 0x00, false, false, false, 1, 0, 0, .bool, 0, .any⟩,
  ⟨0xB000, 0xB000, 0x08, 0x08, .u20, .ro, 0xFE, 0x00, false, false, false, 1, 0, 0, .bool, 0, .any⟩,
  ⟨0xB000, 0xB000, 0x09, 0x09, .u32, .ro, 0xFE, 0x00, false, false, false, 1, 0, 0, .bool, 0, .any⟩,
  ⟨0xB000, 0xB000, 0x0A, 0x0A, .i20, .ro, 0xFE, 0x00, false, false, false, 1, 0, 0, .bool, 0, .any⟩,
  ⟨0xB000, 0xB000, 0x0B, 0x0B, .u32, .ro, 0xFE, 0x00, false, false, false, 1, 0, 0, .bool, 0, .any⟩,
  ⟨0xB000, 0xB000, 0x0C, 0x0C, .u32, .ro, 0xFE, 0x00, false, false, false, 1, 0, 0, .bool, 0, .any⟩,
  ⟨0xB000, 0xB000, 0x0D, 0x0D, .u32, .ro, 0xFE, 0x00, false, false, false, 1, 0, 0, .bool, 0, .any⟩,
  ⟨0xB000, 0xB000, 0x0E, 0x0E, .u32, .ro, 0xFE, 0x00, false, false, false, 1, 0, 0, .bool, 0, .any⟩,
  ⟨0xB010, 0xB013, 0x00, 0x00, .u8, .ro, 0xFE, 0x00, false, false, false, 0, 5, 0, .bool, 0, .any⟩,
  ⟨0xB010, 0xB013, 0x01, 0x01, .u32, .ro, 0x42, 0x00, true, false, false, 1, 0, 0, .bool, 0, .any⟩,
  ⟨0xB010, 0xB013, 0x02, 0x02, .u32, .ro, 0x42, 0x00, true, false, false, 1, 0, 0, .bool, 0, .any⟩,
  ⟨0xB010, 0xB013, 0x03, 0x03, .u32, .ro, 0x42, 0x00, true, false, false, 1, 0, 0, .bool, 0, .any⟩,
  ⟨0xB010, 0xB013, 0x04, 0x04, .u32, .ro, 0x42, 0x00, true, false, false, 1, 0, 0, .bool, 0, .any⟩,
  ⟨0xB010, 0xB013, 0x05, 0x05, .u32, .ro, 0x42, 0x00, true, false, false, 1, 0, 0, .bool, 0, .any⟩]

/-- Rows of the B000h range. -/
def rowsB : List Row := rowsB_0

/-- The rows whose index lies in the same 4,096 as `idx`. -/
def rowsAt (idx : Nat) : List Row :=
  match idx / 0x1000 with
  | 0x0 => rows0
  | 0x1 => rows1
  | 0x2 => rows2
  | 0x3 => rows3
  | 0x4 => rows4
  | 0x5 => rows5
  | 0x6 => rows6
  | 0x7 => rows7
  | 0x8 => rows8
  | 0x9 => rows9
  | 0xA => rowsA
  | 0xB => rowsB
  | _ => []

/-- The row of an entry, if the dictionary defines it (R408). -/
def lookup (idx sub : Nat) : Option Row :=
  (rowsAt idx).find? fun r => decide (r.i0 ≤ idx ∧ idx ≤ r.i1 ∧ r.s0 ≤ sub ∧ sub ≤ r.s1)

end Sys2Proof.Machine
end

