-- ==== Sys2Proof/Machine/Crypto.lean ====
section
/-! DEFINITION. The hash and check functions the manual takes from published standards: SHA-256 (FIPS 180-4),
HMAC (FIPS 198-1) and the CRC-32 of IEEE 802.3. -/
namespace Sys2Proof.Machine

/-- A number of 256 bits as eight words of 32 bits, the most significant first. -/
def words32 (n : Nat) : List Nat := (List.range 8).map fun i => n / 2 ^ (32 * (7 - i)) % 2 ^ 32

/-- The constants of the 64 rounds of SHA-256, those of eight rounds to a number. -/
def shaConstants : List Nat := [
  0x428A2F9871374491B5C0FBCFE9B5DBA53956C25B59F111F1923F82A4AB1C5ED5,
  0xD807AA9812835B01243185BE550C7DC372BE5D7480DEB1FE9BDC06A7C19BF174,
  0xE49B69C1EFBE47860FC19DC6240CA1CC2DE92C6F4A7484AA5CB0A9DC76F988DA,
  0x983E5152A831C66DB00327C8BF597FC7C6E00BF3D5A7914706CA635114292967,
  0x27B70A852E1B21384D2C6DFC53380D13650A7354766A0ABB81C2C92E92722C85,
  0xA2BFE8A1A81A664BC24B8B70C76C51A3D192E819D6990624F40E3585106AA070,
  0x19A4C1161E376C082748774C34B0BCB5391C0CB34ED8AA4A5B9CCA4F682E6FF3,
  0x748F82EE78A5636F84C878148CC7020890BEFFFAA4506CEBBEF9A3F7C67178F2]

/-- The hash value before the first block. -/
def shaStart : Nat := 0x6A09E667BB67AE853C6EF372A54FF53A510E527F9B05688C1F83D9AB5BE0CD19

/-- The exclusive or of a 32-bit word turned right by each of some distances: the word is doubled, so that a turn is a shift. -/
def turned (ds : List Nat) (x : Nat) : Nat := ds.foldl (fun y d => y ^^^ (x * (2 ^ 32 + 1)) / 2 ^ d) 0 % 2 ^ 32

/-- The message schedule from a block's words, newest first, with `k` words to come: each is made of the words 2, 7, 15 and 16 places
before it. -/
def shaSchedule : (k : Nat) → List Nat → List Nat
  | 0, w => w.reverse
  | k + 1, w =>
    let back := fun i => w.getD (i - 1) 0
    let mixed := back 16 + back 7 + (turned [7, 18] (back 15) ^^^ back 15 / 2 ^ 3) + (turned [17, 19] (back 2) ^^^ back 2 / 2 ^ 10)
    shaSchedule k (mixed % 2 ^ 32 :: w)

/-- The working variables between rounds: the last four values of each of the two that a round makes anew, newest first. -/
structure ShaWork where
  one : List Nat
  two : List Nat

/-- A round: `kw` is the sum of its constant and its schedule word. -/
def ShaWork.round (x : ShaWork) (kw : Nat) : ShaWork :=
  let u := fun i => x.one.getD i 0
  let v := fun i => x.two.getD i 0
  let chosen := v 2 ^^^ v 0 &&& (v 1 ^^^ v 2)
  let most := u 0 &&& (u 1 ||| u 2) ||| u 1 &&& u 2
  let sum := kw + v 3 + turned [6, 11, 25] (v 0) + chosen
  { one := (sum + turned [2, 13, 22] (u 0) + most) % 2 ^ 32 :: x.one.take 3, two := (sum + u 3) % 2 ^ 32 :: x.two.take 3 }

/-- The hash value after a block of sixteen words, from the value before it. -/
def shaBlock (h ws : List Nat) : List Nat :=
  let kws := List.zipWith (· + ·) (shaConstants.flatMap words32) (shaSchedule 48 ws.reverse)
  let x := kws.foldl ShaWork.round { one := h.take 4, two := h.drop 4 }
  List.zipWith (fun a b => (a + b) % 2 ^ 32) h (x.one ++ x.two)

/-- Hash `n` blocks of 64 octets. -/
def shaBlocks : (n : Nat) → (os h : List Nat) → List Nat
  | 0, _, h => h
  | n + 1, os, h => shaBlocks n (os.drop 64) (shaBlock h ((List.range 16).map fun i => ofOctets ((os.drop (4 * i)).take 4)))

/-- The padding of FIPS 180-4: a one bit, zeros, and the length in bits. -/
def shaPad (os : List Nat) : List Nat :=
  let n := os.length
  os ++ [0x80] ++ List.replicate ((119 - n % 64) % 64) 0 ++ toOctets 8 (8 * n)

/-- SHA-256 of a list of octets, as 32 octets (FIPS 180-4). -/
def sha256 (os : List Nat) : List Nat :=
  let p := shaPad os
  (shaBlocks (p.length / 64) p (words32 shaStart)).flatMap (toOctets 4)

/-- HMAC-SHA-256 of a message under a key of at most 64 octets (FIPS 198-1). -/
def hmac (key msg : List Nat) : List Nat :=
  let k := key ++ List.replicate (64 - key.length) 0
  sha256 (k.map (· ^^^ 0x5C) ++ sha256 (k.map (· ^^^ 0x36) ++ msg))

/-- One bit of the reflected CRC-32. -/
def crcBit (c : Nat) : Nat := if c % 2 = 1 then (c / 2) ^^^ 0xEDB88320 else c / 2

/-- `k` bits of the reflected CRC-32. -/
def crcBits : Nat → Nat → Nat
  | 0, c => c
  | k + 1, c => crcBits k (crcBit c)

/-- CRC-32 of IEEE 802.3 over octets. -/
def crc32 (os : List Nat) : Nat :=
  (os.foldl (fun c o => crcBits 8 (c ^^^ (o % 256))) 0xFFFFFFFF) ^^^ 0xFFFFFFFF

/-- Words as R428 hashes them: each as three octets, most significant first. -/
def wordOctets (ws : List Nat) : List Nat := ws.flatMap (toOctets 3)

end Sys2Proof.Machine
end

