-- ==== Sys2Proof/Machine/Flags.lean ====
section
/-! DEFINITION. Counters, status codes and response codes (R13, R14, R415). -/
namespace Sys2Proof.Machine

/-- A counter's next value: it stops at FFFFFh and does not wrap (R13). -/
def satInc (n : Nat) : Nat := if n < 0xFFFFF then n + 1 else 0xFFFFF

/-- A counter's value after `k` more counts (R13). -/
def satAdd (n k : Nat) : Nat := min (n + k) 0xFFFFF

/-- Operation status codes of R14. -/
inductive Status where
  | idle | busy | done | aborted | failed | rejected | deferred
  deriving DecidableEq, Repr, Inhabited

/-- The code of a status (R14). -/
def Status.code : Status → Nat
  | .idle => 0
  | .busy => 1
  | .done => 2
  | .aborted => 3
  | .failed => 4
  | .rejected => 5
  | .deferred => 6

/-- The status of a code (R14); no other values occur. -/
def statusOf (n : Nat) : Status :=
  if n = 1 then .busy else if n = 2 then .done else if n = 3 then .aborted else if n = 4 then .failed
  else if n = 5 then .rejected else if n = 6 then .deferred else .idle

/-- Response codes of R415. -/
inductive Resp where
  | ok | noEntry | denied | readOnly | writeOnly | badValue | rule | limit | busy | journal | transfer
  | schedule | noBroadcast | role
  deriving DecidableEq, Repr, Inhabited

/-- The number of a response code (R415). -/
def Resp.code : Resp → Nat
  | .ok => 0x00
  | .noEntry => 0x01
  | .denied => 0x02
  | .readOnly => 0x03
  | .writeOnly => 0x04
  | .badValue => 0x05
  | .rule => 0x06
  | .limit => 0x07
  | .busy => 0x08
  | .journal => 0x09
  | .transfer => 0x0A
  | .schedule => 0x0B
  | .noBroadcast => 0x0C
  | .role => 0x0D

end Sys2Proof.Machine
end

