-- ==== Sys2Proof/Machine/Table.lean ====
section
/-! DEFINITION. Sparse tables in one canonical form: keys strictly rising, and no value equal to the default an
unlisted key reads as. -/
namespace Sys2Proof.Machine

/-- The value at `k`, or the default `d` where nothing is listed. -/
def tget {α : Type} (d : α) : Table α → Nat → α
  | [], _ => d
  | (j, v) :: t, k => if k = j then v else tget d t k

/-- Take `k` out of a table. -/
def tdel {α : Type} : Table α → Nat → Table α
  | [], _ => []
  | (j, v) :: t, k => if k = j then tdel t k else (j, v) :: tdel t k

/-- Put `v` at `k`, whether or not it is the default. -/
def tins {α : Type} : Table α → Nat → α → Table α
  | [], k, v => [(k, v)]
  | (j, w) :: t, k, v => if k = j then (k, v) :: t else if k < j then (k, v) :: (j, w) :: t else (j, w) :: tins t k v

/-- Put `v` at `k`: writing the default takes the entry out, so equal tables are equal lists. -/
def tput {α : Type} [DecidableEq α] (d : α) (t : Table α) (k : Nat) (v : α) : Table α :=
  if v = d then tdel t k else tins t k v

/-- Change every value listed. -/
def tmap {α : Type} [DecidableEq α] (d : α) (f : α → α) : Table α → Table α
  | [] => []
  | (j, v) :: t => if f v = d then tmap d f t else (j, f v) :: tmap d f t

/-- Keys strictly rising, all of them above `lo`. -/
def tasc {α : Type} : Option Nat → Table α → Bool
  | _, [] => true
  | none, (j, _) :: t => tasc (some j) t
  | some lo, (j, _) :: t => decide (lo < j) && tasc (some j) t

/-- The canonical form: keys strictly rising and no default listed. -/
def twf {α : Type} [DecidableEq α] (d : α) (t : Table α) : Bool :=
  tasc none t && t.all fun kv => decide (kv.2 ≠ d)

end Sys2Proof.Machine
end

