-- ==== Sys2Proof/Machine/State.lean ====
section
/-! DEFINITION. The state of the part, all of it plain data: the clock, the dictionary, the structures each chapter
gives the part, and the queue of waiting commands. Every dictionary entry lives in `Part.dict` (listed where it
differs from its default), or is read from the structure that holds it. -/
namespace Sys2Proof.Machine

/-! ### The clock -/

/-- The time counter of R333 and the ring-period count. -/
structure Clock where
  /-- System time in units of 2^-32 tk: the 80-bit count and the 32-bit fraction. -/
  fx : Nat := 0
  /-- Ring periods since the counter started; eight make a coarse cycle (R104). -/
  rp : Nat := 0
  /-- The signed rate word a. -/
  rate : Int := 0
  /-- base(c) of the latest coarse cycles, the current one first, at most 16 (R104, R106). -/
  bases : List Nat := [0]
  /-- The last frame boundary reached (R563); 0 after reset, which is no boundary. -/
  lastB : Nat := 0
  /-- A boundary has been reached since the start of the counter. -/
  anyB : Bool := false
  /-- Steps applied since reset: what was captured in one era lies on one side of every step (R138). -/
  era : Nat := 0
  /-- The step log 6002h, newest first: time, size and cause of the last 8 steps (R341). -/
  steps : List (Nat × Int × Nat) := []
  deriving DecidableEq, Repr, Inhabited

/-- A span of system time, open at its end while it lasts. -/
structure Span where
  start : Nat
  stop : Option Nat := none
  deriving DecidableEq, Repr, Inhabited

/-! ### The handshake core -/

/-- An island FIFO: its entries, oldest first, the unit and tag last read (R61, R64), its write and read pointers, each
one bit wider than its depth needs, and each pointer in Gray code as the other side last saw it (R62). -/
structure Fifo where
  q : List (Unit21 × Tag) := []
  last : Unit21 × Tag := (0, .normal)
  wr : Nat := 0
  rd : Nat := 0
  wrSeen : Nat := 0
  rdSeen : Nat := 0
  deriving DecidableEq, Repr, Inhabited

/-- A fabric transfer: the path granted, what the receiver holds after it, and its answers, ACK as true (R43, R47,
R48). -/
structure Xfer where
  src : Block
  unit : Unit21 := 0
  tag : Tag := .normal
  answers : List Bool := []
  deriving DecidableEq, Repr, Inhabited

/-- The kinds of request a commit arbiter takes (R70). -/
inductive ArbKind where
  | completion | failure (cause : Nat) | abort
  deriving DecidableEq, Repr, Inhabited

/-- A request pending at a commit arbiter; for an abort, how many writes have raised it and the writers that wait for
its acknowledgement (R72). -/
structure ArbReq where
  kind : ArbKind
  count : Nat := 1
  rqs : List Rq := []
  deriving DecidableEq, Repr, Inhabited

/-- The fabric, the islands and the commit arbiters. -/
structure Fabric where
  /-- Bit i: the clock of island Ii is stopped (R60). -/
  stopped : Nat := 0
  /-- Island FIFOs, keyed by `FifoId.key`. -/
  fifos : Table Fifo := []
  /-- The transfers of the last presentations at a receiver, in the order of their grants (R45). -/
  xfers : List Xfer := []
  /-- The path each receiver granted last: block code of the receiver to that of the sender (R45). -/
  turns : Table Nat := []
  /-- Requests pending at commit arbiters, in order of arrival. -/
  arb : List (OpId × ArbReq) := []
  deriving DecidableEq, Repr, Inhabited

/-! ### The front end -/

/-- A recorded edge on its way from the comparator to the shutter stage (R88, R124). -/
structure Edge where
  n : Nat
  t : Nat
  lead : Bool
  stamp : Nat
  mrg : Bool := false
  near : Bool := false
  tp : Bool := false
  deriving DecidableEq, Repr, Inhabited

/-- An edge that the latch array has captured: its stamp and direction, and whether its comparator recorded then (R105,
R109). -/
structure RawEdge where
  stamp : Nat
  lead : Bool
  live : Bool := true
  deriving DecidableEq, Repr, Inhabited

/-- An open merge window (R85). -/
structure Win where
  lead : Nat
  absorbed : Nat := 0
  firstTrail : Option Nat := none
  lastTrail : Option Nat := none
  deriving DecidableEq, Repr, Inhabited

/-- One comparator: its output, blanking, merge window, recorded edges and shutter. -/
structure Comp where
  /-- The output is high after every edge judged so far. -/
  out : Bool := false
  /-- Edges captured whose stamps lie ahead of the clock, oldest first: an edge occurs at its stamp (R109). -/
  raw : List RawEdge := []
  /-- The boundary at which it stops recording, until an edge stamped at or after it is judged; true where a closed map
  stops it (R84). -/
  stopAt : Option (Nat × Bool) := none
  /-- Blanked from one system time to another (R83). -/
  blank : Option (Nat × Nat) := none
  /-- The trailing edge that ends the current pulse is discarded (R84). -/
  skip : Bool := false
  win : Option Win := none
  /-- A recorded pulse whose trailing edge is still to come: its MRG and NEAR (R85). -/
  await : Option (Bool × Bool) := none
  /-- Recorded edges that have not yet reached the edge buffer, oldest first. -/
  pend : List Edge := []
  /-- The edge buffer, 8 edges, oldest first (R88). -/
  buf : List Edge := []
  /-- The leading edge of the pulse in progress was dropped (R88). -/
  dropping : Bool := false
  /-- A pulse was lost immediately before (R86). -/
  lost : Bool := false
  /-- MRG as recorded for the pulse whose leading edge entered last. -/
  pulseMrg : Bool := false
  /-- The shutter: closed now (R93, R96). -/
  closed : Bool := false
  /-- Closed intervals, newest first: close time and, where it is set, the reopening time (R94). -/
  spans : List Span := []
  /-- Leading records counted per window start (R92). -/
  counts : Table Nat := []
  /-- The stamp of the leading record of the pulse in progress, as the shutter stage has seen it (R84). -/
  stageLead : Option Nat := none
  /-- Leading edges stamped before this are absorbed: the rest of a merge window that a manual closure cut (R84, R85). -/
  mute : Nat := 0
  deriving DecidableEq, Repr, Inhabited

/-- What a group's stream carries to the shutter stage: a record or a time mark (R89). -/
inductive Item where
  | edge (e : Edge) | mark (time : Nat)
  deriving DecidableEq, Repr, Inhabited

/-- A bin-edge table: the active one, the one before it and the boundary between them (R113). -/
structure BinTab where
  /-- The active table, empty for the default e[r] = 256 r. -/
  edges : List Nat := []
  prev : List Nat := []
  start : Nat := 0
  deriving DecidableEq, Repr, Inhabited

/-- One input group's converter, collector, derandomiser and test-pulse generator. -/
structure Grp where
  lfsr : Nat := 0xACE1
  tab : BinTab := {}
  /-- Island FIFO and derandomiser, oldest first (R91). -/
  stream : List Item := []
  /-- The latest time passed to the shutter stage. -/
  passed : Nat := 0
  /-- Spans of test pulses made: start and end of the TP span and the pulsed inputs (R99). -/
  tpSpans : List (Nat × Nat × Nat) := []
  /-- The boundary at which the generator's settings took effect (R98). -/
  genFrom : Nat := 0
  /-- The start of the last pulse made. -/
  genLast : Option Nat := none
  /-- The window the shutter counts in (R92). -/
  window : Nat := 0
  deriving DecidableEq, Repr, Inhabited

/-- A marker waiting to be merged into the stream (R91, R95). -/
structure Marker where
  n : Nat
  t : Nat
  close : Bool
  stamp : Nat
  deriving DecidableEq, Repr, Inhabited

/-- What a boundary asks of the shutter stage: groups whose shutter it disables, and closed maps that take effect at it,
keyed 4g + t (R96). -/
structure ShutAct where
  at_ : Nat
  off : List Nat := []
  maps : List (Nat × Nat) := []
  deriving DecidableEq, Repr, Inhabited

/-- The front end: comparators keyed 4n + t, groups keyed by number, the shutter stage and its histories. -/
structure Front where
  comps : Table Comp := []
  grps : Table Grp := []
  markers : List Marker := []
  /-- The stamp of the last record released. -/
  released : Nat := 0
  /-- Closed maps committed in this frame, the last write of each, waiting for the boundary: key 4g + t (R96). -/
  maps : Table Nat := []
  /-- Boundaries whose shutter settings the stage has not yet reached, oldest first (R96). -/
  acts : List ShutAct := []
  /-- Losses under R88: stamp and comparator. -/
  lossLog : List (Nat × Nat) := []
  /-- Discards in blanking under R83: stamp and comparator. -/
  blankLog : List (Nat × Nat) := []
  /-- Spans in which records carry REFL, newest first (R119, R120). -/
  refl : List Span := [{ start := 0 }]
  /-- Spans in which the counter was not locked, newest first (R341). -/
  tunl : List Span := [{ start := 0 }]
  /-- Spans of default or stale tables per group, newest first (R127). -/
  uncal : Table (List Span) := []
  deriving DecidableEq, Repr, Inhabited

/-! ### Calibration, REF and the auxiliary latch -/

/-- The calibration engine: one calibration runs per part, in the order of requests (R114). -/
structure Calib where
  /-- Units BUSY or DEFERRED, in order; the first may be BUSY. -/
  queue : List CalUnit := []
  busy : Bool := false
  /-- Counts of the 128 raw codes (R111). -/
  hist : Table Nat := []
  hits : Nat := 0
  /-- The exponent n in force for this calibration. -/
  expo : Nat := 20
  /-- The table accepted, waiting for the boundary, and the boundary at which completion was raised (R113). -/
  accepted : Option (List Nat) := none
  commitB : Nat := 0
  /-- The table of GA, and of GQ0 to GQ6 keyed by quad. -/
  aux : BinTab := {}
  quads : Table BinTab := []
  /-- When the periodic requests are due, in ring periods (R116). -/
  autoDue : Option Nat := none
  /-- GA and each GQ were requested after the first lock (R132, R343). -/
  auxDone : Bool := false
  deriving DecidableEq, Repr, Inhabited

/-- The REF presence detector and the ring's reference (R118, R142 to R144). -/
structure RefDet where
  /-- The last good edge, or while missing the last rising edge. -/
  last : Option Nat := none
  /-- Consecutive edges in step while missing. -/
  run : Nat := 0
  /-- The ring has relocked and REFL ends at the next boundary (R120). -/
  ending : Bool := false
  /-- Spans in which 20D0h.02 read other than 0, in ring periods, newest first (R385). -/
  osc : List Span := [{ start := 0 }]
  deriving DecidableEq, Repr, Inhabited

/-! ### The interval unit -/

/-- A stamped source event (R131): its flags of R138, and the era of its capture. -/
structure IvEvent where
  stamp : Nat
  flags : Nat := 0
  era : Nat := 0
  deriving DecidableEq, Repr, Inhabited

/-- The interval unit: one measurement (R133 to R139). -/
structure Interval where
  /-- The re-arm point, and whether it is the arm time A. -/
  rearm : Nat := 0
  first : Bool := true
  start : Option IvEvent := none
  /-- Events on their way to the unit, with their source codes (R136). -/
  inbox : List (Nat × IvEvent) := []
  /-- Start events not yet taken, in stamp order. -/
  starts : List IvEvent := []
  /-- Stop events not yet judged, in stamp order. -/
  stops : List IvEvent := []
  stop : Option IvEvent := none
  n : Nat := 0
  s1 : Nat := 0
  s2 : Nat := 0
  mn : Nat := 0
  mx : Nat := 0
  flags : Nat := 0
  near : Nat := 0
  flagged : Nat := 0
  /-- Settings at acceptance: N, D, start source, stop source. -/
  reps : Nat := 0
  adv : Nat := 0
  src : Nat := 0
  dst : Nat := 0
  /-- Next event of compares 0 and 1 (R131). -/
  cmp0 : Option Nat := none
  cmp1 : Option Nat := none
  /-- The first boundary since A at which a table used by a source was committed (CAL of R138). -/
  cal : Option Nat := none
  /-- The latest stamp used by the repetitions completed (REFL of R138). -/
  top : Nat := 0
  deriving DecidableEq, Repr, Inhabited

/-! ### Triggering and acquisition -/

/-- A record as the engine sees it: identity, edge, flag bits [28:23], full stamp, and its two words' poison. -/
structure Rec where
  n : Nat
  t : Nat
  lead : Bool
  flags : Nat
  stamp : Nat
  pois0 : Bool := false
  pois1 : Bool := false
  /-- Where its first word stands in a latency buffer, by address (R156). -/
  addr : Nat := 0
  deriving DecidableEq, Repr, Inhabited

/-- A fragment that waits for its commit: view, mode field, event id and its words (R126, R127, R169). -/
structure Frag where
  view : Nat
  mode : Nat
  id : Nat
  words : List FWord
  /-- The cells that hold it, in a Leaf (R150). -/
  cells : List Nat := []
  deriving DecidableEq, Repr, Inhabited

/-- One input's summary in the frames so far (R153). -/
structure SumIn where
  high : Nat := 0
  count : Nat := 0
  minW : Nat := 0x3FFFF
  maxW : Nat := 0
  deriving DecidableEq, Repr, Inhabited

/-- A streaming or summary fragment being built for one frame (R149). -/
structure OpenFrag where
  frame : Nat
  /-- The view's mode in the frame: 1 streaming, 3 summary. -/
  mode : Nat
  epoch : Nat
  /-- Body words, oldest first; for a summary view its marker items. -/
  body : List FWord := []
  /-- Some record carries RPL. -/
  rpl : Bool := false
  /-- In a Leaf, the cells of its words so far; the queue could not take a word of it, and it is discarded (R150). -/
  cells : List Nat := []
  lost : Bool := false
  /-- The summary interval ends with this frame (R151, R154). -/
  last : Bool := false
  /-- What the frame adds to the summaries, by input. -/
  sums : Table SumIn := []
  /-- A forward step ended the interval at this time (R338), and what came after it. -/
  cut : Option Nat := none
  after : Table SumIn := []
  deriving DecidableEq, Repr, Inhabited

/-- A capture scheduled or running (R167): its trigger number and time, and once it is BUSY its window and the number
of records the buffer held of it. -/
structure Cap where
  num : Nat
  trig : Nat
  w0 : Nat := 0
  stop : Nat := 0
  count : Nat := 0
  deriving DecidableEq, Repr, Inhabited

/-- One view's engine. -/
structure ViewEng where
  frags : List OpenFrag := []
  /-- The boundary at which the view last entered summary mode (R153). -/
  sumFrom : Nat := 0
  /-- The summaries of the interval in progress, by input (R153). -/
  sums : Table SumIn := []
  /-- Stamps of leading records passed in summary mode whose pulse is in progress, key 4n + t, for widths (R153). -/
  leads : Table (Option Nat) := []
  /-- The latency buffer, oldest first (R156); its words stand in its region. -/
  lat : List Rec := []
  /-- The place in the ring, in records, that the next record takes. -/
  latAt : Nat := 0
  /-- Records that reached the view in the window `rateMs` of R157, in ms since the counter started, and in the one before
  it; the last window end reported. -/
  rate : Nat := 0
  ratePrev : Nat := 0
  rateMs : Nat := 0
  rateEnd : Nat := 0
  /-- Captures pending, oldest first; the first may be BUSY. -/
  caps : List Cap := []
  capBusy : Bool := false
  /-- The fragment of the BUSY capture, cut and waiting for its commit (R169). -/
  cut : Option Frag := none
  lastNum : Option Nat := none
  /-- When the last accept of the view was (R162). -/
  lastAccept : Option Nat := none
  deriving DecidableEq, Repr, Inhabited

/-- A trigger table in effect: its image, the terms' stored stamps (key 256 j + input) and the outputs'
hold-off and prescale states (R158, R159, R177). -/
structure TrigTab where
  /-- The 573 words; empty for the ROM default table. -/
  image : List Nat := []
  stamps : Table (Option Nat) := []
  lastFire : Table (Option Nat) := []
  presc : Table Nat := []
  deriving DecidableEq, Repr, Inhabited

/-- A trigger request (R159, R308). -/
structure TrigReq where
  time : Nat
  outNo : Nat
  mask : Nat
  addr : Nat
  deriving DecidableEq, Repr, Inhabited

/-- A trigger command (R162, R309). -/
structure TrigCmd where
  time : Nat
  num : Nat
  mask : Nat
  outNo : Nat
  addr : Nat
  deriving DecidableEq, Repr, Inhabited

/-- Where an installation through the transom stands (R492, R493). -/
inductive TransomStage where
  | none | committed | writing | readBack | window
  deriving DecidableEq, Repr, Inhabited

/-- The transom (R491 to R495): the image being installed or confirmed, uncorrectable units of the region and requests
of the outputs as its window began, and the two copies of the trigger-table store, empty where there is none. -/
structure Transom where
  stage : TransomStage := .none
  image : List Nat := []
  errs : Nat := 0
  sent : List Nat := []
  copy0 : List Nat := []
  copy1 : List Nat := []
  deriving DecidableEq, Repr, Inhabited

/-- The trigger and acquisition engine. -/
structure Acq where
  views : Table ViewEng := []
  tab : TrigTab := {}
  /-- The table before the last change, and the boundary of the change (R177). -/
  oldTab : Option TrigTab := none
  tabFrom : Nat := 0
  /-- Front-end epochs at boundaries, newest first: boundary and epoch, where it changed (R126, R169). -/
  epochs : List (Nat × Nat) := []
  /-- Values of frame-bound entries before the boundary at which they changed, newest first (R82, R147). -/
  past : List (Nat × Table Nat) := []
  /-- The table that takes effect at the next boundary; empty for the ROM default table (R492, R494). -/
  pendTab : Option (List Nat) := none
  trans : Transom := {}
  deriving DecidableEq, Repr, Inhabited

/-! ### The dictionary service -/

/-- An audit record (R428). -/
structure AuditRec where
  num : Nat
  time : Nat
  cls : Nat
  slot : Nat
  action : Nat
  path : Nat
  used : Nat
  idx : Nat
  sub : Nat
  len : Nat
  seq : Nat
  oldHash : Nat
  newHash : Nat
  deriving DecidableEq, Repr, Inhabited

/-- What a dictionary request asks of an entry (R464); an OPEN waits with them (R462), its slot in place of an index. -/
inductive ReqOp where
  | read | write (v : Nat) | describe
  | readSeg (off n : Nat) | writeBegin (total : Nat) | writeSeg (off : Nat) (ws : List Nat)
  | schedule (time v : Nat) | close | openSlot (nonce : List Nat) (o : Origin)
  deriving DecidableEq, Repr, Inhabited

/-- A dictionary request waiting for the management controller (R415). -/
structure Req where
  rq : Rq
  idx : Nat
  sub : Nat
  op : ReqOp
  /-- Ring period of its receipt (1400h.06). -/
  since : Nat := 0
  deriving DecidableEq, Repr, Inhabited

/-- The answer to a request: its response code and the words it returns. -/
structure Answer where
  rq : Rq
  idx : Nat
  sub : Nat
  code : Resp
  words : List Nat := []
  deriving DecidableEq, Repr, Inhabited

/-- A Persistent or WL write staged in the journal, its commit mark not yet programmed (R421); with a commit time it is journalled
as pending (R437). -/
structure Staged where
  rq : Rq
  idx : Nat
  sub : Nat
  v : Nat
  action : Nat
  since : Nat
  time : Option Nat := none
  deriving DecidableEq, Repr, Inhabited

/-- A session's DOMAIN write transfer (R431 to R433). -/
structure Transfer where
  rq : Rq
  idx : Nat
  sub : Nat
  total : Nat
  words : List Nat := []
  /-- Ring period of the last segment. -/
  last : Nat
  /-- Every word has arrived. -/
  full : Bool := false
  deriving DecidableEq, Repr, Inhabited

/-- A session's read snapshot (R431). -/
structure Snapshot where
  idx : Nat
  sub : Nat
  words : List Nat
  last : Nat
  deriving DecidableEq, Repr, Inhabited

/-- A scheduled write pending (R437). -/
structure Scheduled where
  rq : Rq
  idx : Nat
  sub : Nat
  v : Nat
  time : Nat
  deriving DecidableEq, Repr, Inhabited

/-- A crown report (R438): its part's address and tier, its time, and its values in index and sub-index order. -/
structure CrownRep where
  addr : Nat
  tier : Nat
  time : Nat
  vals : List Nat
  deriving DecidableEq, Repr, Inhabited

/-- A session (R461, R466): the origin of its OPEN or of the request in processing, its nonces and session key, when its
challenge was sent or its last request taken, the sequence and operation in processing, and the stored response, kind to
check. Its state, slot, class and last sequence are in 1320h + i. -/
structure Session where
  origin : Origin := {}
  nh : List Nat := []
  np : List Nat := []
  key : List Nat := []
  since : Nat := 0
  busy : Option Nat := none
  op : Nat := 0
  last : List Nat := []
  deriving DecidableEq, Repr, Inhabited

/-- An entry of the relay table (R454): what the request named and where it came from, the serial number where it is
serial-addressed, the child it went to and by which path, and when. -/
structure Relay where
  origin : Origin
  serial : Nat := 0
  port : Nat
  bus : Bool
  since : Nat
  deriving DecidableEq, Repr, Inhabited

/-- A bus position as its master polls it (R451): the last poll, poll timeouts in a row, and MORE in its last answer. -/
structure PollPos where
  last : Option Nat := none
  miss : Nat := 0
  more : Bool := false
  deriving DecidableEq, Repr, Inhabited

/-- The POLL that waits for its answer: the position, or the serial number where it names one, and when it ended. -/
structure Polled where
  pos : Option Nat
  serial : Nat := 0
  since : Nat
  deriving DecidableEq, Repr, Inhabited

/-- A broadcast summary being gathered (R436): its broadcast, the part's own outcome once known, the counts so far, the
first refusal as address, tier and code, the ports awaited, and when the broadcast was relayed. -/
structure Gather where
  slot : Nat
  stamp : Nat
  origin : Origin
  own : Option Nat := none
  committed : Nat := 0
  refused : Nat := 0
  silent : Nat := 0
  first : Option (Nat × Nat × Nat) := none
  wait : List Nat := []
  since : Nat
  deriving DecidableEq, Repr, Inhabited

/-- The service bus (R444 to R456), frames held as octets from the kind to the check: the upward queue, the last frames
sent on the upstream and the downstream segment, relays, polling, frames being assembled in band by link, and
summaries being gathered. -/
structure Bus where
  up : List (List Nat) := []
  sentUp : List Nat := []
  sentDown : List Nat := []
  relays : List Relay := []
  polls : Table PollPos := []
  polled : Option Polled := none
  /-- The position polled last among the pressing ones. -/
  turn : Nat := 0
  /-- The last POLL went to a position that was not pressing. -/
  idled : Bool := false
  asm : Table (List Nat) := []
  gathers : List Gather := []
  deriving DecidableEq, Repr, Inhabited

/-- The journal, the audit ring, transfers, scheduled writes, crown reports and sessions. -/
structure Svc where
  staged : Option Staged := none
  waiting : List Req := []
  /-- Consecutive failed journal writes (R422). -/
  fails : Nat := 0
  /-- The values the journal holds of Persistent entries with their layout versions, the newest first (R420, R489). -/
  journal : Table (List (Nat × Nat)) := []
  /-- The audit ring, newest first (R429), and the next record number. -/
  audit : List AuditRec := []
  nextRec : Nat := 1
  answer : Option Answer := none
  /-- Transfers and snapshots by session, 8 for a request without one; window starts (1401h.01), and the instances of
  1420h keyed 8 i + sub-index. -/
  transfers : Table (Option Transfer) := []
  snaps : Table (Option Snapshot) := []
  windows : Table Nat := []
  inst : Table Nat := []
  scheduled : List Scheduled := []
  /-- Children's reports by position port, and the ring period from which a child that has not reported is counted
  (R439). -/
  crowns : Table (Option CrownRep) := []
  crownFrom : Table (Option Nat) := []
  /-- The last crown report formed (R438), when that was, and when health was last evaluated (R442). -/
  report : Option CrownRep := none
  reportAt : Nat := 0
  healthAt : Nat := 0
  /-- When conditions 3, 5, 7 and 8 of R442 last held, in ring periods. -/
  lastUnlocked : Option Nat := none
  lastUncorr : Option Nat := none
  lastService : Option Nat := none
  lastRetrain : Option Nat := none
  /-- An uncorrectable unit was found in region 0 since reset (condition 6). -/
  region0Bad : Bool := false
  sessions : Table Session := []
  /-- Failed proofs against each slot in the last 10 s, newest first, and the lockout in force (R463), in ring
  periods. -/
  badProofs : Table (List Nat) := []
  locked : Table (Option Nat) := []
  bus : Bus := {}
  deriving DecidableEq, Repr, Inhabited

/-! ### Power and reset -/

/-- Where the part stands: in reset, out of it, or handling a power failure (R499, R507). -/
inductive Phase where
  | inReset | running | powerFail
  deriving DecidableEq, Repr, Inhabited

/-- The role of R1. -/
inductive Role where
  | leaf | bough
  deriving DecidableEq, Repr, Inhabited

/-- Supplies, straps and the role. -/
structure Power where
  phase : Phase := .running
  role : Role := .leaf
  /-- The grove-root entry and the position override as the last reset found them (R25). -/
  root : Bool := false
  override : Nat := 16
  /-- BYPASS_N is low (R504). -/
  bypass : Bool := false
  /-- BOOT_SAFE as last sampled (R503). -/
  safe : Bool := false
  /-- Supplies that are not good: VCORE, VANA, VLANE, VLT, VIO, VHK from bit 0 (R498). -/
  bad : Nat := 0
  /-- When power-fail handling began, in ring periods. -/
  failAt : Nat := 0
  /-- A WL change counted in OTP whose value was not programmed (R425). -/
  wlLost : Option (Nat × Nat) := none
  /-- LREF has been lost since the part last left reset (R500). -/
  lrefLost : Bool := false
  /-- The part is of a lot shipped with its lot's reports: ordering code ULR256-H-BL (R18, R19). -/
  lot : Bool := false
  /-- The boundary-scan instruction in effect (R525). -/
  jtag : Nat := 1
  /-- The boundary register: the shift stage of each cell, in the order of `scanPins`, and its update stage (R525, R527); and the
  bits that the last scan shifted out at TDO. -/
  scan : List Bool := List.replicate 74 false
  hold : List Bool := List.replicate 74 false
  tdo : List Bool := []
  deriving DecidableEq, Repr, Inhabited

/-! ### Firmware (R473 to R490) -/

/-- What a slot of the flash holds: nothing, the image programmed at manufacture, or an image by its octets. -/
inductive Image where
  | empty | factory | octets (os : List Nat)
  deriving DecidableEq, Repr, Inhabited

/-- The rest of a Caric command in progress (R479): base offset and octets left, octets left of the stream, or octets
left and their value. -/
inductive Rest where
  | none | copy (off n : Nat) | add (n : Nat) | run (n v : Nat)
  deriving DecidableEq, Repr, Inhabited

/-- A rebuild: whether a Vendor session asked for it, the stream offset, the rest of the command in progress, the octets
programmed, and whether END has been reached (R479, R482). -/
structure Rebuild where
  vendor : Bool
  pos : Nat := 64
  rest : Rest := .none
  out : List Nat := []
  ended : Bool := false
  deriving DecidableEq, Repr, Inhabited

/-- The rebuild checkpoint (R483): digest of the staged delta, stream and output offset, and the rest of the command. -/
structure Checkpoint where
  digest : List Nat
  pos : Nat
  out : Nat
  rest : Rest
  ended : Bool
  deriving DecidableEq, Repr, Inhabited

/-- Firmware: slots A and B, the staged octets, the sequence of the directory copy in force (R475), the rebuild and its
checkpoint, whether a trial runs, and its links and times. Slot states, the last confirmed slot and the trial status are in 9000h to
9002h. -/
structure Upd where
  slotA : Image := .factory
  slotB : Image := .empty
  staged : List Nat := []
  dirSeq : Nat := 1
  rebuild : Option Rebuild := none
  check : Option Checkpoint := none
  /-- Links that were in SERVICE when the trial was armed, when its firmware started, and since when the conditions of
  R488 have held, in ring periods. -/
  trial : Bool := false
  armed : List Nat := []
  trialAt : Nat := 0
  okFrom : Nat := 0
  deriving DecidableEq, Repr, Inhabited

/-! ### Lane tests (R517 to R520) -/

/-- A lane test that is BUSY: when it began, in ring periods, and, while its checker is locked, the bits its register
holds and which of the last 1,023 bits mismatched, newest first. -/
structure LaneTest where
  since : Nat := 0
  reg : List Bool := []
  hist : List Bool := []
  deriving DecidableEq, Repr, Inhabited


/-! ### Event memory -/

/-- A word of event memory as stored (R241, R250): the code it was written under, the data written, whether its unit is in
poison form, and which of its 27 stored bits have been upset since: data bits [19:0] and check bits [26:20]. With the other
word of its unit these give the stored data and check bits (`storedBits`). -/
structure MWord where
  code : Nat := 1
  data : Word := 0
  poison : Bool := false
  flips : Nat := 0
  deriving DecidableEq, Repr, Inhabited

/-- Cells a fill has written with zeros: a region's geometry and code, the banks out of service then, and the image whose body was
loaded over the zeros of region 0 (R249, R484). -/
structure Area where
  b0 : Nat
  nb : Nat
  r0 : Nat
  n : Nat
  code : Nat := 1
  skip : List Nat := []
  body : Image := .empty
  deriving DecidableEq, Repr, Inhabited

/-- A record of the error log (R257). -/
structure LogRec where
  time : Nat
  kind : Nat
  region : Nat
  addr : Nat
  rep : Nat := 1
  bit1 : Nat := 0x3F
  bit2 : Nat := 0x3F
  block : Nat
  deriving DecidableEq, Repr, Inhabited

/-- Where a scrub pass stands: the unit within the cell of 7010h + r.06, and when the last unit was checked. -/
structure ScrubPos where
  unit : Nat := 0
  last : Nat := 0
  deriving DecidableEq, Repr, Inhabited

/-- A move of the trigger table or of the dictionary shadows: the region it goes to, when it was named, and the addresses of
its words there (R259). -/
structure Move where
  target : Nat
  since : Nat
  places : List Nat := []
  deriving DecidableEq, Repr, Inhabited

/-- Event memory. -/
structure Mem where
  /-- Words written, by physical address; a word of a filled area that is not listed holds 0. -/
  words : Table (Option MWord) := []
  /-- Areas filled, newest first. -/
  fills : List Area := []
  /-- The words the last read delivered. -/
  out : List FWord := []
  scrubs : Table ScrubPos := []
  /-- The error log, by place in its ring. -/
  log : Table LogRec := []
  /-- Cells in use, by their 20-bit numbers, ascending (R184, R185). -/
  cells : List Nat := []
  /-- Cells of latency buffers in a bank being withdrawn, per region, until the boundary (R259). -/
  held : Table Nat := []
  /-- Regions in use for the trigger table (0) and the shadows (1), 16 for none, and the addresses of their words. -/
  active : Table Nat := []
  places : Table (List Nat) := []
  moves : Table (Option Move) := []
  /-- The bank under self-test (R522). -/
  test : Option Nat := none
  deriving DecidableEq, Repr, Inhabited


/-! ### Event building and output -/

/-- A cell of an arrival chain: data words it holds, and those not yet consumed (R184, R185). -/
structure Cell where
  filled : Nat := 0
  live : Nat := 0
  deriving DecidableEq, Repr, Inhabited

/-- An arrival chain of a port and view: its cells by their 20-bit numbers, and the tail cell (R184). -/
structure Chain where
  cells : Table Cell := []
  tail : Option Nat := none
  deriving DecidableEq, Repr, Inhabited

/-- A piece of a fragment's extent: the cell, the place of its first data word in it, and how many words (R184). -/
structure Ext where
  cell : Nat
  off : Nat
  n : Nat
  deriving DecidableEq, Repr, Inhabited

/-- The receiver's credit of a link and view (R187, R306): the grant, the words charged, and the words whose return
is withheld. -/
structure Credit where
  grant : Nat := 0
  charged : Nat := 0
  debt : Nat := 0
  deriving DecidableEq, Repr, Inhabited

/-- What the builder has decided about a fragment being received. -/
inductive Disp where
  | undecided | drop | file (held : Bool)
  deriving DecidableEq, Repr, Inhabited

/-- A fragment being received on a link for a view (R302): its words as they came, the words charged, where its
words are stored, and the slot and port it is filed for. -/
structure Rx where
  words : List FWord := []
  raw : Bool := false
  charged : Nat := 0
  ext : List Ext := []
  disp : Disp := .undecided
  id : Nat := 0
  port : Nat := 0
  deriving DecidableEq, Repr, Inhabited

/-- A fragment in a queue (R181): the link it came by, its event and mode field, its words in merged or Leaf form once the
last one has arrived, its extents by cell, and whether its end-of-fragment word has been accepted. -/
structure Filed where
  link : Nat
  id : Nat
  mode : Nat := 0
  words : Option (List FWord) := none
  ext : List Ext := []
  accepted : Bool := false
  deriving DecidableEq, Repr, Inhabited

/-- A hardware queue of a view, slot and port: the current and the held fragment (R181). -/
structure Queue where
  cur : Option Filed := none
  held : Option Filed := none
  deriving DecidableEq, Repr, Inhabited

/-- The states of a slot (R194). -/
inductive SlotPhase where
  | idle | open_ | closed | merging
  deriving DecidableEq, Repr, Inhabited

/-- An event slot of a view (R180, R190 to R194): the id it holds or last held, the ports enabled and expected at its
opening, those still expected, those present and those missing, its opening in ring periods and its timeout, the mode
field of the event's fragments (R205), the trigger time of the command applied for its event, and event starts that wait:
id, mode field and trigger time. -/
structure Slot where
  phase : SlotPhase := .idle
  id : Option Nat := none
  enabled : Nat := 0
  expect : Nat := 0
  await : Nat := 0
  present : Nat := 0
  missing : Nat := 0
  opened : Nat := 0
  tau : Nat := 0
  mode : Nat := 0
  trig : Option Nat := none
  starts : List (Nat × Nat × Option Nat) := []
  deriving DecidableEq, Repr, Inhabited

/-- A fragment on its way out: its words as they were stored, the lengths of its body items, whether it is packed or raw
marked, since when it is ready, in ring periods, and the cells that hold it. -/
structure OutFrag where
  id : Nat
  words : List FWord
  lens : List Nat := []
  packed : Bool := false
  raw : Bool := false
  since : Nat := 0
  cells : List Nat := []
  deriving DecidableEq, Repr, Inhabited

/-- A fragment being sent, its words as event memory delivered them: on which link, how many of its words have left, and
since when it waits. -/
structure Sending where
  link : Nat
  frag : OutFrag
  sent : Nat := 0
  since : Nat := 0
  deriving DecidableEq, Repr, Inhabited

/-- A view's output: the merge in progress, fragments waiting for the compressor, the job at the head, fragments ready
and the one being sent. -/
structure OutView where
  merging : Option OutFrag := none
  jobs : List OutFrag := []
  /-- The first job is BUSY. -/
  busy : Bool := false
  /-- Its reservation in words and the cells that hold it, once granted, and the packed body. -/
  reserved : Option Nat := none
  resCells : List Nat := []
  packed : List FWord := []
  /-- The merged fragment as it reached the compressor, and the reservation ratio and packed output region that the job
  took as it became BUSY (R220, R232). -/
  jobWords : List FWord := []
  jobR : Nat := 0
  jobRegion : Nat := 16
  /-- The final status of the last job (R221). -/
  lastJob : Nat := 0
  ready : List OutFrag := []
  sending : Option Sending := none
  deriving DecidableEq, Repr, Inhabited

/-- The event builder and the output: chains keyed 4 * port + v, credits and receptions keyed 4 * link + v, slots keyed
4096 v + slot, queues keyed 16 (4096 v + slot) + port, outputs keyed by view. -/
structure Build where
  chains : Table Chain := []
  credits : Table Credit := []
  rx : Table (Option Rx) := []
  slots : Table Slot := []
  queues : Table Queue := []
  outs : Table OutView := []
  deriving DecidableEq, Repr, Inhabited


/-! ### Lanes -/

/-- Settings a lane took at the beginning of its bring-up (R291): highest rate, bring-up mode, polarity, equaliser mode
and fixed code, climb thresholds, and the width of its link. -/
structure LaneCfg where
  hi : Nat := 4
  mode : Nat := 0
  pol : Nat := 0
  eqMode : Nat := 0
  eqCode : Nat := 16
  eyeWidth : Nat := 16
  eyeHeight : Nat := 10
  width : Nat := 1
  deriving DecidableEq, Repr, Inhabited

/-- A group as a receiver holds it for its link: sequence, marker or data, its link-word slots, and whether its header
failed (R275). -/
structure RxGroup where
  seq : Nat
  marker : Bool := false
  bad : Bool := false
  units : List Nat
  deriving DecidableEq, Repr, Inhabited

/-- A lane (R263 to R293), keyed by its code. Its receiver and transmitter states, rate, clock, polarity, index and
eyes are in 5020h + l. -/
structure Lane where
  cfg : LaneCfg := {}
  /-- Consecutive good groups while hunting, and consecutive bad ones once framed (R284). -/
  good : Nat := 0
  bad : Nat := 0
  /-- Sequence of the last group. -/
  seq : Nat := 0
  /-- Groups since a header with SLP = 1. -/
  slp : Option Nat := none
  /-- Headers with LT = 0 in a row (R289). -/
  lt0 : Nat := 0
  /-- When the hunt began, in ring periods. -/
  since : Nat := 0
  /-- The polarity opposite to the forced one has been seen in this hunt, and the forced one (R283). -/
  opposite : Bool := false
  right : Bool := false
  /-- On the climb, the rates failed in this bring-up, and the rate before a switch in progress (R288). -/
  climb : Bool := false
  failed : Nat := 0
  prev : Option Nat := none
  /-- The step its training groups carry, the rate they propose or end with, and the far end's announcement. -/
  step : Nat := 0
  proposed : Nat := 0
  switchSeq : Nat := 0
  far : Bool := false
  farHigh : Nat := 0
  farRates : Nat := 0
  /-- The equaliser code is chosen (R269). -/
  eqDone : Bool := false
  /-- Bring-up is complete and has not begun again; the lane wakes or returns with what it kept (R291, R293). -/
  trained : Bool := false
  wake : Bool := false
  /-- A lane that takes the place of another in a link that has completed bring-up (R295). -/
  joining : Bool := false
  /-- The main path waits 10 ms after a failure, since then (R287). -/
  retry : Option Nat := none
  /-- Counter of the last marker group, and by how many words it came after the reference of its link (R280). -/
  ctr : Option Nat := none
  lag : Int := 0
  /-- Groups that wait for their group set. -/
  groups : List RxGroup := []
  /-- The group counter of the transmitter of a lane that is in no link; slots 0 to 3 of the last marker group sent; and the
  headers of the last groups sent before sleep (R272, R292). -/
  txCtr : Nat := 0
  marker : List Nat := []
  heads : List Nat := []
  deriving DecidableEq, Repr, Inhabited

/-! ### Links -/

/-- Where the parse of a link's words stands (R320): words to come of the packet in progress, how many of them R322
counts, whether the packet is sequenced, and whether a poison list follows it. -/
structure Parse where
  more : Nat := 0
  counted : Nat := 0
  seqd : Bool := false
  list : Bool := false
  deriving DecidableEq, Repr, Inhabited

/-- What the sender holds of a packet sent in one group set (R319): its words, and for a piece of a frame fragment its
view, FIRST, LAST, RAW and ABN, and, at the LAST of a Leaf's fragment, the cells that its acknowledgement frees (R328). -/
structure Held where
  set : Nat
  fragment : Bool := false
  words : List FWord
  view : Nat := 0
  first : Bool := false
  last : Bool := false
  raw : Bool := false
  abn : Bool := false
  cells : List Nat := []
  /-- Words of the replay buffer it takes, its header and poison list included. -/
  size : Nat := 0
  deriving DecidableEq, Repr, Inhabited

/-- A link of the part (R300 to R330), keyed by its index k. -/
structure Link where
  /-- The position port of the child, where this is its companion port (R26). -/
  companion : Option Nat := none
  /-- Views whose fragment in progress is to be abandoned (R303). -/
  abandon : List Nat := []
  /-- Trigger requests and commands waiting in the full-flag queues (R67, R165). -/
  reqs : List TrigReq := []
  cmds : List TrigCmd := []
  /-- The lanes of its present or last bring-up (R278). -/
  lanes : List Nat := []
  deskewed : Bool := false
  /-- Hold loop-timed, as its bring-up took it (R332). -/
  hold : Bool := false
  /-- Since when a lane is out of READY, when its handshake or its retrain began, in ring periods. -/
  notReady : Option Nat := none
  helloAt : Option Nat := none
  retrainAt : Option Nat := none
  /-- Position and address assigned to the child, once it has been answered (R25, R26). -/
  pos : Option Nat := none
  /-- Receiver: counter, modulo 4,096, of the last group set taken. -/
  rxSeq : Option Nat := none
  /-- The packet in progress; packet boundaries are lost (R315). -/
  parse : Parse := {}
  blind : Bool := false
  /-- The failed set and attempt a NAK names, until its REPLAY arrives, and since when (R322, R325). -/
  nak : Option (Nat × Nat) := none
  nakAt : Nat := 0
  /-- The set being replayed and its attempt, and how many of its words are still to be tagged REPLAYED. -/
  redo : Option (Nat × Nat) := none
  redoLeft : Nat := 0
  /-- Words in the elastic buffer (R281). -/
  elastic : Nat := 32
  /-- Words of the last group set delivered. -/
  delivered : List FWord := []
  /-- Sender: the group set being sent and the link words already in it. -/
  txSet : Nat := 0
  txPos : Nat := 0
  /-- Link words sent since the last FILL (R281, R313). -/
  sinceFill : Nat := 0
  /-- Link control, time probes, credit return and management packets waiting. -/
  ctl : List (List Nat) := []
  probes : List (List Nat) := []
  ret : Option (List Nat) := none
  /-- The link has entered SERVICE and its first packet, a credit return, has not left yet (R306). -/
  firstRet : Bool := false
  mgmt : List (List Nat) := []
  mgmtSet : Option Nat := none
  /-- The replay buffer, oldest first, when it was last freed, and the last set acknowledged. -/
  held : List Held := []
  heldAt : Nat := 0
  acked : Option Nat := none
  /-- The NAK to be answered at the next resync set, and the last one answered. -/
  replay : Option (Nat × Nat) := none
  replayed : Option (Nat × Nat) := none
  /-- The set at which the last replay began, and its n_g. -/
  replayFrom : Nat := 0
  replayN : Nat := 0
  /-- What each view has been served, in words by weight (R35). -/
  served : Table Nat := []
  /-- The words of the last packet sent. -/
  sent : List FWord := []
  /-- Counters and stamps of the last 16 marker groups sent and received, newest first (R312, R345). -/
  txMarks : List (Nat × Nat) := []
  rxMarks : List (Nat × Nat) := []
  deriving DecidableEq, Repr, Inhabited


/-! ### Time (R333 to R358) -/

/-- One Announce message as the BMCA compares masters (R351): sender, grandmaster data set, steps removed, UTC offset,
its interval, when the last one came, in ring periods, and how many have come close together. -/
structure Master where
  port : Nat
  prio1 : Nat
  cls : Nat
  acc : Nat
  var : Nat
  prio2 : Nat
  gm : Nat
  steps : Nat
  utc : Nat
  logInt : Int
  /-- The ring periods of its last Announce and of the one before it. -/
  last : Nat
  prev : Option Nat := none
  deriving DecidableEq, Repr, Inhabited

/-- A two-step Sync that waits for its Follow_Up: sequence, arrival in 1/256 tk, and its correction in 2^-16 ns (R354). -/
structure SyncWait where
  seq : Nat
  t2 : Int
  corr : Int
  deriving DecidableEq, Repr, Inhabited

/-- A delay exchange in progress: sequence, the request's departure in 1/256 tk, and for peer-to-peer the response's
arrival, the requestee's receipt and the correction so far (R354). -/
structure DelayWait where
  seq : Nat
  dep : Int
  arr : Option Int := none
  rcv : Int := 0
  corr : Int := 0
  deriving DecidableEq, Repr, Inhabited

/-- What an instance last sent: the message's kind by its type code, its sequence, its timestamp as seconds and
nanoseconds, and its correction in 2^-16 ns. -/
structure PtpSent where
  kind : Nat
  seq : Nat
  sec : Nat := 0
  ns : Nat := 0
  corr : Int := 0
  deriving DecidableEq, Repr, Inhabited

/-- One PTP instance (R351, R354, R355). -/
structure Ptp where
  masters : List Master := []
  /-- The port identity of the master chosen. -/
  chosen : Option Nat := none
  wait : Option SyncWait := none
  delay : Option DelayWait := none
  delaySeq : Nat := 0
  /-- The last Delay_Req or Pdelay_Req sent, in ring periods (R351). -/
  lastReq : Option Nat := none
  /-- Syncs of the window and their smallest ms, in 1/256 tk. -/
  count : Nat := 0
  msMin : Option Int := none
  /-- sm, or twice the mean link delays, of the last W exchanges, newest first, in 1/256 tk. -/
  exchanges : List Int := []
  /-- The last Sync, in ring periods, and its interval. -/
  lastSync : Nat := 0
  logSync : Int := 0
  /-- The latest estimate θ_d, in 1/256 tk. -/
  theta : Option Int := none
  /-- It has left SLAVE, and the part has not acted on it (R357). -/
  left : Bool := false
  /-- The messages last sent, newest first: a two-step response is two. -/
  sent : List PtpSent := []
  deriving DecidableEq, Repr, Inhabited

/-- The servo and what feeds it. -/
structure Timing where
  /-- Consecutive updates within the lock threshold (R336). -/
  run : Nat := 0
  /-- Ring period of the last update. -/
  last : Nat := 0
  /-- The next measurement is applied as a step in either direction (R340). -/
  reacq : Bool := false
  /-- The source is lost (R347, R350, R355). -/
  lost : Bool := false
  /-- Measurements waiting for the servo, oldest first, in 1/256 tk. -/
  meas : List Int := []
  /-- Paired probes averaged so far, the exponent m of this average, and the sums of their θ and d, in 1/512 tk (R346). -/
  avgN : Nat := 0
  avgM : Nat := 5
  avgTh : Int := 0
  avgD : Int := 0
  /-- The d that the next measurement is held against, in 1/256 tk. -/
  refD : Option Int := none
  /-- The last paired probe, or the commit of source 1, in ring periods (R347). -/
  lastPaired : Option Nat := none
  /-- PPS: the second number written whose first edge is awaited; the next second expected (R349, R350). -/
  ppsWait : Option Nat := none
  ppsNext : Option Nat := none
  /-- The domain switch: the instance left and its last estimate, until the transfer offset is recorded; a_s while it is
  BUSY (R356). -/
  switchOld : Option (Nat × Int) := none
  switchRate : Option Int := none
  ptp0 : Ptp := {}
  ptp1 : Ptp := {}
  /-- The last ARP reply sent: port, the address it gives and the address that asked (R351). -/
  arp : Option (Nat × Nat × Nat) := none
  deriving DecidableEq, Repr, Inhabited



/-! ### Housekeeping (R362 to R407) -/

/-- The chain settings a converter took at its latest synchronising reset (R388, R391). -/
structure ChainCfg where
  resp : Nat := 2
  r : Nat := 2048
  f : Nat := 2048
  g : Nat := 2048
  sh : Nat := 0
  deriving DecidableEq, Repr, Inhabited

/-- What a converter measures: its main pair, its lead pair, or an injected pair (R372, R401). -/
inductive ConvJob where
  | main | lead | injected
  deriving DecidableEq, Repr, Inhabited

/-- A trip of a detector, the high one or the low one: trip and release in ring periods, and whether its first OPEN
result has been counted (R375, R376). -/
structure Trip where
  high : Bool
  start : Nat
  stop : Option Nat := none
  counted : Bool := false
  deriving DecidableEq, Repr, Inhabited

/-- A converter. Its state is 8058h + m.04, its range 8000h + m.0B. -/
structure Conv where
  /-- Ring period of sample 1, where the chain runs, and the results formed since (R386). -/
  reset : Option Nat := none
  k : Nat := 0
  chain : ChainCfg := {}
  /-- Ring period at which its settling time has elapsed, and that of the latest change of its front end (R370, R371,
  R387). -/
  settle : Option Nat := none
  changed : Nat := 0
  job : ConvJob := .main
  /-- Tags owed to the next result delivered (R371, R394). -/
  exc : Bool := false
  rng : Bool := false
  /-- The pair and range that an injected conversion took at its beginning: 805Ch + m.02 to .04 (R401). -/
  injSet : List Nat := []
  /-- Consecutive results at or below the down-range threshold (R365). -/
  low : Nat := 0
  /-- The lead result in use with its range, the flags of one not used, and main results since the last one (R372,
  R373). -/
  lead : Option (Int × Nat) := none
  leadFlags : Nat := 0
  mains : Nat := 0
  trips : List Trip := []
  /-- The calibration table o_0, e_0 to o_7, e_7, the one that waits for its grant, and the ring period at which the
  calibration began (R403 to R406). -/
  cal : List Int := [0, 0, 0, 0, 0, 0, 0, 0, 0, 0, 0, 0, 0, 0, 0, 0]
  newCal : Option (List Int) := none
  calAt : Nat := 0
  deriving DecidableEq, Repr, Inhabited

/-- A loop output: its last source result, consecutive checks below, above and within their limits, and the last check,
in ring periods (R379, R381). -/
structure LoopOut where
  last : Nat := 0
  below : Nat := 0
  above : Nat := 0
  within : Nat := 0
  checked : Nat := 0
  deriving DecidableEq, Repr, Inhabited

/-- Housekeeping: converters, loops, and the mask of the start at compare that is armed (R387). -/
structure Hk where
  convs : Table Conv := []
  loops : Table LoopOut := []
  armed : Nat := 0
  deriving DecidableEq, Repr, Inhabited


/-! ### The whole -/

/-- The part: everything but the queue of waiting commands. -/
structure Part where
  clk : Clock := {}
  /-- Committed dictionary values that differ from their defaults, keyed 256 index + sub-index. -/
  dict : Table Nat := []
  /-- Values still in effect of frame-bound entries committed since the last boundary (R82). -/
  effOld : Table Nat := []
  /-- The model's own field: how many free values have been drawn. -/
  free : Nat := 0
  fab : Fabric := {}
  front : Front := {}
  cal : Calib := {}
  ref : RefDet := {}
  iv : Interval := {}
  acq : Acq := {}
  mem : Mem := {}
  bld : Build := {}
  lanes : Table Lane := []
  /-- Equaliser codes chosen at the last bring-up, keyed 8 l + rate code (R518). -/
  eqAt : Table (Option Nat) := []
  tests : Table LaneTest := []
  links : Table Link := []
  tim : Timing := {}
  hk : Hk := {}
  svc : Svc := {}
  pow : Power := {}
  upd : Upd := {}
  deriving DecidableEq, Repr, Inhabited

/-- The state: the part and the queue of commands waiting, first in, first out. -/
structure State where
  part : Part := {}
  pending : List Instr := []
  deriving DecidableEq, Repr, Inhabited

/-- Reasons a step can stop with a fault. No command of the manual stops the part, so no meaning raises one. -/
inductive Fault where
  /-- Raised by no meaning: the manual gives the part no state from which it cannot go on. -/
  | none
  deriving DecidableEq, Repr, Inhabited

/-- Reasons a command can be refused. -/
inductive Refusal where
  /-- Raised by `exec` for a command that has no meaning yet; safe: the run stops. -/
  | notModelled (mnemonic : String)
  deriving DecidableEq, Repr, Inhabited

/-- The outcome of a command. -/
abbrev Outcome := Host.Outcome State Fault Refusal

/-- The machine right after reset: every field at its reset value, nothing listed, no command waiting. -/
def State.reset : State := { part := {}, pending := [] }

end Sys2Proof.Machine
end

