-- ==== Sys2Proof/Machine/Ops.lean ====
section
/-! DEFINITION. The named operations every chapter uses: the clock, dictionary values and counters, free values,
the commit arbiters, and dictionary requests from their checks to their commit. -/
namespace Sys2Proof.Machine

/-- A command's effect on the part, as an outcome: it completes, and the queue stays. -/
def lift (f : Part → Part) (s : State) : Outcome := .next { s with part := f s.part }

/-! ### The clock (R333, R10) -/

/-- What a ring period adds to the counter, in units of 2^-32 tk (R333). -/
def Clock.incr (c : Clock) : Nat := (128 * 2 ^ 32 + c.rate).toNat

/-- System time in whole ticks (R122, R333). -/
def now (p : Part) : Nat := (p.clk.fx / 2 ^ 32) % 2 ^ 80

/-- The bases of the `k` latest coarse cycles that start after ring period `rp` and not after `rp + n`. -/
def newBases (c : Clock) (n : Nat) : List Nat :=
  let c1 := (c.rp + n) / 8
  let k := min (c1 - c.rp / 8) 16
  (List.range k).map fun j => ((c.fx + (8 * (c1 - j) - c.rp) * c.incr) / 2 ^ 32) % 2 ^ 80

/-- `n` ring periods pass (R333, R104). -/
def Clock.run (c : Clock) (n : Nat) : Clock :=
  { c with fx := (c.fx + n * c.incr) % 2 ^ 112, rp := c.rp + n, bases := (newBases c n ++ c.bases).take 16 }

/-- `n` ring periods pass. -/
def advance (n : Nat) (p : Part) : Part := { p with clk := p.clk.run n }

/-- System time `a` lies before system time `b` (R11). -/
def before (a b : Nat) : Bool := decide (diffMod 80 a b < 0)

/-- A span has something in common with [a, b) (R11). -/
def overlaps (s : Span) (a b : Nat) : Bool :=
  before s.start b && (match s.stop with | none => true | some e => before a e)

/-- Ring periods until system time reaches `t`; 0 if it has (R11). -/
def periodsTo (c : Clock) (t : Nat) : Nat :=
  let d := subMod 112 (t * 2 ^ 32) c.fx
  if 2 ^ 111 ≤ d then 0 else (d + c.incr - 1) / c.incr

/-- Let time pass until system time has reached `t`: the command stands for that moment. -/
def advanceTo (t : Nat) (p : Part) : Part := advance (periodsTo p.clk t) p

/-- Let time pass until ring period `r`. -/
def advanceRp (r : Nat) (p : Part) : Part := advance (r - p.clk.rp) p

/-- Ring periods in a microsecond, a millisecond and a second (R103). -/
def usRp : Nat := 2560
def msRp : Nat := 2560000
def secRp : Nat := 2560000000

/-- The length of a frame (R10). -/
def frameTk : Nat := 2 ^ 23

/-- System time `x` was skipped by a forward step (R338). -/
def skippedAt (p : Part) (x : Nat) : Option Nat :=
  (p.clk.steps.find? fun s => decide (0 < s.2.1) && decide (s.1 ≤ x) && decide ((x : Int) < s.1 + s.2.1)).map (·.1)

/-- `x` lies within 655,360 tk after a backward step (R340). -/
def afterBackStep (p : Part) (x : Nat) : Bool :=
  p.clk.steps.any fun s => decide (s.2.1 < 0) && decide (s.1 + s.2.1 ≤ x) && decide ((x : Int) < s.1 + s.2.1 + 655360)

/-! ### Free values -/

/-- Draw a free value: a fresh one each time. -/
def drawFree (p : Part) : Nat × Part := (Config.freeNat p.free, { p with free := p.free + 1 })

/-! ### Dictionary values -/

/-- The key of an entry in the dictionary tables. -/
def ekey (idx sub : Nat) : Nat := 256 * idx + sub

/-- The default of an entry that its row alone does not give. -/
def dfltSpecial (role : Role) (idx sub : Nat) (d : Nat) : Nat :=
  if idx = 0x1110 ∧ 1 ≤ sub ∧ sub ≤ 4 then sub + 1
  else if idx = 0x7010 ∧ sub = 3 then 262144
  else if idx = 0x7000 ∧ 2 ≤ sub ∧ sub ≤ 8 then
    (if sub = 2 then 4 else if sub = 4 then 16384 else if sub = 7 then 1 else if sub = 8 then 262144 else 0)
  else if idx = 0x7044 ∧ 1 ≤ sub ∧ sub ≤ 4 then 4
  else if 0x5000 ≤ idx ∧ idx ≤ 0x501B ∧ sub = 1 then
    (if idx = 0x5010 ∨ idx = 0x5014 then 1
     else if idx ≤ 0x500F then (match role with | .bough => 1 | .leaf => 0) else 0)
  else if 0x3010 ≤ idx ∧ idx ≤ 0x3013 ∧ sub = 4 then 0xFFFFFFFF
  else if idx = 0x1310 ∧ sub = 4 then 1
  else if idx = 0x9001 ∧ sub = 1 then 4
  else if 0x1310 ≤ idx ∧ idx ≤ 0x1317 ∧ sub = 3 then
    (if idx = 0x1310 then 7 else if idx = 0x1311 then 1 else if idx = 0x1316 then 6 else if idx = 0x1317 then 1
     else idx - 0x1310)
  else d

/-- The default value of an entry. -/
def dflt (role : Role) (idx sub : Nat) : Nat :=
  dfltSpecial role idx sub (match lookup idx sub with | some r => r.dflt | none => 0)

/-- The last committed value of an entry. -/
def rd (p : Part) (idx sub : Nat) : Nat := tget (dflt p.pow.role idx sub) p.dict (ekey idx sub)

/-- The value of an entry that is in effect: a frame-bound entry keeps its old one until the boundary (R82). -/
def eff (p : Part) (idx sub : Nat) : Nat := tget (rd p idx sub) p.effOld (ekey idx sub)

/-- The value of a frame-bound entry that was in effect at system time `x` (R82). -/
def effAt (p : Part) (idx sub x : Nat) : Nat :=
  p.acq.past.foldl (fun (v : Nat) (e : Nat × Table Nat) =>
    if before x e.1 then match e.2.find? fun kv => kv.1 == ekey idx sub with | some kv => kv.2 | none => v else v)
    (eff p idx sub)

/-- The latest boundary not after `x` at which an entry took effect with a value it did not have before; 0 for none. -/
def changedBy (p : Part) (idx sub x : Nat) : Nat :=
  p.acq.past.foldl (fun m e =>
    if !before x e.1 && e.2.any (fun kv => kv.1 == ekey idx sub && kv.2 != effAt p idx sub e.1) then max m e.1 else m) 0

/-- Place a value in an entry; a default value is not listed. -/
def wr (idx sub v : Nat) (p : Part) : Part :=
  { p with dict := tput (dflt p.pow.role idx sub) p.dict (ekey idx sub) v }

/-- The machine itself changes an entry's value in effect; a value committed and still to take effect stays as it is. -/
def setEff (idx sub v : Nat) (p : Part) : Part :=
  if p.effOld.any fun kv => kv.1 == ekey idx sub then { p with effOld := tins p.effOld (ekey idx sub) v } else wr idx sub v p

/-- Count once in a counter entry (R13). -/
def bump (idx sub : Nat) (p : Part) : Part := wr idx sub (satInc (rd p idx sub)) p

/-- Count `k` times in a counter entry (R13). -/
def bumpBy (k idx sub : Nat) (p : Part) : Part := if k = 0 then p else wr idx sub (satAdd (rd p idx sub) k) p

/-- Apply `f` where the condition holds. -/
def onlyIf (b : Bool) (f : Part → Part) (p : Part) : Part := if b then f p else p

/-- Apply `f` to each of a list in order. -/
def forEach {α : Type} (l : List α) (f : α → Part → Part) (p : Part) : Part := l.foldl (fun q a => f a q) p

/-! ### Roles, links and phases -/

/-- The part is out of reset; in power-fail handling its data plane runs on (R499, R507). -/
def alive (p : Part) : Bool := p.pow.phase != .inReset

/-- A link is in SERVICE (R326). -/
def inService (p : Part) (k : Nat) : Bool := rd p (0x5100 + k) 1 == 3

/-- The link number of uplinks A and B. -/
def linkA : Nat := 16
def linkB : Nat := 17

/-- The tier of the part; a part without an address counts as tier 0 for automatic values (R197). -/
def tierOr0 (p : Part) : Nat := if rd p 0x1100 2 = 0xFF then 0 else rd p 0x1100 2

/-- The front end takes data: a Leaf's always, a Bough's when its local front end is enabled (R77, R212). -/
def frontOn (p : Part) : Bool := match p.pow.role with | .leaf => true | .bough => eff p 0x4021 1 == 1

/-- No firmware slot could be loaded (R486). -/
def recovery (p : Part) : Bool := rd p 0x9000 9 == 0xFF

/-- An effect of the management controller: it runs out of reset, in recovery mode too (R486, R499). -/
def runCtl (f : Part → Part) (s : State) : Outcome := lift (fun p => if alive p then f p else p) s

/-- A command's effect where the part is out of reset and not in recovery mode, which holds the rest of the part as at
reset (R486, R499). -/
def run (f : Part → Part) (s : State) : Outcome := lift (fun p => if alive p && !recovery p then f p else p) s

/-! ### Commit arbiters (R70 to R72) -/

/-- Requests pending at an operation's commit arbiter, in order of arrival. -/
def arbOf (p : Part) (op : OpId) : List ArbReq := (p.fab.arb.filter fun a => a.1 == op).map (·.2)

/-- Two requests come by the same line of an arbiter: it has one for completion, one for failure and one for abort (R70). -/
def ArbKind.same : ArbKind → ArbKind → Bool
  | .completion, .completion | .failure _, .failure _ | .abort, .abort => true
  | _, _ => false

/-- A request reaches a commit arbiter; one on a line that already asks joins the request pending there (R70). -/
def raise (op : OpId) (r : ArbReq) (p : Part) : Part :=
  let same := fun (a : OpId × ArbReq) => a.1 == op && a.2.kind.same r.kind
  let joined := p.fab.arb.map fun a => if same a then (a.1, { a.2 with count := a.2.count + r.count, rqs := a.2.rqs ++ r.rqs }) else a
  { p with fab := { p.fab with arb := if p.fab.arb.any same then joined else p.fab.arb ++ [(op, r)] } }

/-- An operation fails: its failure request is raised (R70). -/
def raiseFailure (op : OpId) (cause : Nat) (p : Part) : Part := raise op { kind := .failure cause } p

/-- An operation has reached its commit point: its completion request is raised (R70). -/
def raiseCompletion (op : OpId) (p : Part) : Part := raise op { kind := .completion } p

/-- Neither completion nor failure of the operation is pending: it still runs. -/
def unsettled (p : Part) (op : OpId) : Bool := !(arbOf p op).any fun r => !(r.kind == .abort)

/-- The arbiter has granted: its requests are gone (R71). -/
def arbClear (op : OpId) (p : Part) : Part :=
  { p with fab := { p.fab with arb := p.fab.arb.filter fun a => !(a.1 == op) } }

/-! ### Requests: rights, values and checks (R410 to R416) -/

/-- Whether class `c` is in a class set. -/
def inSet (set c : Nat) : Bool := decide (1 ≤ c ∧ c ≤ 7) && bit set c

/-- The class that owns a view: the Custodian where 1110h holds 00h (R412). -/
def viewOwner (p : Part) (v : Nat) : Nat := let o := rd p 0x1110 (v + 1); if o = 0 then 1 else o

/-- The view of an entry that has an owner: by its index, and for a port's counters (4050h + p) by its sub-index (R33). -/
def entryView (r : Row) (idx sub : Nat) : Nat := if r.i0 = 0x4050 then (sub - 3) % 4 else idx - r.i0

/-- Whether a class is in the read set of an entry, its view's owner included (R33, R412). -/
def mayRead (p : Part) (r : Row) (idx sub c : Nat) : Bool :=
  inSet r.rd c || (r.owner && r.acc != .wo && decide (c = viewOwner p (entryView r idx sub)))

/-- Whether a class is in the write set of an entry, its view's owner included (R33, R412). -/
def mayWrite (p : Part) (r : Row) (idx sub c : Nat) : Bool :=
  inSet r.wr c || (r.owner && r.acc != .ro && decide (c = viewOwner p (entryView r idx sub)))

/-- How many words a type takes (R410). -/
def Ty.words : Ty → Nat
  | .bool | .u8 | .u16 | .u20 | .i20 => 1
  | .u32 | .u40 | .i32 | .q20_8 => 2
  | .u80 => 4
  | .key => 13
  | .str | .domain => 1

/-- The type code (R410). -/
def Ty.code : Ty → Nat
  | .bool => 1 | .u8 => 2 | .u16 => 3 | .u20 => 4 | .u32 => 5 | .u40 => 6 | .u80 => 7 | .i20 => 8 | .i32 => 9
  | .q20_8 => 0xA | .str => 0xB | .key => 0xC | .domain => 0xD

/-- Whether a raw value is a valid encoding of a type (R410). -/
def Ty.valid (t : Ty) (v : Nat) : Bool :=
  match t with
  | .bool => decide (v < 2)
  | .u8 => decide (v < 2 ^ 8)
  | .u16 => decide (v < 2 ^ 16)
  | .u20 | .i20 => decide (v < 2 ^ 20)
  | .u32 => decide (v < 2 ^ 32)
  | .u40 => decide (v < 2 ^ 40)
  | .u80 => decide (v < 2 ^ 80)
  | .i32 => decide (v < 2 ^ 40) && decide (v = ofI32 (s32 v))
  | .q20_8 => decide (v < 2 ^ 28)
  | .key => decide (v < 2 ^ 256)
  | .str | .domain => false

/-- The interval source codes of R130. -/
def ivCodeOk (c : Nat) : Bool :=
  let k := bits c 19 16
  if k = 0 then c == 0
  else if k = 1 then bits c 4 0 == 0
  else if 2 ≤ k ∧ k ≤ 5 then bits c 15 6 == 0 && bits c 4 0 == 0
  else if k = 6 then decide (bits c 15 8 ≤ 0x1B) && bits c 7 1 == 0
  else if k = 7 then bits c 15 1 == 0
  else false

/-- The source codes of R363: SX pins 00h to 1Fh and the internal sources 20h to 26h. -/
def hkCodeOk (c : Nat) : Bool := decide (c ≤ 0x26)

/-- The sparing map of R294 on its own: each half FFh or an uplink lane 10h to 17h, not both the same lane. -/
def sparingOk (m : Nat) : Bool :=
  let a := bits m 7 0
  let b := bits m 15 8
  (a == 0xFF || decide (0x10 ≤ a ∧ a ≤ 0x17)) && (b == 0xFF || decide (0x10 ≤ b ∧ b ≤ 0x17)) && (a == 0xFF || a != b)

/-- Whether a value lies in the range its entry's Meaning column states (R410). -/
def Rng.ok (r : Rng) (v : Nat) : Bool :=
  match r with
  | .any => true
  | .le n => decide (v ≤ n)
  | .between a b => decide (a ≤ v ∧ v ≤ b)
  | .zeroOr a b => v == 0 || decide (a ≤ v ∧ v ≤ b)
  | .oneOf l => l.contains v
  | .signed a b => decide (a ≤ s20 v ∧ s20 v ≤ b)
  | .intervalSource => ivCodeOk v
  | .hkSource => hkCodeOk v
  | .sxPin => decide (v ≤ 0x1F) || v == 0xFF
  | .evenU8 => v % 2 == 0
  | .sparing => sparingOk v

/-- Entries that keep no value of their own: requests (R417), and entries any write of which sets another value. -/
def stores (r : Row) : Bool := match r.acc with | .wo => false | .ro => false | _ => true

/-- Entries inactive in a Leaf: the Bough's event building and packing (R219, R240). -/
def inactive (p : Part) (idx sub : Nat) : Bool :=
  match p.pow.role with
  | .bough => false
  | .leaf =>
    decide (0x4000 ≤ idx ∧ idx ≤ 0x405F ∧ sub ≠ 0) &&
      !(decide (0x4000 ≤ idx ∧ idx ≤ 0x4003) && (sub == 3 || sub == 4 || sub == 5)) &&
      !(decide (0x4030 ≤ idx ∧ idx ≤ 0x4033) && (sub == 0xB || sub == 0xC))

/-- The entries whose committed Custodian writes advance the front-end epoch (R34). -/
def epochEntry (idx sub : Nat) : Bool :=
  (decide (0x2000 ≤ idx ∧ idx ≤ 0x204F) &&
    !(decide (0x2030 ≤ idx ∧ idx ≤ 0x203F) && sub == 8) &&
    !(decide (0x2040 ≤ idx ∧ idx ≤ 0x204F) && (sub == 9 || sub == 0xA))) ||
  decide (0x20C0 ≤ idx ∧ idx ≤ 0x20CF) || (idx == 0x2083 && sub == 5) || (idx == 0x3020 && (sub == 1 || sub == 2))

/-- The front-end epoch advances by one, modulo 65,536 (R34). -/
def epochUp (p : Part) : Part := wr 0x1110 9 ((rd p 0x1110 9 + 1) % 65536) p

/-- The first 128 bits of SHA-256 of a value's words (R428). -/
def valueHash (ws : List Nat) : Nat := ofOctets ((sha256 (wordOctets ws)).take 16)

/-- A value as the words of its entry's type (R410). -/
def valueWords (r : Row) (v : Nat) : List Nat := toWords r.ty.words v

/-- The WL counter beside an entry (R424): the sub-entry after it. -/
def wlUsed (p : Part) (idx sub : Nat) : Nat := rd p idx (sub + 1)

/-- Write an audit record (R427 to R429): a record past 65,536 overwrites the oldest. -/
def auditPut (rq : Rq) (action used idx sub : Nat) (old new : List Nat) (p : Part) : Part :=
  let r : AuditRec := { num := p.svc.nextRec, time := now p, cls := rq.cls, slot := rq.slot, action, path := rq.path, used, idx, sub, len := new.length, seq := rq.seq, oldHash := valueHash old, newHash := valueHash new }
  let full := decide (65536 ≤ p.svc.audit.length)
  let p := onlyIf full (bump 0x1400 3) p
  let p := { p with svc := { p.svc with audit := (r :: p.svc.audit).take 65536, nextRec := p.svc.nextRec + 1 } }
  let p := wr 0x1400 1 r.num p
  wr 0x1400 2 ((p.svc.audit.getLast?.map (·.num)).getD 0) p

/-- Whether a committed write of an entry goes through the journal (R418). -/
def journalled (r : Row) : Bool := r.pers == 2 || r.acc == .wl

/-- Count a change of a WL entry in OTP (R424). -/
def wlCount (idx sub : Nat) (p : Part) : Part := wr idx (sub + 1) (wlUsed p idx sub + 1) p

/-- The layout version of an entry in the running firmware, 1 to 255 (R409). -/
def layoutOf (p : Part) (idx sub : Nat) : Nat := Config.layout (rd p 0x9000 0xB) idx sub % 255 + 1

/-- A journal write succeeds: failures in a row are over (R422). -/
def journalGood (p : Part) : Part := { p with svc := { p.svc with fails := 0 } }

/-- The journal holds a value of an entry at its layout version (R420). -/
def journalPut (idx sub v : Nat) (p : Part) : Part :=
  let l := layoutOf p idx sub
  let old := tget [] p.svc.journal (ekey idx sub)
  { p with svc := { p.svc with journal := tput [] p.svc.journal (ekey idx sub) ((l, v) :: old.filter fun x => x.1 != l) } }

/-- The instant of commit: the value is placed, a frame-bound entry keeps its old value in effect, the journal, the epoch
and the audit ring follow, and the entry's action runs with the old value. `counted` says that a WL change has been
counted before; `action` is that of R428, 6 for a scheduled write. -/
def commitWith (counted : Bool) (rq : Rq) (r : Row) (idx sub v action : Nat) (act : Nat → Part → Part) (p : Part) : Part :=
  let old := rd p idx sub
  let p := onlyIf (r.frame && !(p.effOld.any fun kv => kv.1 == ekey idx sub))
    (fun p => { p with effOld := tins p.effOld (ekey idx sub) old }) p
  let p := onlyIf (r.acc == .wl && !counted) (wlCount idx sub) p
  let p := onlyIf (stores r) (wr idx sub v) p
  let p := onlyIf (r.pers == 2) (journalPut idx sub v) p
  let p := onlyIf (journalled r) (fun p => bump 0x1400 4 (journalGood p)) p
  let p := onlyIf (journalled r || action == 6) (auditPut rq action (if r.acc == .wl then wlUsed p idx sub else 0) idx sub (valueWords r old) (valueWords r v)) p
  let p := onlyIf (epochEntry idx sub && rq.cls == 1) epochUp p
  act old p

/-- A commit in one step. -/
def commitNow (rq : Rq) (r : Row) (idx sub v action : Nat) (act : Nat → Part → Part) (p : Part) : Part :=
  commitWith false rq r idx sub v action act p

/-- The audit action of a plain write (R428). -/
def writeAction (r : Row) : Nat := match r.acc with | .wl => 2 | _ => 1

/-- A condition for confirming a trial breaks or is back: its ten seconds count from here (R488). -/
def trialBreak (p : Part) : Part := if p.upd.trial then { p with upd := { p.upd with okFrom := p.clk.rp } } else p

/-- The controller is taken up by a staged write, or requests already wait (R415). -/
def svcBusy (p : Part) : Bool := p.svc.staged.isSome || !p.svc.waiting.isEmpty

/-- A request waits its turn (R415). -/
def enqueue (q : Req) (p : Part) : Part := { p with svc := { p.svc with waiting := p.svc.waiting ++ [q] } }

end Sys2Proof.Machine
end

