-- ==== Sys2Proof/Machine/Fabric.lean ====
section
/-! DEFINITION. The handshake core and its timed islands: transfers, headroom, island FIFOs (R43 to R69). -/
namespace Sys2Proof.Machine

/-! ### Transfers (R43 to R50) -/

/-- The receiver's check of a unit tagged NORMAL or REPLAYED; a unit tagged 11b counts as a parity failure (R43, R47). -/
def accepts (u : Unit21) (t : Tag) : Bool :=
  match t with
  | .poisoned => true
  | .unused => false
  | .normal | .replayed => evenParity u

/-- A block's code: the class in the high byte, the number in the low one (R75). -/
def blockCode : Block → Nat
  | .collector g => 0x0100 + g.val
  | .derandomiser g => 0x0200 + g.val
  | .shutterStage => 0x0300
  | .acquisition v => 0x0400 + v.val
  | .builder v => 0x0500 + v.val
  | .compressor v => 0x0600 + v.val
  | .bankPort b => 0x0700 + b.val
  | .laneReceiver l => 0x0800 + l.val
  | .laneTransmitter l => 0x0900 + l.val
  | .management => 0x0A00
  | .intervalUnit => 0x0B00
  | .chain m => 0x0C00 + m.val
  | .islandFifo i => 0x0D00 + i.val

/-- A transfer is over: what the receiver holds of it joins what it was given before it (R43, R45). -/
def delivered (src : Block) (u : Unit21) (t : Tag) (answers : List Bool) (p : Part) : Part :=
  { p with fab := { p.fab with xfers := p.fab.xfers ++ [{ src, unit := u, tag := t, answers }] } }

/-- A unit lost twice is replaced by 1FFFFFh tagged POISONED, counted and logged with its source and time (R48). -/
def poisonAt (src : Block) (answers : List Bool) (p : Part) : Part :=
  let p := bump 0x1220 3 p
  let p := wr 0x1220 4 (blockCode src) p
  let p := wr 0x1220 5 (now p) p
  delivered src poisonUnit .poisoned (answers ++ [true]) p

/-- One transfer on a fabric path (R43, R47 to R49). -/
def transfer (x : Present) (p : Part) : Part :=
  match x.tag with
  | .poisoned => delivered x.src x.unit .poisoned [true] p
  | .replayed =>
    if accepts x.seen .replayed then delivered x.src x.seen .replayed [true] (bump 0x1220 2 p)
    else poisonAt x.src [false] (bump 0x1220 1 p)
  | t =>
    if accepts x.seen t then delivered x.src x.seen t [true] p
    else
      let p := bump 0x1220 1 p
      if accepts x.seenAgain .replayed then delivered x.src x.seenAgain .replayed [false, true] (bump 0x1220 2 p)
      else poisonAt x.src [false, false] (bump 0x1220 1 p)

/-- How many places a path stands behind the path granted last in the rotating order (R45). -/
def turnOf (last : Nat) (x : Present) : Nat := (blockCode x.src + 65535 - last) % 65536

/-- The request the receiver's arbiter grants next, and the others: the first in the rotating order after the path granted
last (R45). -/
def nextGrant (last : Nat) : List Present → Option (Present × List Present)
  | [] => none
  | x :: l => match nextGrant last l with
    | none => some (x, [])
    | some (y, r) => if turnOf last y < turnOf last x then some (y, x :: r) else some (x, l)

/-- The receiver grants the requests one at a time, each path at most once before every other that requests (R45). -/
def grantAll (dst : Block) : Nat → List Present → Part → Part
  | 0, _, p => p
  | n + 1, l, p =>
    match nextGrant (tget 0 p.fab.turns (blockCode dst)) l with
    | none => p
    | some (x, r) =>
      let p := transfer x p
      grantAll dst n r { p with fab := { p.fab with turns := tput 0 p.fab.turns (blockCode dst) (blockCode x.src) } }

/-- Units are presented on the paths that converge on a receiver (R43, R45). -/
def present (dst : Block) (reqs : List Present) (p : Part) : Part :=
  grantAll dst reqs.length reqs { p with fab := { p.fab with xfers := [] } }

/-- UNIT_TRANSFER (R43). -/
def execUnitTransfer (dst : Block) (reqs : List Present) (s : State) : Outcome := run (present dst reqs) s

/-! ### The timed islands (R59) -/

/-- What an island's clock comes from (R59). -/
inductive ClockSource where
  | refPin | oscillator | ring | lref | recovered | tck | freeRunning
  deriving DecidableEq, Repr, Inhabited

/-- The ring is locked to REF, or acquires it (R118). -/
def ringOnRef (p : Part) : Bool := rd p 0x20D0 2 == 0 || rd p 0x20D0 2 == 3

/-- The source of an island's clock; `l` names the lane of a lane quad (R59). After a loss of LREF the islands I10 to I14 run from
the internal oscillator (R500). -/
def islandSource (p : Part) (i l : Nat) : ClockSource :=
  if i = 0 then .refPin
  else if i = 1 ∨ i = 16 then (if ringOnRef p then .refPin else .oscillator)
  else if i = 2 then .ring
  else if i ≤ 9 then (if rd p (0x5020 + l) 4 = 1 then .recovered else .lref)
  else if i ≤ 14 then (if p.pow.lrefLost then .oscillator else .lref)
  else if i = 15 then .tck else .freeRunning

/-- The rate of an island's clock in kHz; `l` names the lane of a lane quad, whose clock is its line rate over 32. TCK's and the
free-running oscillator's rates are not fixed, nor are those of the islands that move to the oscillator (R59, R500). -/
def islandKHz (p : Part) (i l : Nat) : Option Nat :=
  if i = 0 then some 10000
  else if i = 1 then some 2560000
  else if i = 2 then some 320000
  else if i ≤ 9 then some (62500 * 2 ^ rd p (0x5020 + l) 3)
  else if i ≤ 14 ∧ p.pow.lrefLost then none
  else if i ≤ 11 then
    (if rd p 0x5080 (i - 9) = 1 then some 156250 else if rd p 0x5080 (i - 9) = 2 then some 125000 else none)
  else if i = 12 then some 400000
  else if i = 13 then some 100000
  else if i = 14 then some 200000
  else if i = 16 then some 2048
  else none

/-! ### Island FIFOs (R60 to R67) -/

/-- A link's state. -/
def link (p : Part) (k : Nat) : Link := tget {} p.links k

/-- Set a link's state. -/
def setLink (k : Nat) (x : Link) (p : Part) : Part := { p with links := tput {} p.links k x }

/-- The first lane of a link. -/
def laneOfLink (k : Nat) : Nat := if k = linkA then 16 else if k = linkB then 20 else k

/-- The island of a lane (R59): quads Q0 to Q6 are I3 to I9. -/
def laneIsland (l : Nat) : Nat := 3 + l / 4

/-- The island of a FIFO (R59). -/
def fifoIsland : FifoId → Nat
  | .collector _ => 1
  | .refPps => 0
  | .compares => 2
  | .laneRx l | .laneTx l | .mgmtRx l | .mgmtTx l => laneIsland l.val
  | .ethRx x | .ethTx x => 10 + x.val
  | .busRx | .busTx => 13
  | .flashRd | .flashWr => 14
  | .modulator _ => 16
  | .calHits => 17
  | .mgmtCoreRx | .mgmtCoreTx | .dictRx | .dictTx => 12

/-- The depth of a FIFO in units (R66, R67). -/
def fifoDepth : FifoId → Nat
  | .collector _ => 64
  | .refPps => 16
  | .compares => 16
  | .laneRx _ => 512
  | .laneTx _ => 256
  | .ethRx _ | .ethTx _ => 2048
  | .busRx | .busTx => 1024
  | .flashRd | .flashWr => 256
  | .modulator _ => 32
  | .calHits => 32
  | .mgmtRx _ | .mgmtTx _ | .mgmtCoreRx | .mgmtCoreTx => 64
  | .dictRx | .dictTx => 2 ^ Config.dictFifoBits

/-- Whether data leaves the island toward the core (R60). -/
def fifoTowardCore : FifoId → Bool
  | .laneTx _ | .ethTx _ | .busTx | .flashWr | .mgmtTx _ | .mgmtCoreTx | .dictTx => false
  | _ => true

/-- The number of a FIFO in the table of FIFOs. -/
def fifoKey : FifoId → Nat
  | .collector g => g.val
  | .refPps => 16
  | .compares => 17
  | .busRx => 18
  | .busTx => 19
  | .flashRd => 20
  | .flashWr => 21
  | .calHits => 22
  | .mgmtCoreRx => 23
  | .mgmtCoreTx => 24
  | .ethRx x => 25 + x.val
  | .ethTx x => 27 + x.val
  | .modulator m => 29 + m.val
  | .laneRx l => 64 + l.val
  | .laneTx l => 96 + l.val
  | .mgmtRx l => 128 + l.val
  | .mgmtTx l => 160 + l.val
  | .dictRx => 188
  | .dictTx => 189

/-- A FIFO's contents. -/
def fifo (p : Part) (f : FifoId) : Fifo := tget {} p.fab.fifos (fifoKey f)

/-- Set a FIFO's contents. -/
def setFifo (f : FifoId) (x : Fifo) (p : Part) : Part :=
  { p with fab := { p.fab with fifos := tput {} p.fab.fifos (fifoKey f) x } }

/-- The clock of the FIFO's island is stopped (R60). -/
def islandStopped (p : Part) (i : Nat) : Bool := bit p.fab.stopped i

/-- The clock of a link's lane quad is stopped: its queues read as full for what enters them and as empty for what leaves
(R60). -/
def linkStopped (p : Part) (k : Nat) : Bool := islandStopped p (laneIsland (laneOfLink k))

/-- An island's status bits: 0 underrun, 1 overrun, 2 high-water seen (R66). -/
def islandBit (i b : Nat) (p : Part) : Part := wr 0x1210 (i + 1) (setBit (rd p 0x1210 (i + 1)) b) p

/-- A write to a full FIFO is ignored: the overrun bit and the overrun counter of its island (R65). -/
def overrun (i : Nat) (p : Part) : Part := bump 0x1211 (i + 1) (islandBit i 1 p)

/-- A read from an empty FIFO: the underrun bit and the underrun counter of its island (R64). -/
def underrun (i : Nat) (p : Part) : Part := bump 0x1212 (i + 1) (islandBit i 0 p)

/-- The high-water mark, three quarters of the depth (R58). -/
def highWater (f : FifoId) : Nat := fifoDepth f * 3 / 4

/-- Whether a FIFO is a lane receive FIFO, whose rises and refusals 1200h counts (R58). -/
def isLaneRx : FifoId → Bool
  | .laneRx _ => true
  | _ => false

/-- Whether a FIFO's producer writes against credits of its own: all but the management channel's full-flag queues, and
the lane receive FIFOs, which link credits guard (R66, R67). -/
def credited : FifoId → Bool
  | .laneRx _ | .mgmtRx _ | .mgmtTx _ | .mgmtCoreRx | .mgmtCoreTx => false
  | _ => true

/-- The side of a FIFO that acts is the island's, and the island's clock is stopped. -/
def sideStopped (p : Part) (f : FifoId) (write : Bool) : Bool :=
  islandStopped p (fifoIsland f) && (fifoTowardCore f == write)

/-- Gray code, and back (R62). -/
def gray (n : Nat) : Nat := n ^^^ (n >>> 1)
@[inherit_doc gray] def ungray (k g : Nat) : Nat := (List.range (k + 1)).foldl (fun a i => a ^^^ (g >>> i)) 0

/-- A pointer of a FIFO counts modulo twice the depth: it is one bit wider than the depth needs (R62). -/
def ptrUp (f : FifoId) (a : Nat) : Nat := (a + 1) % (2 * fifoDepth f)

/-- How far a pointer is ahead of another. -/
def ptrGap (f : FifoId) (a b : Nat) : Nat := (a + 2 * fifoDepth f - b) % (2 * fifoDepth f)

/-- A pointer as its Gray-coded copy tells it. -/
def ptrOf (f : FifoId) (g : Nat) : Nat := ungray (2 * fifoDepth f).log2 g

/-- A copy of a pointer moves on, all but `unseen` of the steps the pointer has made (R62, R63). -/
def copyOn (f : FifoId) (ptr copy unseen : Nat) : Nat :=
  gray ((ptr + 2 * fifoDepth f - min unseen (ptrGap f ptr (ptrOf f copy))) % (2 * fifoDepth f))

/-- The entries a write side believes held: what it has written beyond the reads it has seen (R63). -/
def writerHeld (f : FifoId) (x : Fifo) : Nat := ptrGap f x.wr (ptrOf f x.rdSeen)

/-- The credits a producer holds: one per entry that it knows free; a read's credit comes with the pointer that shows the
read (R67, log 98). -/
def fifoCredit (f : FifoId) (x : Fifo) : Nat := fifoDepth f - writerHeld f x

/-- A write side sees the FIFO as full (R60, R63, R65): by its copy of the read pointer, so it may see 'full' while
entries are free. -/
def seesFull (p : Part) (f : FifoId) : Bool :=
  fifoCredit f (fifo p f) == 0 || (islandStopped p (fifoIsland f) && !fifoTowardCore f)

/-- A read side sees the FIFO as empty (R60, R63, R64): by its copy of the write pointer, so it may see 'empty' while
entries are written. -/
def seesEmpty (p : Part) (f : FifoId) : Bool :=
  ptrOf f (fifo p f).wrSeen == (fifo p f).rd || (fifo p f).q.isEmpty || (islandStopped p (fifoIsland f) && fifoTowardCore f)

/-- The write side's copy of the read pointer moves on; that of a side whose island is stopped waits (R60, R63). -/
def seeReads (f : FifoId) (unseen : Nat) (p : Part) : Part :=
  let x := fifo p f
  onlyIf (!islandStopped p (fifoIsland f)) (setFifo f { x with rdSeen := copyOn f x.rd x.rdSeen unseen }) p

/-- The read side's copy of the write pointer moves on (R63). -/
def seeWrites (f : FifoId) (unseen : Nat) (p : Part) : Part :=
  let x := fifo p f
  onlyIf (!islandStopped p (fifoIsland f)) (setFifo f { x with wrSeen := copyOn f x.wr x.wrSeen unseen }) p

/-- A lane's receive FIFO is read until `left` units stay in it (R58). -/
def drainTo (f : FifoId) (left : Nat) (p : Part) : Part :=
  let x := fifo p f
  let n := x.q.length - left
  if n = 0 then p
  else
    let r := (x.rd + n) % (2 * fifoDepth f)
    setFifo f { x with q := x.q.drop n, last := (x.q.getD (n - 1) x.last), rd := r, wrSeen := gray x.wr, rdSeen := gray r } p

/-- Units land in a FIFO together (R61), and their rise past the high-water mark is seen (R58). -/
def fifoPutAll (f : FifoId) (us : List (Unit21 × Tag)) (p : Part) : Part :=
  let x := fifo p f
  let p := setFifo f { x with q := x.q ++ us, wr := (x.wr + us.length) % (2 * fifoDepth f) } p
  if x.q.length ≤ highWater f ∧ highWater f < x.q.length + us.length then
    onlyIf (isLaneRx f) (bump 0x1200 7) (islandBit (fifoIsland f) 2 p)
  else p

/-- A producer writes a unit into a FIFO. A write to a full one is ignored and counted (R65), but for a producer that
keeps to its credits, which presents nothing then (R67), and a lane's, whose refusal 1200h.08 counts (R58). A FIFO that
reads full for a stopped island alone counts as a full one (DEDUCED, log 98). -/
def fifoWrite (f : FifoId) (unit : Unit21) (tag : Tag) (unseen : Nat) (stray : Bool) (p : Part) : Part :=
  if sideStopped p f true then p
  else
    let p := seeReads f unseen p
    if !seesFull p f then fifoPutAll f [(unit, tag)] p
    else if stray then overrun (fifoIsland f) p
    else if isLaneRx f then bump 0x1200 8 p
    else if credited f then p
    else overrun (fifoIsland f) p

/-- A unit is read from a FIFO; from one seen empty the unit last read again, an underrun (R64; DEDUCED for one that
reads empty for a stopped island alone, log 98). -/
def fifoRead (f : FifoId) (unseen : Nat) (p : Part) : Part :=
  if sideStopped p f false then p
  else
    let p := seeWrites f unseen p
    let x := fifo p f
    if seesEmpty p f then underrun (fifoIsland f) p
    else match x.q with
      | [] => p
      | u :: t => setFifo f { x with q := t, last := u, rd := ptrUp f x.rd } p

/-- ISLAND_FIFO_WRITE (R65). -/
def execIslandFifoWrite (f : FifoId) (unit : Unit21) (tag : Tag) (unseen : Nat) (stray : Bool) (s : State) : Outcome :=
  run (fifoWrite f unit tag unseen stray) s

/-- ISLAND_FIFO_READ (R64). -/
def execIslandFifoRead (f : FifoId) (unseen : Nat) (s : State) : Outcome :=
  run (fifoRead f unseen) s

/-- The FIFOs of an island. -/
def islandFifos (i : Nat) : List FifoId :=
  let lanes (q : Nat) : List FifoId :=
    ((List.finRange 28).filter fun l => l.val / 4 == q).flatMap fun l => [.laneRx l, .laneTx l, .mgmtRx l, .mgmtTx l]
  if i = 0 then [.refPps]
  else if i = 1 then (List.finRange 16).map .collector
  else if i = 2 then [.compares]
  else if i ≤ 9 then lanes (i - 3)
  else if i = 10 then [.ethRx 0, .ethTx 0]
  else if i = 11 then [.ethRx 1, .ethTx 1]
  else if i = 12 then [.mgmtCoreRx, .mgmtCoreTx, .dictRx, .dictTx]
  else if i = 13 then [.busRx, .busTx]
  else if i = 14 then [.flashRd, .flashWr]
  else if i = 16 then (List.finRange 4).map .modulator
  else if i = 17 then [.calHits]
  else []

/-- An island's clock stops: its FIFOs keep their contents (R60). -/
def islandStop (i : Nat) (p : Part) : Part := { p with fab := { p.fab with stopped := setBit p.fab.stopped i } }

/-- Both pointers of a FIFO are reset; the unit last read stays (R60). -/
def fifoFlush (f : FifoId) (p : Part) : Part := setFifo f { last := (fifo p f).last } p

/-- The queues of a link are flushed: trigger requests and commands lost are counted, and management packets and the
stamps of time probes are gone (R60, R67, R165). -/
def flushLink (i k : Nat) (p : Part) : Part :=
  let x := link p k
  let p := onlyIf (i == 2) (setLink k { x with probes := [] }) p
  if laneIsland (laneOfLink k) = i then
    bumpBy x.cmds.length 0x3050 0xA (bumpBy x.reqs.length 0x3050 9 (setLink k { link p k with reqs := [], cmds := [], mgmt := [] } p))
  else p

/-- A stopped island's owner flushes its FIFOs, and its clock restarts (R60). -/
def islandRestart (i : Nat) (p : Part) : Part :=
  if islandStopped p i then
    let p := forEach (List.range 18) (flushLink i) (forEach (islandFifos i) fifoFlush p)
    { p with fab := { p.fab with stopped := clrBit p.fab.stopped i } }
  else p

/-- ISLAND_CLOCK_STOP (R60). -/
def execIslandClockStop (i : Fin 18) (s : State) : Outcome := run (islandStop i.val) s

/-- ISLAND_CLOCK_RESTART (R60). -/
def execIslandClockRestart (i : Fin 18) (s : State) : Outcome :=
  run (islandRestart i.val) s

end Sys2Proof.Machine
end

