-- ==== Sys2Proof/Machine/Stamp.lean ====
section
/-! DEFINITION. From ring state to ticks: the raw capture, the converter, the bin-edge tables (R103 to R113). -/
namespace Sys2Proof.Machine

/-- A group's state. -/
def grp (p : Part) (g : Nat) : Grp := tget {} p.front.grps g

/-- Set a group's state. -/
def setGrp (g : Nat) (x : Grp) (p : Part) : Part := { p with front := { p.front with grps := tput {} p.front.grps g x } }

/-- Entry r of a bin-edge table; the default table is e[r] = 256 r (R116). -/
def edgeOf (t : List Nat) (r : Nat) : Nat := if t.isEmpty then 256 * r else t.getD r 0

/-- The table that converts a capture latched in a coarse cycle with this base (R113). -/
def tabAt (t : BinTab) (base : Nat) : List Nat := if base < t.start then t.prev else t.edges

/-- The table that converts a capture of a calibration unit: while its completion is the first request pending at the
arbiter, captures from the boundary on wait for the grant, which takes the new table (R113). -/
def unitTab (p : Part) (u : CalUnit) (t : BinTab) (base : Nat) : List Nat :=
  match (arbOf p (.cal u)).head?, p.cal.accepted with
  | some r, some new => if r.kind = .completion ∧ before base p.cal.commitB = false then new else tabAt t base
  | _, _ => tabAt t base

/-- A new table becomes active at a boundary (R113). -/
def BinTab.commit (t : BinTab) (new : List Nat) (b : Nat) : BinTab := { edges := new, prev := t.edges, start := b }

/-- The coarse count modulo 16 and the ring-cycle index at this moment (R104, R105). -/
def c4Now (p : Part) : Nat := p.clk.rp / 8 % 16
def kNow (p : Part) : Nat := p.clk.rp % 8

/-- The base of the latest coarse cycle, not after the current one, whose count modulo 16 is `c4` (R106). -/
def baseOf (p : Part) (c4 : Nat) : Nat := p.clk.bases.getD ((p.clk.rp / 8 + 16 - c4 % 16) % 16) 0

/-- The raw fine code of R103. -/
def rawCode (tap : Nat) (h : Bool) : Nat := 2 * tap + (if h then 1 else 0)

/-- The converter of R106: the stamp of a raw capture, from the bin-edge table, the dither u and the offsets. -/
def convert (base k r u : Nat) (tab : List Nat) (off : Int) : Nat :=
  let w := edgeOf tab (r + 1) - edgeOf tab r
  let f : Int := (edgeOf tab r : Int) + (u * w / 256 : Nat) + off
  (((base + 128 * k : Nat) : Int) + f / 256).toNat % 2 ^ 80

/-- One step of the dither register (R107). -/
def lfsrStep (x : Nat) : Nat :=
  let b := (x ^^^ (x >>> 2) ^^^ (x >>> 3) ^^^ (x >>> 5)) % 2
  x / 2 + b * 2 ^ 15

/-- The dither u of R107: bits [15:8] of the register, or 128 while dither is off. -/
def ditherOf (on : Bool) (x : Nat) : Nat := if on then bits x 15 8 else 128

/-- The offsets of an input: distribution, vendor and trim, in 1/256 tk (R106, R108). -/
def inputOffset (p : Part) (n : Nat) : Int :=
  s20 (rd p 0x20A0 (n / 16 + 1)) + s20 (rd p (0x20B0 + n / 16) (n % 16 + 1)) + s20 (eff p (0x20C0 + n / 16) (n % 16 + 1))

/-- The stamp of a comparator edge captured now (R106). -/
def hitStamp (p : Part) (n tap : Nat) (h : Bool) : Nat :=
  let g := grp p (n / 16)
  let base := baseOf p (c4Now p)
  convert base (kNow p) (rawCode tap h) (ditherOf (eff p 0x2083 5 == 1) g.lfsr)
    (unitTab p (.group (Fin.ofNat 16 (n / 16))) g.tab base) (inputOffset p n)

/-- The dither register of an input's group advances once (R107). -/
def ditherNext (n : Nat) (p : Part) : Part :=
  let g := grp p (n / 16)
  setGrp (n / 16) { g with lfsr := lfsrStep g.lfsr } p

/-- The pins of the auxiliary latch (R131): their offsets are 210Ah.01 to .04. -/
inductive AuxPin where
  | ref | pps | trigIn | trigNb
  deriving DecidableEq, Repr, Inhabited

/-- The sub-entry of 210Ah that holds a pin's offset. -/
def AuxPin.sub : AuxPin → Nat
  | .ref => 1
  | .pps => 2
  | .trigIn => 3
  | .trigNb => 4

/-- The stamp of a pin edge on the auxiliary latch captured now: no trim, and the dither u is 128 (R131). -/
def auxStamp (p : Part) (pin : AuxPin) (tap : Nat) (h : Bool) : Nat :=
  let base := baseOf p (c4Now p)
  convert base (kNow p) (rawCode tap h) 128 (unitTab p .aux p.cal.aux base) (s20 (rd p 0x210A 5) + s20 (rd p 0x210A pin.sub))

/-- The bin-edge table of a lane quad's latch (R343). -/
def quadTab (p : Part) (q : Nat) : BinTab := tget {} p.cal.quads q

/-! ### Source events of the interval unit (R131) -/

/-- The era of a capture stamped `x` that has just been converted: a forward step applied since lies after it. -/
def eraOf : List (Nat × Int × Nat) → (era x : Nat) → Nat
  | s :: l, era, x => if 0 < s.2.1 ∧ before x s.1 = true then eraOf l (era - 1) x else era
  | [], era, _ => era

/-- A stamped event of a source of the measurement in progress is on its way to the interval unit (R131, R136). -/
def ivArrive (code stamp flags : Nat) (p : Part) : Part :=
  if rd p 0x2102 1 = 1 ∧ (p.iv.src = code ∨ p.iv.dst = code) then
    { p with iv := { p.iv with inbox := p.iv.inbox ++ [(code, { stamp, flags, era := eraOf p.clk.steps p.clk.era stamp })] } }
  else p

/-- The code of an edge of a pin source (R130). -/
def pinCode (pin : AuxPin) (rising : Bool) : Nat :=
  (match pin with | .ref => 0x20000 | .pps => 0x30000 | .trigIn => 0x40000 | .trigNb => 0x50000) + (if rising then 32 else 0)

/-- An edge of a pin on the auxiliary latch, on its way to the interval unit (R131). -/
def pinArrive (pin : AuxPin) (rising : Bool) (stamp : Nat) (p : Part) : Part := ivArrive (pinCode pin rising) stamp 0 p

/-! ### Histograms and tables (R111, R112) -/

/-- Round to nearest, halves up (R111). -/
def roundUpHalf (a b : Nat) : Nat := (2 * a + b) / (2 * b)

/-- The new table from the counts, with running sum `acc` and `k` codes to go (R111). -/
def tableFrom (hist : Table Nat) (n : Nat) : (k r acc : Nat) → List Nat
  | 0, _, acc => [roundUpHalf (32768 * acc) n]
  | k + 1, r, acc => roundUpHalf (32768 * acc) n :: tableFrom hist n k (r + 1) (acc + tget 0 hist r)

/-- The new table of a histogram of N hits: e[0] to e[128] (R111). -/
def newTable (hist : Table Nat) (n : Nat) : List Nat := tableFrom hist n 128 0 0

/-- Whether every width lies between 64 and 448 (R112). -/
def widthsOk : List Nat → Bool
  | a :: b :: t => decide (64 ≤ b - a ∧ b - a ≤ 448) && widthsOk (b :: t)
  | _ => true

/-- The largest deviation of a width from 256 (2087h). -/
def largestDev : List Nat → Nat
  | a :: b :: t => max (Int.natAbs (((b : Int) - a) - 256)) (largestDev (b :: t))
  | _ => 0

end Sys2Proof.Machine
end

