-- ==== Sys2Proof/Machine/Hits.lean ====
section
/-! DEFINITION. Comparators, merge windows, edge buffers and collectors (R77 to R91). -/
namespace Sys2Proof.Machine

/-- A comparator's state. -/
def comp (p : Part) (n t : Nat) : Comp := tget {} p.front.comps (4 * n + t)

/-- Set a comparator's state. -/
def setComp (n t : Nat) (x : Comp) (p : Part) : Part :=
  { p with front := { p.front with comps := tput {} p.front.comps (4 * n + t) x } }

/-- A group's enable in effect (R78). -/
def groupOn (p : Part) (g : Nat) : Bool := frontOn p && eff p 0x2000 (g + 1) == 1

/-- A comparator records: its group and its own bit are enabled (R78). -/
def compOn (p : Part) (n t : Nat) : Bool :=
  groupOn p (n / 16) && bit (eff p 0x2002 (4 * (n / 16) + t + 1)) (n % 16)

/-- The threshold of a comparator in microvolts: (c − 512) × 1.955 mV (R80). -/
def thresholdUV (p : Part) (n t : Nat) : Int :=
  ((bits (eff p (0x2010 + n / 16) (4 * (n % 16) + t + 1)) 9 0 : Int) - 512) * 1955

/-- The hysteresis of a comparator in millivolts (R80). -/
def hysteresisMV (p : Part) (n t : Nat) : Nat := bits (eff p (0x2020 + n / 16) (4 * (n % 16) + t + 1)) 3 0

/-- A comparator recorded at a system time (R78, R82). -/
def compOnAt (p : Part) (n t x : Nat) : Bool :=
  (match p.pow.role with | .leaf => true | .bough => effAt p 0x4021 1 x == 1) && effAt p 0x2000 (n / 16 + 1) x == 1 &&
    bit (effAt p 0x2002 (4 * (n / 16) + t + 1) x) (n % 16)

/-- The input's pins are cut off from its comparators: isolation is set, the generator is on and the input is pulsed
(R98). -/
def cutOff (p : Part) (n : Nat) : Bool :=
  eff p (0x2030 + n / 16) 7 == 1 && eff p (0x2030 + n / 16) 1 != 0 && bit (eff p (0x2030 + n / 16) 2) (n % 16)

/-- What the group's test pulse in progress adds to the voltage at an input, in microvolts (R98). -/
def pulseUV (p : Part) (n : Nat) : Int :=
  if (grp p (n / 16)).tpSpans.any fun (a, b, m) => decide (a ≤ now p ∧ now p + 1024 < b) && bit m (n % 16) then
    4000 * eff p (0x2030 + n / 16) 3 else 0

/-- The voltage that the comparators of an input see, in microvolts: the voltage at its pins, unless they are cut off, as
its polarity has it, and the test pulse (R79, R98). -/
def seenUV (p : Part) (n : Nat) (uv : Int) : Int :=
  (if cutOff p n then 0 else if bit (eff p 0x2001 (n / 16 + 1)) (n % 16) then -uv else uv) + pulseUV p n

/-- A comparator's output after its last edge captured. -/
def Comp.outNow (c : Comp) : Bool := match c.raw.getLast? with | some e => e.lead | none => c.out

/-- The edge a comparator makes as its pins reach a voltage: leading above its threshold, trailing below the threshold
minus its hysteresis (R80). -/
def crossing (p : Part) (n t : Nat) (uv : Int) : Option Bool :=
  if (comp p n t).outNow then
    if seenUV p n uv < thresholdUV p n t - 1000 * hysteresisMV p n t then some false else none
  else if thresholdUV p n t < seenUV p n uv then some true else none

/-- The length of a merge window (R85). -/
def mergeTk : Nat := 256

/-- Whether an edge at `x` lies less than 64 tk after the leading edge (R87). -/
def isNear (lead : Nat) (first : Option Nat) : Bool :=
  match first with
  | some x => decide (x < lead + 64)
  | none => false

/-- The merge window closes: the leading record, and the trailing record where the output is low, are recorded;
where it is high, the first trailing edge to come is the one (R85 to R87). -/
def closeWin (n t : Nat) (c : Comp) (w : Win) : Comp :=
  let mrg := decide (0 < w.absorbed)
  let near := isNear w.lead w.firstTrail
  let l : Edge := { n, t, lead := true, stamp := w.lead, mrg, near }
  if c.out then { c with win := none, pend := c.pend ++ [l], await := some (mrg, near) }
  else match w.lastTrail with
    | some x => { c with win := none, pend := c.pend ++ [l, { l with lead := false, stamp := x }] }
    | none => { c with win := none, pend := c.pend ++ [l] }

/-- A window whose end lies at or before `x` closes first (R85). -/
def closeIfOver (n t x : Nat) (c : Comp) : Comp :=
  match c.win with
  | some w => if w.lead + mergeTk ≤ x then closeWin n t c w else c
  | none => c

/-- A leading edge at `x` (R85): absorbed in an open window, or the start of a new one. -/
def leadAt (x : Nat) (c : Comp) : Comp :=
  match c.win with
  | some w => { c with out := true, win := some { w with absorbed := w.absorbed + 1 } }
  | none =>
    if x < c.mute then { c with out := true }
    else { c with out := true, skip := false, await := none, win := some { lead := x } }

/-- A trailing edge at `x` (R84, R85): discarded after a resumption, kept in an open window, or the edge awaited. -/
def trailAt (n t x : Nat) (c : Comp) : Comp :=
  let c := { c with out := false }
  if c.skip then { c with skip := false }
  else match c.win with
    | some w => { c with win := some { w with firstTrail := some (w.firstTrail.getD x), lastTrail := some x } }
    | none =>
      match c.await with
      | some (mrg, near) => { c with await := none, pend := c.pend ++ [{ n, t, lead := false, stamp := x, mrg, near }] }
      | none => c

/-- A comparator stops recording: an open window's trailing edge is chosen now, if its output is low; otherwise no
trailing record follows (R84). -/
def stopRecording (n t : Nat) (c : Comp) : Comp :=
  match c.win with
  | some w => { closeWin n t c w with await := none }
  | none => { c with await := none }

/-- A manual closure takes effect: a merge window still open with the output low is closed, and what is left of it
takes no further leading edge (R84, R85, R96). -/
def shutRecording (n t b : Nat) (c : Comp) : Comp :=
  match c.win with
  | some w => if !c.out && b < w.lead + mergeTk then { closeWin n t c w with mute := w.lead + mergeTk } else c
  | none => c

/-- A stop at a boundary not after `x` takes effect before what is stamped `x` (R84, R109). -/
def stopIfDue (n t x : Nat) (c : Comp) : Comp :=
  match c.stopAt with
  | some (b, shut) =>
    if b ≤ x then
      let c := { closeIfOver n t b c with stopAt := none }
      if shut then shutRecording n t b c else stopRecording n t c
    else c
  | none => c

/-- Blanking that ended at or before `x` is over: a pulse in progress loses its trailing edge (R83, R84). -/
def resume (x : Nat) (c : Comp) : Comp :=
  match c.blank with
  | some (_, b) => if b ≤ x then { c with blank := none, skip := c.out } else c
  | none => c

/-- A comparator is blanked at `x` (R83); just after a backward step all of them are (R340). -/
def blankAt (p : Part) (c : Comp) (x : Nat) : Bool :=
  afterBackStep p x || (match c.blank with | some (a, b) => decide (a ≤ x ∧ x < b) | none => false)

/-- An edge is judged by its stamp, the time at which it occurs (R83 to R85, R109). -/
def judgeEdge (n t : Nat) (e : RawEdge) (p : Part) : Part :=
  let x := e.stamp
  let c := resume x (stopIfDue n t x (comp p n t))
  if !e.live || !compOnAt p n t x then setComp n t { c with out := e.lead } p
  else if blankAt p c x then
    let p := setComp n t { c with out := e.lead } (bump 0x2053 (n / 16 + 1) p)
    { p with front := { p.front with blankLog := p.front.blankLog ++ [(x, 4 * n + t)] } }
  else
    let c := closeIfOver n t x c
    setComp n t (if e.lead then leadAt x c else trailAt n t x c) p

/-- The edges of a comparator stamped before `x` are judged in the order of their stamps. -/
def judgeTo (n t x : Nat) : (fuel : Nat) → Part → Part
  | 0, p => p
  | k + 1, p =>
    match (comp p n t).raw with
    | e :: l => if e.stamp < x then judgeTo n t x k (judgeEdge n t e (setComp n t { comp p n t with raw := l } p)) else p
    | [] => p

/-- The edges whose stamps the clock has reached are judged. -/
def judgeNow (n t : Nat) (p : Part) : Part := judgeTo n t (now p + 1) (comp p n t).raw.length p

/-- An edge takes its place among those captured, by its stamp. -/
def insRaw (e : RawEdge) : List RawEdge → List RawEdge
  | [] => [e]
  | x :: l => if e.stamp < x.stamp then e :: x :: l else x :: insRaw e l

/-- The pins of an input reach a voltage now: an edge that this makes of a comparator is captured, stamped and judged
(R79, R80, R106, R107). -/
def comparatorEdge (n t : Nat) (uv : Int) (tap : Nat) (h : Bool) (p : Part) : Part :=
  match crossing p n t uv with
  | none => p
  | some lead =>
    let e : RawEdge := { stamp := hitStamp p n tap h, lead, live := compOn p n t }
    let p := onlyIf e.live (ditherNext n) p
    let c := comp p n t
    judgeNow n t (setComp n t { c with raw := insRaw e c.raw } p)

/-- COMPARATOR_EDGE (R80). -/
def execComparatorEdge (dt : Nat) (n : Fin 256) (t : Fin 4) (uv : Int) (tap : Fin 64) (h : Bool) (s : State) : Outcome :=
  run (fun p => comparatorEdge n.val t.val uv tap.val h (advance dt p)) s

/-- By when every edge stamped before a moment has been captured: no offset exceeds 512 tk (R108, R109). -/
def captureTk : Nat := 512

/-- MERGE_WINDOW_END (R85): the window closes once every edge stamped within 256 tk of its leading edge is known. -/
def mergeWindowEnd (n t : Nat) (p : Part) : Part :=
  match (comp p n t).win with
  | some w =>
    let p := judgeNow n t (advanceTo (w.lead + mergeTk + captureTk) p)
    let x := w.lead + mergeTk
    setComp n t (closeIfOver n t x (stopIfDue n t x (comp p n t))) p
  | none => p

/-- MERGE_WINDOW_END (R85). -/
def execMergeWindowEnd (n : Fin 256) (t : Fin 4) (s : State) : Outcome := run (mergeWindowEnd n.val t.val) s

/-- Blanking ends: once every edge stamped before its end is known, the comparator resumes (R83, R84). -/
def blankingEnd (n t : Nat) (p : Part) : Part :=
  match (comp p n t).blank with
  | some (_, b) =>
    let p := judgeNow n t (advanceTo (b + captureTk) p)
    setComp n t (resume b (stopIfDue n t b (comp p n t))) p
  | none => p

/-- BLANKING_END (R83). -/
def execBlankingEnd (n : Fin 256) (t : Fin 4) (s : State) : Outcome := run (blankingEnd n.val t.val) s

/-- A record of a pulsed input lies in a test-pulse span (R99). -/
def inTpSpan (p : Part) (n x : Nat) : Bool :=
  (grp p (n / 16)).tpSpans.any fun (a, b, m) => decide (a ≤ x ∧ x < b) && bit m (n % 16)

/-- The code of a comparator's edge as an interval source (R130). -/
def compCode (n t : Nat) (lead : Bool) : Nat := 0x10000 + n * 256 + t * 64 + (if lead then 32 else 0)

/-- The flags of an edge as the interval unit takes them: bit 1 MRG, bit 2 NEARE, bit 5 TP (R131, R138). -/
def ivFlags (mrg near tp : Bool) : Nat := (if mrg then 2 else 0) + (if near then 4 else 0) + (if tp then 32 else 0)

/-- A recorded edge reaches its edge buffer: a leading edge needs two free entries, or its pulse is dropped (R86 to R88).
The interval unit takes it there, whether or not the buffer does (R131). -/
def enterBuffer (n t : Nat) (e : Edge) (p : Part) : Part :=
  let c := comp p n t
  let g1 := n / 16 + 1
  let e := { e with tp := inTpSpan p n e.stamp, mrg := if e.lead then e.mrg || c.lost else c.pulseMrg }
  let p := ivArrive (compCode n t e.lead) e.stamp (ivFlags e.mrg e.near e.tp) p
  let c := { c with pend := c.pend.tail, pulseMrg := e.mrg }
  let loss := fun (q : Part) => { q with front := { q.front with lossLog := q.front.lossLog ++ [(e.stamp, 4 * n + t)] } }
  if e.lead then
    if c.buf.length ≤ 6 then
      let p := onlyIf e.mrg (bump 0x2051 g1) p
      let p := onlyIf e.near (bump 0x2052 g1) p
      setComp n t { c with buf := c.buf ++ [e], dropping := false, lost := false } p
    else loss (setComp n t { c with dropping := true, lost := true } (bumpBy 2 0x2050 g1 p))
  else if c.dropping then loss (setComp n t { c with dropping := false } p)
  else setComp n t { c with buf := c.buf ++ [e] } p

/-- EDGE_BUFFER_ENTRY (R88): 1,024 tk after its stamp. -/
def edgeBufferEntry (n t : Nat) (p : Part) : Part :=
  match (comp p n t).pend with
  | e :: _ => enterBuffer n t e (advanceTo (e.stamp + 1024) p)
  | [] => p

/-- EDGE_BUFFER_ENTRY (R88). -/
def execEdgeBufferEntry (n : Fin 256) (t : Fin 4) (s : State) : Outcome := run (edgeBufferEntry n.val t.val) s

/-! ### Collectors and derandomisers (R89, R91) -/

/-- Whether edge `a` goes before edge `b`: by time, then input, then threshold (R89, R91). -/
def edgeBefore (a b : Edge) : Bool :=
  decide (a.stamp < b.stamp) || (a.stamp == b.stamp && (decide (a.n < b.n) || (a.n == b.n && decide (a.t < b.t))))

/-- The first of a list of edges in that order; of equal ones the first in the list. -/
def firstEdge : List Edge → Option Edge
  | [] => none
  | e :: es =>
    match firstEdge es with
    | some f => some (if edgeBefore f e then f else e)
    | none => some e

/-- The comparators of a group: input and threshold. -/
def groupComps (g : Nat) : List (Nat × Nat) :=
  (List.range 64).map fun i => (16 * g + i / 4, i % 4)

/-- The oldest edge held in a group's buffers (R89). -/
def oldestBuffered (p : Part) (g : Nat) : Option Edge :=
  firstEdge ((groupComps g).filterMap fun nt => (comp p nt.1 nt.2).buf.head?)

/-- How many records a group's stream holds: 32 in its island FIFO of 64 units and 1,024 in its derandomiser (R66, R91). -/
def streamDepth : Nat := 1056

/-- A group collector takes the oldest edge, if the FIFO grants it a credit (R67, R89). Edges recorded before their
group's disabling took effect are still taken (DESIGN CHOICE, log 100); while the ring's island is stopped the collector
stands (R60). -/
def collectorTake (g : Nat) (p : Part) : Part :=
  let x := grp p g
  if decide (streamDepth ≤ x.stream.length) || islandStopped p 1 then p
  else match oldestBuffered p g with
    | some e =>
      let c := comp p e.n e.t
      let p := setComp e.n e.t { c with buf := c.buf.tail } p
      setGrp g { x with stream := x.stream ++ [.edge e] } p
    | none => p

/-- COLLECTOR_TAKE (R89). -/
def execCollectorTake (g : Fin 16) (s : State) : Outcome := run (collectorTake g.val) s

/-- The time below which a group can hold no edge any more: edges enter their buffers 1,024 tk after their stamps,
and edges recorded but not yet entered hold the mark back (R88, R89). -/
def markTime (p : Part) (g : Nat) : Nat :=
  (groupComps g).foldl (fun m nt =>
    let c := comp p nt.1 nt.2
    let m := match c.pend.head? with | some e => min m e.stamp | none => m
    match c.win with | some w => min m w.lead | none => m) (now p - 1024)

/-- A collector that holds no edge sends a time mark (R89). -/
def collectorTimeMark (g : Nat) (p : Part) : Part :=
  let x := grp p g
  if !groupOn p g || decide (streamDepth ≤ x.stream.length) || islandStopped p 1 then p
  else match oldestBuffered p g with
    | some _ => p
    | none => setGrp g { x with stream := x.stream ++ [.mark (markTime p g)] } p

/-- COLLECTOR_TIME_MARK (R89). -/
def execCollectorTimeMark (g : Fin 16) (s : State) : Outcome := run (collectorTimeMark g.val) s

/-- The earliest stamp of the edges that a group has recorded and not yet passed to its collector (R90). -/
def groupPending (p : Part) (g : Nat) : Option Nat :=
  let stamps := (groupComps g).flatMap fun nt =>
    let c := comp p nt.1 nt.2
    ((c.raw.filter (·.live)).map (·.stamp)).take 1 ++ (c.win.map (·.lead)).toList ++ (c.pend.map (·.stamp)).take 1 ++ (c.buf.map (·.stamp)).take 1
  stamps.min?

/-! ### Shutter windows and reopening (R92, R94) -/

/-- The length of a shutter window in ticks (R92). -/
def shutterWindowTk (p : Part) (g : Nat) : Nat := eff p (0x2040 + g) 2 * 32768

/-- From when a comparator's leading records are counted: its window start, its last reopening, or the boundary that
enabled the shutter, whichever is last (R92); a start that a forward step skipped does not occur (R338). -/
def countFrom (p : Part) (g x : Nat) (c : Comp) : Nat :=
  let w := effAt p (0x2040 + g) 2 x * 32768
  let reopened := c.spans.foldl (fun m s => match s.stop with | some e => if e ≤ x then max m e else m | none => m) 0
  let start := x / max 1 w * w
  let start := match skippedAt p start with | some y => (y - 1) / max 1 w * w | none => start
  max start (max reopened (changedBy p (0x2040 + g) 1 x))

/-- A new shutter window begins: counts are kept by window, so every comparator of the group starts from zero in it; counts
of windows that the stage has left behind are let go (R92). -/
def shutterWindowStart (g : Nat) (p : Part) : Part :=
  if groupOn p g && eff p (0x2040 + g) 1 == 1 then
    let w := shutterWindowTk p g
    let cur := now p / w * w
    let start := if (grp p g).window < cur ∧ skippedAt p cur = none then cur else cur + w
    let p := advanceTo start p
    let p := forEach (groupComps g) (fun nt q =>
      let c := comp q nt.1 nt.2
      let from_ := countFrom q g q.front.released c
      setComp nt.1 nt.2 { c with counts := c.counts.filter fun kv => decide (from_ ≤ kv.1) } q) p
    setGrp g { grp p g with window := start } p
  else p

/-- SHUTTER_WINDOW_START (R92). -/
def execShutterWindowStart (g : Fin 16) (s : State) : Outcome := run (shutterWindowStart g.val) s

/-- Insert a marker in the order of R91: by time, input and threshold. -/
def insMarker (m : Marker) : List Marker → List Marker
  | [] => [m]
  | x :: t =>
    if m.stamp < x.stamp ∨ (m.stamp = x.stamp ∧ (m.n < x.n ∨ (m.n = x.n ∧ m.t < x.t))) then m :: x :: t
    else x :: insMarker m t

/-- A marker waits to be merged into the stream (R91). -/
def addMarker (m : Marker) (p : Part) : Part := { p with front := { p.front with markers := insMarker m p.front.markers } }

/-- A comparator's shutter reopens at `x`: its closed interval ends, its count restarts, and a reopen marker is
emitted, in place of one that was to come later (R92, R94, R96). -/
def reopenAt (n t x : Nat) (p : Part) : Part :=
  let c := comp p n t
  let spans := match c.spans with
    | sp :: r => { sp with stop := some x } :: r
    | [] => []
  let ms := p.front.markers.filter fun m => !(m.n == n && m.t == t && !m.close && decide (x < m.stamp))
  addMarker { n, t, close := false, stamp := x } (setComp n t { c with closed := false, spans } { p with front := { p.front with markers := ms } })

/-- SHUTTER_REOPEN (R94): the hold time of a closed shutter expires. -/
def shutterReopen (n t : Nat) (p : Part) : Part :=
  let c := comp p n t
  match c.spans with
  | { start := _, stop := some x } :: _ => if c.closed then reopenAt n t x (advanceTo x p) else p
  | _ => p

/-- SHUTTER_REOPEN (R94). -/
def execShutterReopen (n : Fin 256) (t : Fin 4) (s : State) : Outcome := run (shutterReopen n.val t.val) s

/-! ### Test pulses (R98, R99) -/

/-- The end of the forward step that skipped system time `x` (R338). -/
def skipEnd (p : Part) (x : Nat) : Option Nat :=
  (p.clk.steps.find? fun s => decide (0 < s.2.1) && decide (s.1 ≤ x) && decide ((x : Int) < s.1 + s.2.1)).map
    fun s => s.1 + s.2.1.toNat

/-- The first of a series t0 + k·per at or after `lo` that no forward step skipped (R98, R338). -/
def firstOfSeries (p : Part) (t0 per : Nat) : (fuel lo : Nat) → Nat
  | 0, lo => if lo ≤ t0 then t0 else t0 + ceilDiv (lo - t0) per * per
  | k + 1, lo =>
    let x := if lo ≤ t0 then t0 else t0 + ceilDiv (lo - t0) per * per
    match skipEnd p x with
    | some e => firstOfSeries p t0 per k e
    | none => x

/-- The start of the next pulse of a group's generator: the first-pulse time, or in mode 2 the first of its series
that begins at or after the boundary of the settings and after the last one made (R98). A pulse whose time a forward
step skipped does not occur (R338). -/
def nextPulse (p : Part) (g : Nat) : Option Nat :=
  let x := grp p g
  let mode := eff p (0x2030 + g) 1
  let t0 := eff p (0x2030 + g) 6
  if mode = 1 then (if x.genFrom ≤ t0 ∧ x.genLast = none ∧ skipEnd p t0 = none then some t0 else none)
  else if mode = 2 then
    let lo := match x.genLast with | some y => max (y + 1) x.genFrom | none => x.genFrom
    some (firstOfSeries p t0 (eff p (0x2030 + g) 5 * 128) 8 lo)
  else none

/-- A group's generator makes a pulse at its time and counts it (R98); its span marks records TP (R99). -/
def testPulse (g : Nat) (p : Part) : Part :=
  match nextPulse p g with
  | some x =>
    let p := advanceTo x p
    let p := bump (0x2030 + g) 8 p
    let y := grp p g
    let span := (x, x + eff p (0x2030 + g) 4 * 128 + 1024, eff p (0x2030 + g) 2)
    setGrp g { y with genLast := some x, tpSpans := span :: y.tpSpans.filter fun (_, b, _) => decide (now p ≤ b + 4096) } p
  | none => p

/-- TEST_PULSE (R98). -/
def execTestPulse (g : Fin 16) (s : State) : Outcome := run (testPulse g.val) s

end Sys2Proof.Machine
end

