-- ==== Sys2Proof/Machine/Reply.lean ====
section
/-! DEFINITION. Frames of the dictionary protocol, how they leave the part, and the answers to requests (R416, R436,
R446 to R456, R464 to R469). -/
namespace Sys2Proof.Machine

/-! ### Frames (R447 to R449) -/

/-- A frame by its fields. -/
structure Frame where
  kind : Nat
  flags : Nat
  addr : Nat
  host : Nat
  sess : Nat
  body : List Nat
  deriving DecidableEq, Repr, Inhabited

def Frame.up (f : Frame) : Bool := bit f.flags 7
def Frame.bc (f : Frame) : Bool := bit f.flags 6
def Frame.ser (f : Frame) : Bool := bit f.flags 5
def Frame.more (f : Frame) : Bool := bit f.flags 4
def Frame.tier (f : Frame) : Nat := f.flags % 8

/-- The octets of a frame from the kind to the end of its body. -/
def Frame.head (f : Frame) : List Nat :=
  [f.kind, f.flags] ++ toOctets 3 f.addr ++ [f.host % 16 * 16 + f.sess % 16] ++ toOctets 2 f.body.length ++ f.body

/-- The octets of a frame from the kind to its check. -/
def Frame.octets (f : Frame) : List Nat := f.head ++ toOctets 4 (crc32 f.head)

/-- The kinds of R449. -/
def kOpen : Nat := 0x01
def kChallenge : Nat := 0x02
def kProve : Nat := 0x03
def kOpened : Nat := 0x04
def kRequest : Nat := 0x10
def kResponse : Nat := 0x11
def kBroadcast : Nat := 0x12
def kSummary : Nat := 0x13
def kDiscover : Nat := 0x20
def kIdentity : Nat := 0x21
def kCrown : Nat := 0x30
def kPoll : Nat := 0x40
def kEmpty : Nat := 0x41
def kError : Nat := 0x50
def kUnreachable : Nat := 0x51

def downKinds : List Nat := [kOpen, kProve, kRequest, kBroadcast, kDiscover, kPoll]
def upKinds : List Nat := [kChallenge, kOpened, kResponse, kSummary, kIdentity, kCrown, kEmpty, kError, kUnreachable]

/-- The frame that octets spell, if its length, check, kind and reserved bits are right (R446 to R448). -/
def frameOf (os : List Nat) : Option Frame :=
  match os with
  | k :: fl :: a2 :: a1 :: a0 :: hs :: n1 :: n0 :: t =>
    let n := n1 * 256 + n0
    let f : Frame := { kind := k, flags := fl, addr := ofOctets [a2, a1, a0], host := hs / 16, sess := hs % 16, body := t.take n }
    if decide (t.length = n + 4) && decide (n ≤ 512) && decide (t.drop n = toOctets 4 (crc32 f.head)) && os.all (fun o => decide (o < 256)) &&
      (downKinds ++ upKinds).contains k && !bit fl 3 && decide (a2 < 16) then some f else none
  | _ => none

/-- The body length a frame claims. -/
def claimedLength (os : List Nat) : Nat := ofOctets ((os.drop 6).take 2)

/-! ### The part's place (R444, R455) -/

/-- The part holds an address. -/
def addressed (p : Part) : Bool := rd p 0x1100 3 != 0
def ownAddr (p : Part) : Nat := rd p 0x1100 1
def ownTier (p : Part) : Nat := rd p 0x1100 2
/-- The die serial number. -/
def ownSerial (p : Part) : Nat := rd p 0 6

/-- ASCII octets of the strings that frames are keyed with (R460, R461, R468): ULRS- and four letters. -/
def ulrs (t : List Nat) : List Nat := [0x55, 0x4C, 0x52, 0x53, 0x2D] ++ t
def strOpen : List Nat := ulrs [0x4F, 0x50, 0x45, 0x4E]
def strAcpt : List Nat := ulrs [0x41, 0x43, 0x50, 0x54]
def strSkey : List Nat := ulrs [0x53, 0x4B, 0x45, 0x59]
def strWrap : List Nat := ulrs [0x57, 0x52, 0x41, 0x50]
def strBcst : List Nat := ulrs [0x42, 0x43, 0x53, 0x54]

/-- A slot's key as 32 octets: slot 0 holds the Vendor key until it is written (R460). -/
def slotKey (p : Part) (s : Nat) : List Nat :=
  toOctets 32 (if s = 0 ∧ rd p 0x1310 2 = 0 then Config.vendorKey else rd p (0x1310 + s) 1)

/-! ### Ways out (R450, R452, R454, R456) -/

/-- Packets of a frame in band: 32 octets each, marked by segment (R310, R456). -/
def chunks32 : Nat → List Nat → List (List Nat)
  | 0, _ => []
  | n + 1, os => if os.isEmpty then [] else os.take 32 :: chunks32 n (os.drop 32)

/-- Two octets per word, the first in [15:8]. -/
def pairWords : List Nat → List Nat
  | a :: b :: t => (a * 256 + b) :: pairWords t
  | [a] => [a * 256]
  | [] => []

/-- A management packet with H = 0 (R310). -/
def framePacket (seg : Nat) (os : List Nat) : List Nat :=
  (5 * 2 ^ 16 + seg * 2 ^ 14 + os.length % 2 * 2 ^ 12 + (os.length + 1) / 2) :: pairWords os

/-- The packets of a frame: 00b alone, or 01b, 10b and 11b. -/
def framePackets (os : List Nat) : List (List Nat) :=
  let cs := chunks32 (os.length + 1) os
  if cs.length ≤ 1 then cs.map (framePacket 0)
  else (List.range cs.length).map fun i => framePacket (if i = 0 then 1 else if i + 1 = cs.length then 3 else 2) (cs.getD i [])

/-- A frame joins a link's management queue, or is lost where the queue has no room for its first packet (R67, R456). -/
def sendInBand (k : Nat) (os : List Nat) (p : Part) : Part :=
  if rd p 0x1300 5 = 0 then p
  else
    let x := link p k
    let ps := framePackets os
    let used := x.mgmt.foldl (fun a w => a + w.length) 0
    if used + (ps.headD []).length ≤ 64 ∧ linkStopped p k = false then setLink k { x with mgmt := x.mgmt ++ ps } p
    else overrun (laneIsland (laneOfLink k)) p

/-- Take the first frame of a kind out of a queue. -/
def dropKind (k : Nat) : List (List Nat) → Option (List (List Nat))
  | [] => none
  | f :: t => if f.head? = some k then some t else (dropKind k t).map (f :: ·)

/-- A frame arrives at the upward queue of 16: a full one discards its oldest CROWN frame, or the new frame (R452). -/
def pushUp (os : List Nat) (p : Part) : Part :=
  let b := p.svc.bus
  if b.up.length < 16 then { p with svc := { p.svc with bus := { b with up := b.up ++ [os] } } }
  else
    let p := bump 0x1301 6 p
    match dropKind kCrown b.up with
    | some q => { p with svc := { p.svc with bus := { b with up := q ++ [os] } } }
    | none => p

/-- An upward frame leaves by a path; in power-fail handling none does (R454, R507). -/
def sendUp (via : Option Nat) (os : List Nat) (p : Part) : Part :=
  if p.pow.phase = .powerFail then p
  else match via with
    | some k => sendInBand k os p
    | none => pushUp os p

/-- A frame that answers another: the part's address and tier, or with SER those it was called by, with its serial number
before the body (R449). -/
def answerFrame (o : Origin) (kind : Nat) (body : List Nat) (p : Part) : Frame :=
  { kind, flags := 0x80 + (if o.ser then 0x20 + o.tier % 8 else ownTier p % 8), addr := if o.ser then o.addr else ownAddr p, host := o.host, sess := o.sess, body := if o.ser ∧ kind ≠ kIdentity then toOctets 8 (ownSerial p) ++ body else body }

/-- Send an answer back where its request came from. -/
def answer (o : Origin) (kind : Nat) (body : List Nat) (p : Part) : Part := sendUp o.via (answerFrame o kind body p).octets p

/-- SESSION ERROR (R467). -/
def sessionError (o : Origin) (status seq : Nat) (p : Part) : Part := answer o kError ([status] ++ toOctets 3 seq) p

/-! ### Broadcast summaries (R436, R469) -/

def setBus (b : Bus) (p : Part) : Part := { p with svc := { p.svc with bus := b } }

/-- Count a refusal of a part, the lowest address first. -/
def Gather.refusal (g : Gather) (addr tier code : Nat) : Gather :=
  match g.first with
  | some f => if addr < f.1 then { g with first := some (addr, tier, code) } else g
  | none => { g with first := some (addr, tier, code) }

/-- The part's own outcome. -/
def Gather.ownDone (g : Gather) (addr tier code : Nat) : Gather :=
  let g := { g with own := some code }
  if code = 0 then { g with committed := satInc g.committed } else { g with refused := satInc g.refused }.refusal addr tier code

/-- The SUMMARY frame, its tag under the slot key (R469). -/
def summaryFrame (g : Gather) (p : Part) : Frame :=
  let f := g.first.getD (0xFFFFF, 0xFF, 0)
  let body := toOctets 10 g.stamp ++ [g.slot] ++ toOctets 3 g.committed ++ toOctets 3 g.refused ++ toOctets 3 g.silent ++ toOctets 3 f.1 ++ [f.2.1, f.2.2]
  let a := answerFrame { g.origin with ser := false } kSummary (body ++ List.replicate 16 0) p
  let f := a.head.take (8 + body.length)
  { a with body := body ++ (hmac (slotKey p g.slot) (strBcst ++ f)).take 16 }

/-- A summary is complete: it is sent up; others stay. -/
def sendSummaries (p : Part) : Part :=
  let done := p.svc.bus.gathers.filter fun g => g.own.isSome && g.wait.isEmpty
  let p := setBus { p.svc.bus with gathers := p.svc.bus.gathers.filter fun g => !(g.own.isSome && g.wait.isEmpty) } p
  forEach done (fun g q => sendUp g.origin.via (summaryFrame g q).octets q) p

/-- The part's own outcome of a broadcast write is known (R434). -/
def noteOwn (slot code : Nat) (p : Part) : Part :=
  let b := p.svc.bus
  match b.gathers.find? fun g => g.slot == slot && g.own.isNone with
  | some g =>
    let gs := b.gathers.map fun x => if x = g then g.ownDone (ownAddr p) (ownTier p) code else x
    sendSummaries (setBus { b with gathers := gs } p)
  | none => p

/-! ### Answers to requests (R415, R416, R464 to R466) -/

/-- A session by its id, and setting it. -/
def session (p : Part) (i : Nat) : Session := tget {} p.svc.sessions i
def setSession (i : Nat) (x : Session) (p : Part) : Part := { p with svc := { p.svc with sessions := tput {} p.svc.sessions i x } }

/-- A session's state. -/
def sessSt (p : Part) (i : Nat) : Nat := rd p (0x1320 + i) 1

/-- A request that is taken renews its session (R467). -/
def renew (rq : Rq) (p : Part) : Part :=
  match rq.sess with
  | some i => if sessSt p i = 2 then setSession i { session p i with since := p.clk.rp } p else p
  | none => p

/-- The RESPONSE to the request in processing, its tag under the session key (R464, R465). -/
def responseFrame (x : Session) (a : Answer) (p : Part) : Frame :=
  let fields := toOctets 3 a.rq.seq ++ [x.op] ++ toOctets 2 a.idx ++ [a.sub, a.code.code] ++ wordOctets a.words
  let f := answerFrame x.origin kResponse (fields ++ List.replicate 16 0) p
  let h := f.head
  { f with body := f.body.take (f.body.length - 16) ++ (hmac x.key (1 :: h.take (h.length - 16))).take 16 }

/-- An answer is given: to the session that waits for it, whose response is kept; for a broadcast, to its summary. -/
def respond (a : Answer) (p : Part) : Part :=
  let p := { p with svc := { p.svc with answer := some a } }
  let p := onlyIf (a.rq.path % 2 == 1) (noteOwn a.rq.slot a.code.code) p
  match a.rq.sess with
  | some i =>
    let x := session p i
    if x.busy = some a.rq.seq ∧ p.pow.phase ≠ .powerFail then
      let os := (responseFrame x a p).octets
      let p := if rd p (0x1320 + i) 1 = 2 then wr (0x1320 + i) 5 a.rq.seq (setSession i { x with busy := none, last := os } p) else setSession i {} p
      sendUp x.origin.via os p
    else p
  | none => p

/-- Record and count a refusal (R416). -/
def noteRefusal (rq : Rq) (idx sub : Nat) (c : Resp) (p : Part) : Part :=
  wr 0x1000 7 (idx * 2 ^ 24 + sub * 2 ^ 16 + c.code * 2 ^ 8 + rq.cls) (bump 0x1000 6 p)

/-- Record and count a refused request (R416), and answer it. -/
def refuse (rq : Rq) (idx sub : Nat) (c : Resp) (p : Part) : Part :=
  respond { rq, idx, sub, code := c } (noteRefusal rq idx sub c p)

/-- Answer a request OK. -/
def answerOk (rq : Rq) (idx sub : Nat) (ws : List Nat) (p : Part) : Part :=
  respond { rq, idx, sub, code := .ok, words := ws } p

end Sys2Proof.Machine
end

