-- ==== Sys2Proof/Machine/Chain.lean ====
section
/-! DEFINITION. The decimation chain's settings: stage lengths, shifts, the span, the first valid result and the width
check (R388, R390, R392, R393). -/
namespace Sys2Proof.Machine

/-- The lengths of a response's stages (R388). -/
def lengthsOf (c : ChainCfg) : List Nat :=
  let r := c.r
  let f := c.f
  match c.resp with
  | 0 => [r]
  | 1 => [r, r]
  | 2 => [r, r, r]
  | 3 => [r, r, r, r]
  | 4 => [r, r, r, r, r]
  | 5 => [f]
  | 6 => [r, f]
  | 7 => [r, r, f]
  | 8 => [r, r, r, f]
  | 9 => [r, r, r, r, f]
  | 10 => [f, f]
  | 11 => [f, f, f]
  | 12 => [r, f, f]
  | 13 => [r, r, f, f]
  | 14 => [r, f, c.g]
  | _ => [r, r, f, c.g]

/-- The shift of stage i, counted from 0 (8050h + m.05). -/
def shiftOf (c : ChainCfg) (i : Nat) : Nat := bits c.sh (4 * i + 3) (4 * i)

/-- N_span, in samples (R392). -/
def spanLen (c : ChainCfg) : Nat := (lengthsOf c).foldl (· + ·) 0 - (lengthsOf c).length + 1

/-- k1: the first result whose span begins at sample 1 or later (R393). -/
def firstValid (c : ChainCfg) : Nat := ceilDiv (spanLen c) c.r

/-- The chain settings in 8050h + m. -/
def chainSet (p : Part) (m : Nat) : ChainCfg :=
  { resp := rd p (0x8050 + m) 1, r := rd p (0x8050 + m) 2, f := rd p (0x8050 + m) 3, g := rd p (0x8050 + m) 4, sh := rd p (0x8050 + m) 5 }

/-- Some stage's sum would not fit in 40 bits (R390). -/
def tooWide (c : ChainCfg) : Bool :=
  let ls := lengthsOf c
  (List.range ls.length).any fun i =>
    let pr := (ls.take (i + 1)).foldl (· * ·) 1
    let s := (List.range i).foldl (fun a j => a + shiftOf c j) 0
    decide (2 ^ 39 * 2 ^ s ≤ pr)

end Sys2Proof.Machine
end

