-- ==== Sys2Proof/Machine/Regions.lean ====
section
/-! DEFINITION. Regions of event memory: geometry, cells in service, uses, capacities and credits, and the rules
of R40, R188, R245 and R247 that a write may break. -/
namespace Sys2Proof.Machine

/-- A region's geometry (R244). -/
structure Geo where
  b0 : Nat
  nb : Nat
  r0 : Nat
  n : Nat
  deriving DecidableEq, Repr, Inhabited

/-- Region `r` as the table holds it. -/
def geo (p : Part) (r : Nat) : Geo :=
  { b0 := rd p (0x7000 + r) 1, nb := rd p (0x7000 + r) 2, r0 := rd p (0x7000 + r) 3, n := rd p (0x7000 + r) 4 }

/-- Region `r` as it would be with field `sub` written as `v`. -/
def geoWith (p : Part) (r sub v : Nat) : Geo :=
  let g := geo p r
  if sub = 1 then { g with b0 := v } else if sub = 2 then { g with nb := v } else if sub = 3 then { g with r0 := v }
  else if sub = 4 then { g with n := v } else g

/-- How many cells of a region bank `b` holds (R244). -/
def Geo.cellsIn (g : Geo) (b : Nat) : Nat :=
  if g.nb = 0 ∨ b < g.b0 ∨ g.b0 + g.nb ≤ b then 0 else (g.n + g.nb - 1 - (b - g.b0)) / g.nb

/-- The region lies in the memory (R245). -/
def Geo.fits (g : Geo) : Bool := decide (g.b0 + g.nb ≤ 256) && decide (g.r0 + ceilDiv g.n g.nb ≤ 4096)

/-- Two regions share a cell (R245). -/
def Geo.meets (a b : Geo) : Bool :=
  (List.range 256).any fun k =>
    decide (0 < a.cellsIn k) && decide (0 < b.cellsIn k) &&
      decide (a.r0 < b.r0 + b.cellsIn k) && decide (b.r0 < a.r0 + a.cellsIn k)

/-- The physical address of word `o` of a region (R241, R244). -/
def Geo.addr (g : Geo) (o : Nat) : Nat :=
  let c := o / 16
  (g.b0 + c % g.nb) * 65536 + (g.r0 + c / g.nb) * 16 + o % 16

/-- A physical address lies in the region. -/
def Geo.holds (g : Geo) (a : Nat) : Bool :=
  let b := a / 65536
  let c := a / 16 % 4096
  decide (g.r0 ≤ c) && decide (c < g.r0 + g.cellsIn b)

/-- The region that holds an address. -/
def regionAt (p : Part) (a : Nat) : Option Nat := (List.range 16).find? fun r => (geo p r).holds a

/-- A region's protection code: 0 D2, 1 S1, 2 P2 (R250). -/
def codeOf (p : Part) (r : Nat) : Nat := rd p (0x7000 + r) 5

/-- Region states (7000h + r.06). -/
def regionState (p : Part) (r : Nat) : Nat := rd p (0x7000 + r) 6
def stFilling : Nat := 2
def stFilled : Nat := 3

/-- Bank standing (7044h). -/
def bankStanding (p : Part) (b : Nat) : Nat := rd p (0x7044 + b / 128) (b % 128 + 1)

/-- Set a bank's standing. -/
def setBank (b v : Nat) (p : Part) : Part := wr (0x7044 + b / 128) (b % 128 + 1) v p

/-- The cells of a bank are out of service or leaving it (R259). -/
def bankOut (p : Part) (b : Nat) : Bool := let s := bankStanding p b; s == 1 || s == 2 || s == 3

/-- The banks that are out of service. -/
def banksOut (p : Part) : List Nat := (List.range 256).filter (bankOut p)

/-- Cells of a region in a bank being withdrawn that are still in use: they leave service as they are freed (R259). -/
def leavingCells (p : Part) (r : Nat) : Nat :=
  (p.mem.cells.filter fun c => bankStanding p (c / 4096) == 1 && (geo p r).holds (16 * c)).length

/-- Cells of a region in service, with the banks `out` out of service but for what is still in use (R259). -/
def inServiceWith (p : Part) (out : List Nat) (r : Nat) : Nat :=
  let g := geo p r
  g.n + tget 0 p.mem.held r + leavingCells p r - out.foldl (fun a b => a + g.cellsIn b) 0

/-- Cells of a region in service. -/
def inServiceCells (p : Part) (r : Nat) : Nat := inServiceWith p (banksOut p) r

/-! ### Uses (R247) -/

/-- The use codes of 7000h + r.07. -/
def useController : Nat := 1
def useTable : Nat := 2
def useShadows : Nat := 3
def useLatency : Nat := 4
def useLeafQueue : Nat := 5
def useQueues : Nat := 6
def useMerged : Nat := 7
def usePacked : Nat := 8

/-- The entries that name one region each, and the use they name it for (R247). -/
def nameEntries : List (Nat × Nat × Nat) :=
  [(0x7030, 1, 2), (0x7030, 2, 3)] ++
  (List.range 4).flatMap fun v => [(0x3010 + v, 1, 4), (0x3010 + v, 2, 5), (0x4000 + v, 6, 7), (0x4040 + v, 3, 8)]

/-- The region in use for the trigger table (0) or the shadows (1); 16 for none (R259). -/
def activeRegion (p : Part) (w : Nat) : Nat := tget 16 p.mem.active w

/-- Every naming in force: entry key, region, use; committed, still in effect until a boundary, and the old region
of a move (R247). -/
def namings (p : Part) : List (Nat × Nat × Nat) :=
  let one := nameEntries.flatMap fun (i, s, u) => [(ekey i s, rd p i s, u), (ekey i s, eff p i s, u)]
  let q := (List.range 16).filterMap fun r =>
    if bit (rd p 0x4020 1) r || bit (eff p 0x4020 1) r then some (ekey 0x4020 1, r, useQueues) else none
  [(0, 0, useController), (ekey 0x7030 1, activeRegion p 0, useTable), (ekey 0x7030 2, activeRegion p 1, useShadows)] ++
    (one ++ q).filter fun x => decide (x.2.1 < 16)

/-- The uses a region is named for. -/
def usesOf (p : Part) (r : Nat) : List (Nat × Nat) := ((namings p).filter fun x => x.2.1 == r).map fun x => (x.1, x.2.2)

/-- A region is named for a use. -/
def regionNamed (p : Part) (r : Nat) : Bool := !(usesOf p r).isEmpty

/-- A use names a region for one entry only (R247). -/
def exclusiveUse (u : Nat) : Bool := decide (2 ≤ u ∧ u ≤ 4)

/-- A region may not be named by entry `k` for use `u` (R247). -/
def nameRefused (p : Part) (k u r : Nat) : Bool :=
  regionState p r != stFilled || r == 0 ||
  ((usesOf p r).any fun x => x.2 != u || (exclusiveUse u && x.1 != k)) ||
  (u == useTable && decide (16 * inServiceCells p r < 573)) ||
  (u == useShadows && decide (16 * inServiceCells p r < 4096))

/-! ### Queue capacity and credits (R40, R186, R188) -/

/-- W_q for a set of queue regions (R186). -/
def queueWords (p : Part) (out : List Nat) (mask : Nat) : Nat :=
  let n := (List.range 16).foldl (fun a r => if bit mask r then a + inServiceWith p out r else a) 0
  15 * (n - 64)

/-- The credit limit of a port and view (R187). -/
def creditLimit (p : Part) (port v : Nat) : Nat := rd p (0x4010 + port) (v + 1)

/-- The sum of the credit limits, with one of them taken as `c`. -/
def creditSumWith (p : Part) (port v c : Nat) : Nat :=
  (List.range 64).foldl (fun a i => a + (if i = 4 * port + v then c else creditLimit p (i / 4) (i % 4))) 0

/-- The sum of the credit limits (4020h.03). -/
def creditSum (p : Part) : Nat := (List.range 64).foldl (fun a i => a + creditLimit p (i / 4) (i % 4)) 0

/-- The largest packet payload (R301). -/
def maxPayload : Nat := 1023

/-- The least W_q of the queue regions committed and those still in effect before the boundary (R40). -/
def leastQueueWords (p : Part) (out : List Nat) : Nat :=
  min (queueWords p out (rd p 0x4020 1)) (queueWords p out (eff p 0x4020 1))

/-- A port is enabled for a view by the mask committed or the one still in effect (R40). -/
def pairEnabled (p : Part) (port v : Nat) : Bool := bit (rd p (0x4000 + v) 1) port || bit (eff p (0x4000 + v) 1) port

/-- Whether a write breaks R40 or R188: 4010h + p, 4020h.01 or a port enable mask. A credit limit acts at once, so it is held
against what is in effect as well as what is committed. -/
def creditRule (p : Part) (idx sub v : Nat) : Bool :=
  if 0x4010 ≤ idx ∧ idx ≤ 0x401F ∧ 1 ≤ sub ∧ sub ≤ 4 then
    let port := idx - 0x4010
    decide (leastQueueWords p (banksOut p) < creditSumWith p port (sub - 1) v) ||
      (pairEnabled p port (sub - 1) && decide (v < maxPayload))
  else if idx = 0x4020 ∧ sub = 1 then
    decide (queueWords p (banksOut p) v < creditSum p) ||
      (List.range 16).any fun r => bit v r && nameRefused p (ekey idx sub) useQueues r
  else if 0x4000 ≤ idx ∧ idx ≤ 0x4003 ∧ sub = 1 then
    (List.range 16).any fun port => bit v port && decide (creditLimit p port (idx - 0x4000) < maxPayload)
  else false

/-- Whether a write breaks the rules of the region table (R245). -/
def tableRule (p : Part) (idx sub v : Nat) : Bool :=
  if 0x7000 ≤ idx ∧ idx ≤ 0x700F ∧ 1 ≤ sub ∧ sub ≤ 5 then
    let r := idx - 0x7000
    let old := geo p r
    let g := geoWith p r sub v
    if old.n = 0 ∧ g.n = 0 then false
    else regionNamed p r ||
      (decide (g.n ≠ 0) && (!g.fits || (List.range 16).any fun k => k != r && g.meets (geo p k)))
  else false

/-- Whether a write names a region that may not be named (R247). -/
def nameRule (p : Part) (idx sub v : Nat) : Bool :=
  match nameEntries.find? fun x => x.1 == idx && x.2.1 == sub with
  | some (_, _, u) => decide (v < 16) && nameRefused p (ekey idx sub) u v
  | none => false

/-- A region table write is held off by a scrub or a fill in progress (R245), a fill request by a fill (R249), and a scrub
request by a pass that is BUSY (R74; DEDUCED, log 17). -/
def memoryBusy (p : Part) (idx sub v : Nat) : Bool :=
  if 0x7000 ≤ idx ∧ idx ≤ 0x700F ∧ 1 ≤ sub ∧ sub ≤ 5 then
    let r := idx - 0x7000
    decide ((geo p r).n ≠ 0) && (rd p (0x7010 + r) 5 == 1 || rd p (0x7010 + r) 2 == 1)
  else if 0x7010 ≤ idx ∧ idx ≤ 0x701F ∧ sub = 1 then v == 1 && rd p idx 2 == 1
  else if 0x7010 ≤ idx ∧ idx ≤ 0x701F ∧ sub = 4 then v == 1 && rd p idx 5 == 1
  else false

/-- Keep the entries that report uses, usable words, capacities and credits in step (7000h + r.07 and .08, 4020h.02
and .03, 3010h + v.06). -/
def refreshRegions (p : Part) : Part :=
  let out := banksOut p
  let p := forEach (List.range 16) (fun r q =>
    let q := wr (0x7000 + r) 7 (((usesOf q r).head?.map (·.2)).getD 0) q
    wr (0x7000 + r) 8 (16 * inServiceWith q out r) q) p
  let p := match p.pow.role with
    | .bough => wr 0x4020 2 (queueWords p out (eff p 0x4020 1)) (wr 0x4020 3 (creditSum p) p)
    | .leaf => p
  forEach (List.range 4) (fun v q =>
    let r := eff q (0x3010 + v) 1
    wr (0x3010 + v) 6 (if r < 16 then 16 * inServiceWith q out r else 0) q) p

/-- How many views name region `r` in entry `idx0 + v`.`sub`, in effect (R215). -/
def sharers (p : Part) (idx0 sub r : Nat) : Nat :=
  ((List.range 4).filter fun v => eff p (idx0 + v) sub == r).length

/-- The quota of a region of each view that names it, in cells (R215). -/
def quotaOf (p : Part) (idx0 sub r : Nat) : Nat :=
  if r < 16 then inServiceCells p r / max 1 (sharers p idx0 sub r) else 0

/-- A view's quota of the region it names, in cells; 0 where it names none (R215). -/
def quotaCells (p : Part) (idx0 sub v : Nat) : Nat := quotaOf p idx0 sub (eff p (idx0 + v) sub)

/-- Cells that `n` words take (R184). -/
def cellsFor (n : Nat) : Nat := ceilDiv n 15

end Sys2Proof.Machine
end

