-- ==== Sys2Proof/Machine/Rules.lean ====
section
/-! DEFINITION. The checks of a dictionary request (R414, R415): rights, values, operations in progress, write
limits and the rules of the owning chapters; and a write from its checks to its commit. -/
namespace Sys2Proof.Machine

/-- The status entry of a calibration unit (2081h, 2108h.02, 6060h + q.02). -/
def calStatusKey : CalUnit → Nat × Nat
  | .group g => (0x2081, g.val + 1)
  | .aux => (0x2108, 2)
  | .quad q => (0x6060 + q.val, 2)

/-- The request entry of a calibration unit (2080h, 2108h.01, 6060h + q.01). -/
def calRequestKey : CalUnit → Nat × Nat
  | .group g => (0x2080, g.val + 1)
  | .aux => (0x2108, 1)
  | .quad q => (0x6060 + q.val, 1)

/-- A calibration unit's status code. -/
def calStatus (p : Part) (u : CalUnit) : Nat := rd p (calStatusKey u).1 (calStatusKey u).2

/-- The calibration unit whose request entry this is. -/
def calUnitAt (idx sub : Nat) : Option CalUnit :=
  if idx = 0x2080 then (if h : 1 ≤ sub ∧ sub ≤ 16 then some (.group ⟨sub - 1, by omega⟩) else none)
  else if idx = 0x2108 ∧ sub = 1 then some .aux
  else if h : 0x6060 ≤ idx ∧ idx ≤ 0x6066 then (if sub = 1 then some (.quad ⟨idx - 0x6060, by omega⟩) else none)
  else none

/-- The sum of the four uplink weights after a write of one (R35). -/
def weightSum (p : Part) (sub v : Nat) : Nat :=
  ([5, 6, 7, 8].map fun j => if j = sub then v else rd p 0x1110 j).foldl (· + ·) 0

/-- Whether a write breaks a rule of its owning chapter that relates it to other entries or to the part's state
(R415 code 06h): chapters 01 to 06. -/
def ruleFront (p : Part) (idx sub v : Nat) : Bool :=
  if idx = 0x1110 ∧ 5 ≤ sub ∧ sub ≤ 8 then decide (16 < weightSum p sub v)
  else if 0x2030 ≤ idx ∧ idx ≤ 0x203F then
    (if sub = 4 then decide (rd p idx 5 < v + 8)
     else if sub = 5 then decide (v < rd p idx 4 + 8) else false)
  else if 0x20C0 ≤ idx ∧ idx ≤ 0x20CF then
    let g := idx - 0x20C0
    decide (131072 < Int.natAbs (s20 (rd p 0x20A0 (g + 1)) + s20 (rd p (0x20B0 + g) sub) + s20 v))
  else if 0x3000 ≤ idx ∧ idx ≤ 0x3003 then
    (if sub = 2 then decide (16777215 < v + rd p idx 3)
     else if sub = 3 then decide (16777215 < rd p idx 2 + v) else false)
  else false

/-- Whether an operation in progress refuses the write (R415 code 08h): chapters 01 to 06. -/
def busyFront (p : Part) (idx sub v : Nat) : Bool :=
  if idx = 0x2101 then rd p 0x2102 1 == 1
  else if idx = 0x2100 then v == 1 && rd p 0x2102 1 == 1
  else match calUnitAt idx sub with
    | some u => v == 1 && (calStatus p u == 1 || calStatus p u == 6)
    | none => false

/-- Whether a write breaks a rule of chapter 12 (R336, R337, R340, R351, R356). -/
def ruleTime (p : Part) (idx sub v : Nat) : Bool :=
  if idx = 0x6000 then
    (if sub = 5 then decide (rd p 0x6000 6 < v)
     else if sub = 6 then decide (v < rd p 0x6000 5)
     else if sub = 7 then decide (rd p 0x6000 8 < v)
     else if sub = 8 then decide (v < rd p 0x6000 7)
     else if sub = 0xC then
      ((List.range 4).any fun w => eff p (0x3000 + w) 1 != 0) || rd p 0x2102 1 == 1 || p.cal.busy ||
        (List.range 4).any fun m => rd p (0x8060 + m) 2 == 1
     else false)
  else if (idx = 0x6030 ∨ idx = 0x6031) ∧ (sub = 2 ∨ sub = 3) then
    let o := 0x6031 - (idx - 0x6030)
    let port := if sub = 2 then v else rd p idx 2
    let dom := if sub = 3 then v else rd p idx 3
    port == rd p o 2 && dom == rd p o 3
  else if idx = 0x6040 ∧ sub = 1 then v != rd p 0x6040 1 && rd p (0x6038 + v) 1 != 3
  else false

/-- Whether a write breaks a rule of chapters 13 and 14. -/
def ruleHk (p : Part) (idx sub v : Nat) : Bool :=
  if 0x8010 ≤ idx ∧ idx ≤ 0x8013 ∧ (sub = 2 ∨ sub = 3) then
    decide (v ≠ 0xFF) && (List.range 4).any fun n =>
      [2, 3].any fun k => !(n == idx - 0x8010 && k == sub) && rd p (0x8010 + n) k == v
  else if (idx = 0x8040 ∨ idx = 0x8041) ∧ sub = 3 then v == rd p idx 4
  else if (idx = 0x8040 ∨ idx = 0x8041) ∧ sub = 4 then v == rd p idx 3
  else if 0x8050 ≤ idx ∧ idx ≤ 0x8053 ∧ 1 ≤ sub ∧ sub ≤ 5 then
    let c := chainSet p (idx - 0x8050)
    tooWide (if sub = 1 then { c with resp := v } else if sub = 2 then { c with r := v } else if sub = 3 then { c with f := v }
      else if sub = 4 then { c with g := v } else { c with sh := v })
  else false

/-- Whether an operation in progress refuses a write of chapter 14. -/
def busyHk (p : Part) (idx sub v : Nat) : Bool :=
  if idx = 0x8054 ∧ sub = 2 then (v == 1 || v == 2) && rd p 0x8054 6 == 1
  else if 0x805C ≤ idx ∧ idx ≤ 0x805F ∧ sub = 1 then rd p idx 5 == 1
  else if 0x8060 ≤ idx ∧ idx ≤ 0x8063 ∧ sub = 1 then v == 1 && (rd p idx 2 == 1 || rd p idx 2 == 6)
  else false

/-- The upper port of a bonded pair (R278, R515). -/
def upperBonded (p : Part) (k : Nat) : Bool := decide (k < 16) && k % 2 == 1 && bit (rd p 0x5060 3) (k / 2)

/-- Whether a write breaks a rule of chapters 10, 11 and 19: a sparing map that names A0 while the bypass is engaged
(R294), and entries of a bonded pair's upper port or of a companion port alone (R278, R515). -/
def ruleLink (p : Part) (idx sub v : Nat) : Bool :=
  if idx = 0x5070 ∧ sub = 1 then
    (p.pow.bypass || rd p 0x5078 1 == 1) && (bits v 7 0 == 0x10 || bits v 15 8 == 0x10)
  else if 0x5100 ≤ idx ∧ idx ≤ 0x510F then upperBonded p (idx - 0x5100)
  else if 0x5120 ≤ idx ∧ idx ≤ 0x512F then upperBonded p (idx - 0x5120)
  else if idx = 0xA000 ∧ 1 ≤ sub then upperBonded p (sub - 1) || (tget {} p.links (sub - 1)).companion.isSome
  else false

/-- Whether an operation in progress refuses a write of chapters 12, 17 and 19 (R356, R481, R520). -/
def busyLate (p : Part) (idx sub v : Nat) : Bool :=
  if idx = 0x6040 ∧ sub = 1 then rd p 0x6040 2 == 1
  else if idx = 0x9000 ∧ sub = 1 then v == 1 && rd p 0x9000 2 == 1
  else if 0xA010 ≤ idx ∧ idx ≤ 0xA02B ∧ 2 ≤ sub ∧ sub ≤ 5 then rd p idx 6 == 1
  else false

/-- Whether a write breaks a rule of its owning chapter (R415 code 06h). -/
def ruleOf (p : Part) (idx sub v : Nat) : Bool :=
  ruleFront p idx sub v || tableRule p idx sub v || nameRule p idx sub v || creditRule p idx sub v ||
    ruleTime p idx sub v || ruleHk p idx sub v || ruleLink p idx sub v

/-- Whether an operation, a transfer or a pending scheduled write refuses the write (R415 code 08h, R437). -/
def busyOf (p : Part) (idx sub v : Nat) : Bool :=
  busyFront p idx sub v || memoryBusy p idx sub v || busyHk p idx sub v || busyLate p idx sub v ||
    p.svc.scheduled.any fun w => w.idx == idx && w.sub == sub

end Sys2Proof.Machine
end

