-- ==== Sys2Proof/Machine/Requests.lean ====
section
/-! DEFINITION. Dictionary requests: the checks in the order of R415, a write's commit, and the commands that are
writes of one entry. -/
namespace Sys2Proof.Machine

/-- A Tenant's or the Observer's rights to close only its own session, and a Tenant's to read only its own
session's entries (R413, R467, R472). -/
def sessionDenied (rq : Rq) (idx sub v : Nat) (write : Bool) : Bool :=
  if write then idx == 0x1330 && sub == 1 && decide (2 ≤ rq.cls ∧ rq.cls ≤ 6) && !(rq.sess == some v)
  else decide (0x1320 ≤ idx ∧ idx ≤ 0x1327) && sub != 0 && decide (2 ≤ rq.cls ∧ rq.cls ≤ 5) && !(rq.sess == some (idx - 0x1320))

/-- For region 0 every RW entry of 7000h is RO (R246, R262). -/
def fixedRo (idx : Nat) : Bool := idx == 0x7000

/-- The entries that recovery mode offers (R486). -/
def offeredKey (k : Nat) : Bool :=
  let idx := k / 256
  idx == 0 || k == ekey 0x1000 1 || k == ekey 0x1000 2 || decide (0x1300 ≤ idx ∧ idx ≤ 0x13FF) || decide (0x9000 ≤ idx ∧ idx ≤ 0x9011)

/-- In recovery mode the part offers few entries (R486). -/
def offered (p : Part) (idx sub : Nat) : Bool :=
  !recovery p || offeredKey (ekey idx sub)

/-- The row of an entry that the part offers. -/
def entry (p : Part) (idx sub : Nat) : Option Row := if offered p idx sub then lookup idx sub else none

/-- The checks of a write in their order: 01h, 0Dh, 02h, 03h, 05h, 08h, 07h, 06h (R415). -/
def checkWrite (p : Part) (rq : Rq) (idx sub v : Nat) : Resp :=
  match entry p idx sub with
  | none => .noEntry
  | some r =>
    if inactive p idx sub then .role
    else if !(mayRead p r idx sub rq.cls || mayWrite p r idx sub rq.cls) then .denied
    else if r.acc == .ro || fixedRo idx then .readOnly
    else if !mayWrite p r idx sub rq.cls || sessionDenied rq idx sub v true then .denied
    else if !(r.ty.valid v && r.rng.ok v) then .badValue
    else if busyOf p idx sub v then .busy
    else if r.acc == .wl && decide (r.limit ≤ wlUsed p idx sub) then .limit
    else if ruleOf p idx sub v then .rule
    else .ok

/-- The checks of a read or a describe in their order (R414, R415). -/
def checkRead (p : Part) (rq : Rq) (idx sub : Nat) : Resp :=
  match entry p idx sub with
  | none => .noEntry
  | some r =>
    if !(mayRead p r idx sub rq.cls || mayWrite p r idx sub rq.cls) then .denied
    else if r.acc == .wo || r.ty == .key then .writeOnly
    else if !mayRead p r idx sub rq.cls || sessionDenied rq idx sub 0 false then .denied
    else if r.ty == .domain then .badValue
    else .ok

/-- The counter a chapter names beside 1000h.06 for a refused write: 4020h.06 for the credit inequality (R188),
8068h + m.04 for a calibration request (R404). -/
def ownRefusal (idx sub : Nat) (c : Resp) (p : Part) : Part :=
  let p := onlyIf (c == .busy && decide (0x8060 ≤ idx ∧ idx ≤ 0x8063) && sub == 1) (bump (idx + 8) 4) p
  onlyIf (c == .rule && (decide (0x4010 ≤ idx ∧ idx ≤ 0x401F) || (idx == 0x4020 && sub == 1) ||
    (decide (0x4000 ≤ idx ∧ idx ≤ 0x4003) && sub == 1))) (bump 0x4020 6) p

/-- Whether the journal takes writes: state 2 refuses them, state 1 makes them wait (R422, R423). -/
def journalState (p : Part) : Nat := rd p 0x1400 7

/-- A command that is a write of one entry: it waits behind earlier requests (R415); otherwise it is checked, and
refused or committed, with its journal commit in the same step, and its action runs. -/
def ownWrite (rq : Rq) (idx sub v : Nat) (act : Nat → Part → Part) (p : Part) : Part :=
  if p.pow.phase = .powerFail then p
  else if svcBusy p then enqueue { rq, idx, sub, op := .write v, since := p.clk.rp } p
  else
    let p := renew rq p
    match checkWrite p rq idx sub v, lookup idx sub with
    | .ok, some r =>
      if journalled r && journalState p == 2 then refuse rq idx sub .journal p
      else if journalled r && journalState p == 1 then enqueue { rq, idx, sub, op := .write v, since := p.clk.rp } p
      else answerOk rq idx sub [] (commitNow rq r idx sub v (writeAction r) act p)
    | c, _ => ownRefusal idx sub c (refuse rq idx sub c p)

/-- An abort written to an operation's control entry is taken (R72). -/
def abortTake (rq : Rq) (idx sub v : Nat) (op : OpId) (status : Nat) (undo : Part → Part) (p : Part) : Part :=
  match checkWrite p rq idx sub v with
  | .ok =>
    if status = 1 then raise op { kind := .abort, rqs := [rq] } p
    else if status = 6 then answerOk rq idx sub [] (undo p)
    else answerOk rq idx sub [] (bump 0x1230 1 p)
  | c => refuse rq idx sub c p

/-- An abort written to an operation's control entry (R72): at a BUSY operation it is raised at the commit arbiter
and acknowledged after the grant; a DEFERRED one becomes ABORTED through `undo`; otherwise it is counted. -/
def abortWrite (rq : Rq) (idx sub v : Nat) (op : OpId) (status : Nat) (undo : Part → Part) (p : Part) : Part :=
  if p.pow.phase = .powerFail then p
  else if svcBusy p then enqueue { rq, idx, sub, op := .write v, since := p.clk.rp } p
  else abortTake rq idx sub v op status undo (renew rq p)

end Sys2Proof.Machine
end

