-- ==== Sys2Proof/Machine/Calibration.lean ====
section
/-! DEFINITION. Code-density calibration of the groups, the auxiliary latch and the quad latches
(R110 to R116, R121, R132, R343). -/
namespace Sys2Proof.Machine

/-- The entries of a calibration unit: cause, table state, commit time, commits and deviation
(2082h, 2086h, 2084h, 2085h, 2087h; 2108h; 6060h + q). -/
def calKey (u : CalUnit) (group aux : Nat) : Nat × Nat :=
  match u with
  | .group g => (group, g.val + 1)
  | .aux => (0x2108, aux)
  | .quad q => (0x6060 + q.val, aux)

/-- Set a calibration status. -/
def setCalStatus (u : CalUnit) (c : Nat) (p : Part) : Part := wr (calStatusKey u).1 (calStatusKey u).2 c p

/-- Set a calibration failure cause. -/
def setCalCause (u : CalUnit) (c : Nat) (p : Part) : Part := wr (calKey u 0x2082 3).1 (calKey u 0x2082 3).2 c p

/-- A calibration unit can be calibrated: an input group while it is enabled, the others always (R114, R132). -/
def calEnabled (p : Part) : CalUnit → Bool
  | .group g => groupOn p g.val
  | .aux | .quad _ => true

/-- The ring is locked to REF, so calibrations may start (R121). -/
def ringLocked (p : Part) : Bool := rd p 0x20D0 2 == 0

/-- The internal oscillator lies within 1.1 to 1.6 GHz (R115). -/
def oscOk (kHz : Nat) : Bool := decide (1100000 ≤ kHz ∧ kHz ≤ 1600000)

/-- A unit leaves the calibration queue. -/
def calDrop (u : CalUnit) (p : Part) : Part := { p with cal := { p.cal with queue := p.cal.queue.filter (· != u) } }

/-- A DEFERRED calibration that is aborted leaves the queue; the one that runs goes on (R72, R114). -/
def calUndo (u : CalUnit) (p : Part) : Part := setCalStatus u 3 (calDrop u p)

/-- The calibration running ends with a status and a cause; the table stays as it is (R73). -/
def calEnd (u : CalUnit) (status cause : Nat) (p : Part) : Part :=
  let p := setCalCause u cause (setCalStatus u status p)
  let p := calDrop u p
  { p with cal := { p.cal with busy := false, hist := [], hits := 0, accepted := none } }

/-- The first of the queue becomes BUSY, or fails at its start with cause 3 (R114). -/
def calBegin (u : CalUnit) (kHz : Nat) (p : Part) : Part :=
  if oscOk kHz then
    let p := setCalCause u 0 (setCalStatus u 1 p)
    { p with cal := { p.cal with busy := true, hist := [], hits := 0, accepted := none, expo := eff p 0x2083 1 } }
  else calEnd u 4 3 p

/-- A calibration request takes its place: REJECTED for a disabled group, otherwise DEFERRED in the queue (R114, R121). -/
def calDefer (u : CalUnit) (p : Part) : Part :=
  if calEnabled p u then
    let p := setCalCause u 0 (setCalStatus u 6 p)
    { p with cal := { p.cal with queue := p.cal.queue ++ [u] } }
  else setCalCause u 4 (setCalStatus u 5 p)

/-- A request that finds no calibration before it and the ring locked becomes BUSY at once (R114). -/
def calRequest (u : CalUnit) (kHz : Nat) (p : Part) : Part :=
  let free := p.cal.queue.isEmpty && !p.cal.busy && ringLocked p
  let p := calDefer u p
  if free && calEnabled p u then calBegin u kHz p else p

/-- A request without a measurement of the oscillator at hand: where it would begin at once, its frequency is as free as the
oscillator (R114, R115). -/
def calRequestFree (u : CalUnit) (p : Part) : Part :=
  if p.cal.queue.isEmpty && !p.cal.busy && ringLocked p && calEnabled p u then
    let (k, p) := drawFree p
    calRequest u k p
  else calDefer u p

/-- CALIBRATION_START (R114). -/
def execCalibrationStart (rq : Rq) (u : CalUnit) (oscKHz : Nat) (s : State) : Outcome :=
  runCtl (ownWrite rq (calRequestKey u).1 (calRequestKey u).2 1 fun _ => calRequest u oscKHz) s

/-- CALIBRATION_ABORT (R72, R114). -/
def execCalibrationAbort (rq : Rq) (u : CalUnit) (s : State) : Outcome :=
  runCtl (fun p => abortWrite rq (calRequestKey u).1 (calRequestKey u).2 2 (.cal u) (calStatus p u) (calUndo u) p) s

/-- The unit that is calibrating. -/
def calRunning (p : Part) : Option CalUnit := if p.cal.busy then p.cal.queue.head? else none

/-- A hit on the calibration register is histogrammed by raw code, up to N hits (R110, R111). -/
def calHit (u : CalUnit) (r : Nat) (p : Part) : Part :=
  if calRunning p = some u ∧ p.cal.hits < 2 ^ p.cal.expo then
    { p with cal := { p.cal with hist := tput 0 p.cal.hist r (tget 0 p.cal.hist r + 1), hits := p.cal.hits + 1 } }
  else p

/-- CALIBRATION_HIT (R110). -/
def execCalibrationHit (u : CalUnit) (tap : Fin 64) (h : Bool) (s : State) : Outcome :=
  run (calHit u (rawCode tap.val h)) s

/-- N hits have been collected: the new table is accepted, or the calibration fails with cause 2 (R111, R112). -/
def calAccept (u : CalUnit) (p : Part) : Part :=
  if calRunning p = some u ∧ p.cal.hits = 2 ^ p.cal.expo ∧ p.cal.accepted = none ∧ unsettled p (.cal u) = true then
    let t := newTable p.cal.hist (2 ^ p.cal.expo)
    if widthsOk t then { p with cal := { p.cal with accepted := some t } }
    else raiseFailure (.cal u) 2 p
  else p

/-- CALIBRATION_ACCEPT (R112). -/
def execCalibrationAccept (u : CalUnit) (s : State) : Outcome := run (calAccept u) s

/-- The first deferred calibration becomes BUSY once the one before it has ended and the ring is locked (R114, R121). -/
def calDeferredStart (kHz : Nat) (p : Part) : Part :=
  match p.cal.queue with
  | u :: _ => if !p.cal.busy && ringLocked p then calBegin u kHz p else p
  | [] => p

/-- CALIBRATION_DEFERRED_START (R114). -/
def execCalibrationDeferredStart (oscKHz : Nat) (s : State) : Outcome := run (calDeferredStart oscKHz) s

/-- The units of the automatic requests in their order: G0 to G15, GA, GQ0 to GQ6 (R116, R132, R343). -/
def calOrder : List CalUnit :=
  (List.finRange 16).map .group ++ [.aux] ++ (List.finRange 7).map .quad

/-- A unit takes an automatic request: it is enabled and neither BUSY nor DEFERRED (R116). -/
def calIdle (p : Part) (u : CalUnit) : Bool := calEnabled p u && calStatus p u != 1 && calStatus p u != 6

/-- Automatic requests in order; the first of them begins at once where no calibration is before it (R114, R116). -/
def calAuto (us : List CalUnit) (p : Part) : Part :=
  forEach us (fun u q => if calIdle q u then calRequestFree u q else q) p

/-- The automatic requests with the oscillator's frequency as counted. -/
def calAutoAt (kHz : Nat) (us : List CalUnit) (p : Part) : Part :=
  forEach us (fun u q => if calIdle q u then calRequest u kHz q else q) p

/-- The automatic interval expires: requests are made unless REF is missing, and the next expiry is set (R116). The
first expiry is counted from ring period 0, and a changed interval from the boundary at which it takes effect (DESIGN
CHOICE, log 101). -/
def autoTimer (kHz : Nat) (p : Part) : Part :=
  let iv := eff p 0x2083 2
  if iv = 0 then p
  else
    let due := p.cal.autoDue.getD (iv * secRp)
    let p := advanceRp due p
    let p := { p with cal := { p.cal with autoDue := some (due + iv * secRp) } }
    if rd p 0x20D0 1 == 1 then calAutoAt kHz calOrder p else p

/-- A changed automatic interval counts from the boundary at which it takes effect (DESIGN CHOICE, log 101). -/
def autoRestart (p : Part) : Part :=
  { p with cal := { p.cal with autoDue := some (p.clk.rp + eff p 0x2083 2 * secRp) } }

/-- AUTO_CALIBRATION_TIMER (R116). -/
def execAutoCalibrationTimer (oscKHz : Nat) (s : State) : Outcome := run (autoTimer oscKHz) s

/-- The commit time of a unit's table (2084h, 2108h.05, 6060h + q.05). -/
def calTime (p : Part) (u : CalUnit) : Nat := rd p (calKey u 0x2084 5).1 (calKey u 0x2084 5).2

/-- The table state of a unit: 0 default, 1 calibrated, 2 stale (2086h). -/
def tableState (p : Part) (u : CalUnit) : Nat := rd p (calKey u 0x2086 4).1 (calKey u 0x2086 4).2

/-- Spans in which a group ran on a default or stale table, newest first (R127). -/
def uncalSpans (p : Part) (g : Nat) : List Span := tget [{ start := 0 }] p.front.uncal g

/-- Set a group's spans of default or stale tables. -/
def setUncal (g : Nat) (l : List Span) (p : Part) : Part :=
  { p with front := { p.front with uncal := tput [{ start := 0 }] p.front.uncal g l } }

/-- The newest span of a list ends at `x`, if it is open. -/
def endSpan (x : Nat) : List Span → List Span
  | { start := a, stop := none } :: t => { start := a, stop := some x } :: t
  | l => l

/-- A span opens at `x`, unless one is open. -/
def openSpan (x : Nat) : List Span → List Span
  | { start := a, stop := none } :: t => { start := a, stop := none } :: t
  | l => { start := x } :: l

/-- Whether some span meets the interval [a, b). -/
def spansMeet (l : List Span) (a b : Nat) : Bool :=
  l.any fun s => decide (s.start < b) && (match s.stop with | none => true | some e => decide (a < e))

/-- Whether some span holds `x`. -/
def spansHold (l : List Span) (x : Nat) : Bool := spansMeet l x (x + 1)

/-- A table older than the stale limit becomes stale (R116). -/
def tableStale (u : CalUnit) (p : Part) : Part :=
  if tableState p u = 1 then
    let p := advanceTo (calTime p u + eff p 0x2083 4 * 327680000000 + 1) p
    let p := wr (calKey u 0x2086 4).1 (calKey u 0x2086 4).2 2 p
    match u with
    | .group g => setUncal g.val (openSpan (now p) (uncalSpans p g.val)) p
    | .aux | .quad _ => p
  else p

/-- TABLE_STALE (R116). -/
def execTableStale (u : CalUnit) (s : State) : Outcome := run (tableStale u) s

/-- The calibration unit whose table stamps an interval source (R130, R131). -/
def codeUnit (c : Nat) : Option CalUnit :=
  if bits c 19 16 = 1 then some (.group ⟨bits c 15 8 / 16 % 16, Nat.mod_lt _ (by decide)⟩)
  else if 2 ≤ bits c 19 16 ∧ bits c 19 16 ≤ 5 then some .aux
  else if bits c 19 16 = 6 then some (.quad ⟨bits c 15 8 / 4 % 7, Nat.mod_lt _ (by decide)⟩)
  else none

/-- A measurement in progress uses the unit's table (CAL of R138). -/
def ivUses (p : Part) (u : CalUnit) : Bool :=
  rd p 0x2102 1 == 1 && (codeUnit p.iv.src == some u || codeUnit p.iv.dst == some u)

/-- The commit of a calibration at boundary `b`: the table becomes active, the status DONE, and the entries of
R113 follow; a new table of the quad of the link in use restarts averaging (R346). -/
def calDone (u : CalUnit) (b : Nat) (p : Part) : Part :=
  match p.cal.accepted with
  | none => p
  | some t =>
    let p := match u with
      | .group g => setUncal g.val (endSpan b (uncalSpans p g.val)) (setGrp g.val { grp p g.val with tab := (grp p g.val).tab.commit t b } p)
      | .aux => { p with cal := { p.cal with aux := p.cal.aux.commit t b } }
      | .quad q =>
        let l := (tget ({} : Link) p.links (rd p 0x6010 6)).lanes.headD 28
        let p := { p with cal := { p.cal with quads := tput {} p.cal.quads q.val ((quadTab p q.val).commit t b) } }
        onlyIf (l / 4 == q.val) (fun p => { p with tim := { p.tim with avgN := 0, avgTh := 0, avgD := 0 } }) p
    let p := wr (calKey u 0x2084 5).1 (calKey u 0x2084 5).2 b p
    let p := bump (calKey u 0x2085 6).1 (calKey u 0x2085 6).2 p
    let p := wr (calKey u 0x2086 4).1 (calKey u 0x2086 4).2 1 p
    let p := wr (calKey u 0x2087 7).1 (calKey u 0x2087 7).2 (largestDev t) p
    let p := onlyIf (ivUses p u) (fun p => { p with iv := { p.iv with cal := some (p.iv.cal.getD b) } }) p
    calEnd u 2 0 p

/-- A boundary with an accepted table: the completion request is raised there (R113). -/
def calBoundary (b : Nat) (p : Part) : Part :=
  match calRunning p, p.cal.accepted with
  | some u, some _ =>
    if unsettled p (.cal u) then raiseCompletion (.cal u) { p with cal := { p.cal with commitB := b } } else p
  | _, _ => p

/-- The disabling of a group takes effect: a BUSY calibration of it fails and a DEFERRED one is REJECTED, both with
cause 4 (R114). -/
def calDisabled (g : Fin 16) (p : Part) : Part :=
  let u : CalUnit := .group g
  if calStatus p u = 1 then raiseFailure (.cal u) 4 p
  else if calStatus p u = 6 then setCalCause u 4 (setCalStatus u 5 (calDrop u p))
  else p

end Sys2Proof.Machine
end

