-- ==== Sys2Proof/Machine/Interval.lean ====
section
/-! DEFINITION. The interval unit (R130 to R141). -/
namespace Sys2Proof.Machine

/-- Whether a source is available: its comparator and group enabled, its lane neither in DOWN nor in SLEEP-RX
(R140, R141). -/
def ivAvailable (p : Part) (c : Nat) : Bool :=
  if bits c 19 16 = 0 then false
  else if bits c 19 16 = 1 then compOn p (bits c 15 8) (bits c 7 6)
  else if bits c 19 16 = 6 then rd p (0x5020 + bits c 15 8) 1 != 0 && rd p (0x5020 + bits c 15 8) 1 != 4
  else true

/-- A compare source whose period is 0 (R141). -/
def ivSingle (p : Part) (c : Nat) : Bool := bits c 19 16 == 7 && rd p 0x2101 (6 + 2 * bits c 0 0) == 0

/-- A start request is rejected with cause 3 (R141). -/
def ivRejects (p : Part) : Bool :=
  let a := rd p 0x2101 1
  let b := rd p 0x2101 2
  !ivAvailable p a || !ivAvailable p b || (decide (1 < rd p 0x2101 3) && (ivSingle p a || ivSingle p b))

/-- The first event of compare `c` at or after `a`: t0 + k P, or the single event (R131). -/
def cmpFrom (p : Part) (c a : Nat) : Option Nat :=
  let t0 := rd p 0x2101 (5 + 2 * c)
  let per := rd p 0x2101 (6 + 2 * c)
  if !before t0 a then some t0
  else if per = 0 then none
  else some ((t0 + ceilDiv (subMod 80 a t0) per * per) % 2 ^ 80)

/-- A measurement becomes BUSY, armed at the present time (R133). -/
def ivStart (p : Part) : Part :=
  if ivRejects p then wr 0x2102 2 3 (wr 0x2102 1 5 p)
  else
    let a := now p
    let p := wr 0x2102 4 a (wr 0x2102 3 0 (wr 0x2102 2 0 (wr 0x2102 1 1 p)))
    { p with iv := { rearm := a, first := true, reps := rd p 0x2101 3, adv := rd p 0x2101 4, src := rd p 0x2101 1, dst := rd p 0x2101 2, cmp0 := cmpFrom p 0 a, cmp1 := cmpFrom p 1 a } }

/-- INTERVAL_START (R133, R141). -/
def execIntervalStart (rq : Rq) (s : State) : Outcome := runCtl (ownWrite rq 0x2100 1 1 fun _ => ivStart) s

/-- Every event reaches the unit within so many ticks of its stamp: after that, all stamped before it are known (R136). -/
def ivReach : Nat := 4096

/-- The longest interval the unit represents, and one more (R137). -/
def ivLimit : Nat := 2 ^ 39

/-- A start event's stamp is eligible: later than R, or at or after A in the first repetition (R134). -/
def ivAfter (iv : Interval) (x : Nat) : Bool := before iv.rearm x || (iv.first && x == iv.rearm)

/-- The first moment a stop may be stamped for the start `s`: s − D − 2 tk (R134). -/
def ivFloor (iv : Interval) (s : Nat) : Nat := subMod 80 s (iv.adv + 2)

/-- An event takes its place by its stamp (R136). -/
def ivInsert (e : IvEvent) : List IvEvent → List IvEvent
  | [] => [e]
  | x :: l => if before e.stamp x.stamp then e :: x :: l else x :: ivInsert e l

/-- Judge the stops held against the earliest moment of a stop: earlier ones are EARLY, the first other one is the stop
(R134). Returns the number of EARLY stops, the stop, and the stops left. -/
def ivJudge (lo : Nat) : List IvEvent → Nat × Option IvEvent × List IvEvent
  | [] => (0, none, [])
  | e :: t =>
    if before e.stamp lo then
      let r := ivJudge lo t
      (r.1 + 1, r.2.1, r.2.2)
    else (0, some e, t)

/-- The stamps of events that may still reach the unit begin here: those on their way, and what is stamped from now less
the reach on (R136). -/
def ivHorizon (p : Part) : Nat :=
  (p.iv.inbox.map (·.2.stamp)).foldl (fun m x => if before x m then x else m) (subMod 80 (now p) ivReach)

/-- What is stamped `x` is decided: every event stamped before it has reached the unit (R136). -/
def ivRipe (p : Part) (x : Nat) : Bool := !before (ivHorizon p) x

/-- The start is taken, where one is known (R134): with it, the same event is no candidate for the stop. -/
def ivTake (p : Part) : Interval :=
  let iv := p.iv
  match iv.start, iv.starts.filter (fun e => ivAfter iv e.stamp) with
  | none, e :: t =>
    if ivRipe p e.stamp then
      { iv with start := some e, starts := t, stops := if iv.src = iv.dst then iv.stops.filter (·.stamp != e.stamp) else iv.stops }
    else { iv with starts := e :: t }
  | _, l => { iv with starts := l }

/-- The earliest moment that a stop may still have: that of the start taken, or, while none is known, of one that has yet
to reach the unit (R134, R136). -/
def ivLow (p : Part) (iv : Interval) : Nat :=
  match iv.start, iv.starts with
  | some s, _ => ivFloor iv s.stamp
  | none, e :: _ => ivFloor iv (if before e.stamp (ivHorizon p) then e.stamp else ivHorizon p)
  | none, [] => ivFloor iv (ivHorizon p)

/-- Take the start if one is known, count the EARLY stops, and take the stop (R134). -/
def ivSettle (p : Part) : Part :=
  let iv := ivTake p
  let iv := { iv with stops := iv.stops.filter fun e => before iv.rearm e.stamp }
  match iv.stop with
  | some _ => { p with iv := iv }
  | none =>
    let r := ivJudge (ivLow p iv) iv.stops
    let (stop, stops) := match iv.start, r.2.1 with
      | some _, some e => if ivRipe p e.stamp then (some e, r.2.2) else (none, e :: r.2.2)
      | none, some e => (none, e :: r.2.2)
      | _, none => (none, [])
    bumpBy r.1 0x2104 1 { p with iv := { iv with stop, stops } }

/-- A measurement that is BUSY and has repetitions to come. -/
def ivOpen (p : Part) : Bool := rd p 0x2102 1 == 1 && decide (p.iv.n < p.iv.reps) && unsettled p .interval

/-- A source event reaches the unit while a measurement is BUSY (R134). -/
def ivEvent (code : Nat) (e : IvEvent) (p : Part) : Part :=
  if ivOpen p then
    let iv := p.iv
    let iv := if iv.src = code then { iv with starts := ivInsert e iv.starts } else iv
    let iv := if iv.dst = code then { iv with stops := ivInsert e iv.stops } else iv
    ivSettle { p with iv := iv }
  else p

/-- The next event on its way reaches the unit (R136). -/
def ivNext (p : Part) : Part :=
  match p.iv.inbox with
  | (c, e) :: l => ivEvent c e { p with iv := { p.iv with inbox := l } }
  | [] => p

/-- INTERVAL_SOURCE_EVENT (R134): an event that its source has stamped reaches the unit. -/
def execIntervalSourceEvent (s : State) : Outcome := run ivNext s

/-- Every event on its way reaches the unit. -/
def ivDrain : (fuel : Nat) → Part → Part
  | 0, p => p
  | n + 1, p => ivDrain n (ivNext p)

/-- What has reached the unit by now is settled, so that its counters read as they stand (R134). -/
def ivNow (p : Part) : Part :=
  let p := ivDrain p.iv.inbox.length p
  if ivOpen p then ivSettle p else p

/-- The interval x = stop − s + D of R135. -/
def ivLength (iv : Interval) (s e : Nat) : Int := diffMod 80 e s + iv.adv

/-- The accumulators of R139 after one repetition of length x. -/
def ivAccum (iv : Interval) (x : Nat) : Interval :=
  { iv with n := iv.n + 1, s1 := iv.s1 + x, s2 := iv.s2 + x * x, mn := if iv.n = 0 then x else min iv.mn x, mx := max iv.mx x }

/-- The system time at which a repetition overflows: s − D + 2^39 tk (R137). -/
def ivDue (iv : Interval) (s : Nat) : Nat := subMod 80 (s + ivLimit) iv.adv

/-- The later of two stamps. -/
def laterOf (a b : Nat) : Nat := if before a b then b else a

/-- A repetition's start and stop are accumulated with its flags, and the next one is armed at the stop (R133, R135,
R138, R139). -/
def ivRepeat (s e : IvEvent) (p : Part) : Part :=
  let x := ivLength p.iv s.stamp e.stamp
  let near := decide (x ≤ 2)
  let f := s.flags ||| e.flags
  let refl := spansHold p.front.refl s.stamp || spansHold p.front.refl e.stamp
  let f := f ||| (if near then 1 else 0) ||| (if refl then 8 else 0) ||| (if s.era = e.era then 0 else 16)
  let iv := ivAccum p.iv x.toNat
  let iv := { iv with flags := iv.flags ||| f, near := iv.near + (if near then 1 else 0), flagged := iv.flagged + (if bit f 1 || bit f 2 || bit f 5 then 1 else 0), rearm := e.stamp, first := false, start := none, stop := none, top := laterOf iv.top (laterOf s.stamp e.stamp) }
  wr 0x2102 3 iv.n { p with iv := iv }

/-- The start that a repetition will use as things stand, taken or held (R134). -/
def ivStartOf (iv : Interval) : Option IvEvent :=
  match iv.start with
  | some s => some s
  | none => iv.starts.find? fun e => ivAfter iv e.stamp

/-- The events that a repetition will use as things stand: its start and its stop (R134). -/
def ivCandidates (iv : Interval) : Option (IvEvent × IvEvent) :=
  match ivStartOf iv with
  | none => none
  | some s =>
    let stops := iv.stops.filter fun e => before iv.rearm e.stamp && !(iv.src == iv.dst && e.stamp == s.stamp)
    match (match iv.stop with | some e => some e | none => (ivJudge (ivFloor iv s.stamp) stops).2.1) with
    | some e => some (s, e)
    | none => none

/-- The stop of a repetition is accepted, once every event stamped before it and before its start has reached the unit
and before the repetition overflows; the Nth raises completion (R133, R136 to R139). -/
def ivAccept (p : Part) : Part :=
  let p := ivDrain p.iv.inbox.length p
  match ivOpen p, ivCandidates p.iv with
  | true, some (s, e) =>
    if before (now p) (ivDue p.iv s.stamp) && before e.stamp (ivDue p.iv s.stamp) then
      let p := ivSettle (advanceTo (laterOf s.stamp e.stamp + ivReach) p)
      match p.iv.start, p.iv.stop with
      | some s, some e =>
        let p := ivRepeat s e p
        if p.iv.reps ≤ p.iv.n then raiseCompletion .interval p else ivSettle p
      | _, _ => p
    else p
  | _, _ => p

/-- INTERVAL_ABORT (R72). -/
def execIntervalAbort (rq : Rq) (s : State) : Outcome :=
  runCtl (fun p => abortWrite rq 0x2100 1 2 .interval (rd p 0x2102 1) id (ivNow p)) s

/-- REPETITION_STOP_ACCEPT (R136). -/
def execRepetitionStopAccept (s : State) : Outcome := run ivAccept s

/-- No stop accepted by s − D + 2^39 tk: a failure with cause 1 is raised and counted (R137). -/
def ivOverflow (p : Part) : Part :=
  let p := ivNow p
  match ivOpen p, ivStartOf p.iv with
  | true, some s => raiseFailure .interval 1 (bump 0x2104 2 (ivSettle (advanceTo (ivDue p.iv s.stamp) p)))
  | _, _ => p

/-- INTERVAL_OVERFLOW (R137). -/
def execIntervalOverflow (s : State) : Outcome := run ivOverflow s

/-- A compare fires at its time, stamped with the compare time itself, its event is on its way to the unit, and its next one
is set (R131). -/
def timeCompare (c : Nat) (p : Part) : Part :=
  match (if c = 0 then p.iv.cmp0 else p.iv.cmp1) with
  | some t =>
    if rd p 0x2102 1 = 1 then
      let p := advanceTo t p
      let per := rd p 0x2101 (6 + 2 * c)
      let nxt := if per = 0 then none else some ((t + per) % 2 ^ 80)
      let p := { p with iv := if c = 0 then { p.iv with cmp0 := nxt } else { p.iv with cmp1 := nxt } }
      ivArrive (0x70000 + c) t 0 p
    else p
  | none => p

/-- TIME_COMPARE_EVENT (R131). -/
def execTimeCompareEvent (c : Fin 2) (s : State) : Outcome := run (timeCompare c.val) s

/-- The variance of R139, in 1/65,536 tk². -/
def ivVariance (iv : Interval) : Nat := 65536 * (iv.n * iv.s2 - iv.s1 * iv.s1) / (iv.n * iv.n)

/-- The nearest standard deviation in 1/256 tk (R139). -/
def ivDeviation (v : Nat) : Nat := let sd := isqrt v; if v - sd * sd > sd then sd + 1 else sd

/-- The grant of completion: the result entries take the accumulators' values (R139). -/
def ivDone (p : Part) : Part :=
  let iv := p.iv
  let p := wr 0x2102 1 2 p
  let p := wr 0x2103 1 iv.n p
  let p := wr 0x2103 2 ((256 * iv.s1 + iv.n / 2) / iv.n) p
  let p := wr 0x2103 3 (ivDeviation (ivVariance iv)) p
  let p := wr 0x2103 4 iv.mn p
  let p := wr 0x2103 5 iv.mx p
  let used := match iv.cal with | some b => !before iv.rearm b | none => false
  let p := wr 0x2103 6 (iv.flags ||| (if used then 64 else 0)) p
  let p := wr 0x2103 7 (min iv.near 0xFFFFF) p
  wr 0x2103 8 (min iv.flagged 0xFFFFF) p

/-- A measurement that ends FAILED or ABORTED: the results keep their values (R140). -/
def ivEnd (status cause : Nat) (p : Part) : Part := wr 0x2102 2 cause (wr 0x2102 1 status (ivNow p))

/-- A source withdrawn while BUSY fails the measurement with cause 2 (R140). -/
def ivCheckSources (p : Part) : Part :=
  if ivOpen p && !(ivAvailable p p.iv.src && ivAvailable p p.iv.dst) then raiseFailure .interval 2 (ivSettle p) else p

end Sys2Proof.Machine
end

