-- ==== Sys2Proof/Machine/Pack.lean ====
section
/-! DEFINITION. The packed format: items, segments, the coder and the decoder (R222 to R239). -/
namespace Sys2Proof.Machine

/-! ### Bit strings -/

/-- A number as `w` bits, most significant bit first. -/
def toBits : (w n : Nat) → List Bool
  | 0, _ => []
  | w + 1, n => n.testBit w :: toBits w n

/-- The number a bit string spells, most significant bit first. -/
def ofBits (bs : List Bool) : Nat := bs.foldl (fun a b => 2 * a + (if b then 1 else 0)) 0

/-- The bits of a list of words, from bit 19 of the first (R225). -/
def wordBits (ws : List Nat) : List Bool := ws.flatMap (toBits 20)

/-- A bit string as `n` words, zero bits to fill (R225). -/
def bitWords : (n : Nat) → List Bool → List Nat
  | 0, _ => []
  | n + 1, bs => ofBits ((bs ++ List.replicate 20 false).take 20) :: bitWords n (bs.drop 20)

/-! ### Source marks (R206, R207, R229) -/

/-- A source: epoch, tier and address (R206). -/
structure Mark where
  ep : Nat
  tier : Nat
  addr : Nat
  deriving DecidableEq, Repr, Inhabited

/-- The unknown mark of R204. -/
def unknownMark : Mark := { ep := 0xFF, tier := 7, addr := 0xFFFFF }

/-- The 40-bit source mark of R206. -/
def Mark.word40 (m : Mark) : Nat := m.ep * 2 ^ 32 + m.tier * 2 ^ 29 + 2 ^ 28 + 2 ^ 25 + m.addr

/-- The 60-bit source item of R207. -/
def Mark.word60 (m : Mark) : Nat := m.ep * 2 ^ 52 + 0x3FFF * 2 ^ 36 + m.tier * 2 ^ 33 + 2 ^ 32 + m.addr

/-- The fields of a source mark in a hit-record stream. -/
def markOf40 (x : Nat) : Mark := { ep := bits x 39 32, tier := bits x 31 29, addr := bits x 19 0 }

/-- The fields of a source item in a summary stream. -/
def markOf60 (x : Nat) : Mark := { ep := bits x 59 52, tier := bits x 35 33, addr := bits x 19 0 }

/-- An item of a hit-record stream is a source mark: bits 28 and 25 are both 1 (R206). -/
def isMark40 (x : Nat) : Bool := bit x 28 && bit x 25

/-- An item of a summary stream is a source item (R207). -/
def isMark60 (x : Nat) : Bool := bits x 49 36 == 0x3FFF && bit x 32

/-- An item of a summary stream is a marker item (R155). -/
def isMarker60 (x : Nat) : Bool := bits x 49 36 == 0x3FFF && !bit x 32

/-- The address with the nibble of a tier replaced (R229). -/
def setNibble (addr tier v : Nat) : Nat :=
  let sh := 16 - 4 * tier
  addr - bits addr (sh + 3) sh * 2 ^ sh + v * 2 ^ sh

/-! ### Coding state (R227) -/

/-- The coding state of a segment, at its reset values. -/
structure Coder where
  t : Nat := 0
  id : Nat := 0
  fl : Nat := 0
  inp : Nat := 0xFF
  m1 : Option Mark := none
  m2 : Option Mark := none
  deriving DecidableEq, Repr, Inhabited

/-- The marks remembered after a mark is coded (R229). -/
def Coder.remember (c : Coder) (m : Mark) : Coder := { c with m1 := some m, m2 := c.m1 }

/-- The shortest code of a mark; of equally short ones the lowest class (R229, R231). -/
def codeMark (c : Coder) (m : Mark) : List Bool :=
  if c.m2 = some m then toBits 2 0
  else match c.m1 with
    | some a =>
      if a.ep = m.ep ∧ a.tier = m.tier then
        if m.tier ≤ 4 ∧ setNibble a.addr a.tier (bits m.addr (19 - 4 * m.tier) (16 - 4 * m.tier)) = m.addr then
          toBits 2 1 ++ toBits 4 (bits m.addr (19 - 4 * m.tier) (16 - 4 * m.tier))
        else toBits 2 2 ++ toBits 20 m.addr
      else toBits 2 3 ++ toBits 8 m.ep ++ toBits 3 m.tier ++ toBits 20 m.addr
    | none => toBits 2 3 ++ toBits 8 m.ep ++ toBits 3 m.tier ++ toBits 20 m.addr

/-- The time code of a delta (R228). -/
def codeDelta (d : Nat) : List Bool :=
  if d = 0 then toBits 2 0
  else if d ≤ 256 then toBits 2 1 ++ toBits 8 (d - 1)
  else if d ≤ 16383 then toBits 2 2 ++ toBits 14 d
  else toBits 2 3 ++ toBits 2 2 ++ toBits 23 d

/-- The identity code (R228). -/
def codeIdent (prev id : Nat) : List Bool :=
  if id = prev ^^^ 1 then toBits 2 0
  else if id = prev then toBits 2 3
  else if id / 8 = prev / 8 then toBits 2 1 ++ toBits 3 (id % 8)
  else toBits 2 2 ++ toBits 11 id

/-- The flags code (R228). -/
def codeFlags (prev fl : Nat) : List Bool :=
  if fl = 0 then toBits 2 0
  else if fl = prev then toBits 2 1
  else if fl = 2 then toBits 2 3
  else toBits 2 2 ++ toBits 6 fl

/-- Code one item of a hit-record stream: seven words are an input trailer, two a mark, a record or a marker; no
code for anything else (R224, R228). -/
def codeHit (c : Coder) (ws : List Nat) : Option (List Bool × Coder) :=
  if ws.length = 7 then some (toBits 2 3 ++ toBits 2 3 ++ wordBits ws, c)
  else if ws.length = 2 then
    let x := ofWords ws
    if isMark40 x then
      let m := markOf40 x
      if m.word40 = x then some (toBits 2 3 ++ toBits 2 0 ++ codeMark c m, c.remember m) else none
    else
      let t := bits x 22 0
      let d := (t + 2 ^ 23 - c.t) % 2 ^ 23
      let id := bits x 39 29
      let fl := bits x 28 23
      some (codeDelta d ++ codeIdent c.id id ++ codeFlags c.fl fl, { c with t, id, fl })
  else none

/-- The count code (R230). -/
def codeCount (n : Nat) : List Bool :=
  if n ≤ 15 then toBits 2 0 ++ toBits 4 n
  else if n ≤ 255 then toBits 2 1 ++ toBits 8 n
  else toBits 2 2 ++ toBits 14 n

/-- The widths code (R230). -/
def codeWidths (mn mx : Nat) : List Bool :=
  if mn = 0x3FFFF ∧ mx = 0 then toBits 2 0
  else if mn ≤ 255 ∧ mx ≤ 255 then toBits 2 1 ++ toBits 8 mn ++ toBits 8 mx
  else if mn ≤ 4095 ∧ mx ≤ 4095 then toBits 2 2 ++ toBits 12 mn ++ toBits 12 mx
  else toBits 2 3 ++ toBits 18 mn ++ toBits 18 mx

/-- Code one item of a summary stream (R230). -/
def codeSum (c : Coder) (ws : List Nat) : Option (List Bool × Coder) :=
  if ws.length = 3 then
    let x := ofWords ws
    if isMark60 x then
      let m := markOf60 x
      if m.word60 = x then some (toBits 2 3 ++ toBits 2 0 ++ codeMark c m, c.remember m) else none
    else if isMarker60 x then
      if bits x 33 23 = 0 then
        some (toBits 2 3 ++ toBits 2 1 ++ toBits 8 (bits x 59 52) ++ toBits 2 (bits x 51 50) ++ toBits 1 (bits x 35 35) ++
          toBits 1 (bits x 34 34) ++ toBits 23 (bits x 22 0), c)
      else none
    else
      let inp := bits x 59 52
      let th := bits x 51 50
      let cnt := bits x 49 36
      let mn := bits x 35 18
      let mx := bits x 17 0
      let nxt := (c.inp + 1) % 256
      let rest := toBits 2 th ++ codeCount cnt ++ codeWidths mn mx
      let bs :=
        if inp = nxt then
          (if th = 0 ∧ cnt = 0 ∧ mn = 0x3FFFF ∧ mx = 0 then toBits 2 0 else toBits 2 1 ++ rest)
        else toBits 2 2 ++ toBits 8 inp ++ rest
      some (bs, { c with inp })
  else none

/-- Code the items of a segment in order (R227). -/
def codeItems (summary : Bool) : Coder → List (List Nat) → Option (List Bool)
  | _, [] => some []
  | c, ws :: t =>
    match (if summary then codeSum c ws else codeHit c ws) with
    | some (bs, c) => (codeItems summary c t).map (bs ++ ·)
    | none => none

/-! ### The compressor (R223 to R226) -/

/-- Cut a body into its items, of the lengths given. -/
def cutItems : List Nat → List FWord → List (List FWord)
  | [], _ => []
  | n :: t, ws => ws.take n :: cutItems t (ws.drop n)

/-- Group the items by the span of 32 words their first word lies in: the current span, its items newest first, and
the words before the next item (R224). -/
def spanItems : List (List FWord) → (at_ span : Nat) → List (List FWord) → List (List (List FWord))
  | [], _, _, acc => if acc.isEmpty then [] else [acc.reverse]
  | it :: t, at_, span, acc =>
    if at_ / 32 = span then spanItems t (at_ + it.length) span (it :: acc)
    else
      let rest := spanItems t (at_ + it.length) (at_ / 32) [it]
      if acc.isEmpty then rest else acc.reverse :: rest

/-- A segment header word (R224). -/
def segHeader (coded : Bool) (win wout items : Nat) : Nat :=
  (if coded then 2 ^ 19 else 0) + win * 2 ^ 13 + wout * 2 ^ 7 + items

/-- Pack one segment: coded if no word is poisoned and the coded form is shorter, otherwise stored (R225). -/
def packSegment (summary : Bool) (items : List (List FWord)) : List FWord :=
  let ws := items.flatten
  let stored := fw (segHeader false ws.length ws.length 0) :: ws
  if ws.any (·.poison) then stored
  else match codeItems summary {} (items.map (·.map wv)) with
    | some bs =>
      let n := ceilDiv bs.length 20
      if n < ws.length then fw (segHeader true ws.length n items.length) :: (bitWords n bs).map fw else stored
    | none => stored

/-- The packed body of a merged body with its item lengths: prologue and segments (R223). -/
def packBody (summary : Bool) (lens : List Nat) (body : List FWord) : List FWord :=
  let segs := spanItems (cutItems lens body) 0 0 []
  let check := sum20 (body.map wv)
  [fw body.length, fw segs.length, fw check] ++ segs.flatMap (packSegment summary)

/-! ### The decoder (R238, R239) -/

/-- Take `k` bits; `none` where the string ends first. -/
def getBits (k : Nat) (bs : List Bool) : Option (Nat × List Bool) :=
  if bs.length < k then none else some (ofBits (bs.take k), bs.drop k)

/-- Decode a mark (getmark of R239). -/
def getMark (c : Coder) (bs : List Bool) : Option (Mark × Coder × List Bool) := do
  let (k, bs) ← getBits 2 bs
  if k = 0 then
    let m ← c.m2
    some (m, c.remember m, bs)
  else if k = 1 then
    let a ← c.m1
    let (v, bs) ← getBits 4 bs
    if a.tier ≤ 4 then
      let m := { a with addr := setNibble a.addr a.tier v }
      some (m, c.remember m, bs)
    else none
  else if k = 2 then
    let a ← c.m1
    let (v, bs) ← getBits 20 bs
    let m := { a with addr := v }
    some (m, c.remember m, bs)
  else
    let (e, bs) ← getBits 8 bs
    let (t, bs) ← getBits 3 bs
    let (v, bs) ← getBits 20 bs
    let m : Mark := { ep := e, tier := t, addr := v }
    some (m, c.remember m, bs)

/-- The identity and flags of a record, after its time. -/
def getRecord (c : Coder) (d : Nat) (bs : List Bool) : Option (List Nat × Coder × List Bool) := do
  let t := (c.t + d) % 2 ^ 23
  let (k, bs) ← getBits 2 bs
  let (id, bs) ←
    if k = 0 then some (c.id ^^^ 1, bs)
    else if k = 1 then (getBits 3 bs).map fun x => (c.id / 8 * 8 + x.1, x.2)
    else if k = 2 then getBits 11 bs
    else some (c.id, bs)
  let (k, bs) ← getBits 2 bs
  let (fl, bs) ←
    if k = 0 then some (0, bs)
    else if k = 1 then some (c.fl, bs)
    else if k = 2 then getBits 6 bs
    else some (2, bs)
  some (toWords 2 (id * 2 ^ 29 + fl * 2 ^ 23 + t), { c with t, id, fl }, bs)

/-- Decode one item of a hit-record stream (hit_seg of R239). -/
def getHit (c : Coder) (bs : List Bool) : Option (List Nat × Coder × List Bool) := do
  let (k, bs) ← getBits 2 bs
  if k = 3 then
    let (e, bs) ← getBits 2 bs
    if e = 0 then
      let (m, c, bs) ← getMark c bs
      some (toWords 2 m.word40, c, bs)
    else if e = 3 then
      let (x, bs) ← getBits 140 bs
      some (toWords 7 x, c, bs)
    else if e = 1 then none
    else
      let (d, bs) ← getBits 23 bs
      getRecord c d bs
  else if k = 0 then getRecord c 0 bs
  else if k = 1 then
    let (d, bs) ← getBits 8 bs
    getRecord c (d + 1) bs
  else
    let (d, bs) ← getBits 14 bs
    getRecord c d bs

/-- The count and widths of a summary record. -/
def getSumRest (c : Coder) (inp : Nat) (bs : List Bool) : Option (List Nat × Coder × List Bool) := do
  let (th, bs) ← getBits 2 bs
  let (k, bs) ← getBits 2 bs
  if k = 3 then none
  else
    let (cnt, bs) ← getBits (if k = 0 then 4 else if k = 1 then 8 else 14) bs
    if cnt = 0x3FFF then none
    else
      let (k, bs) ← getBits 2 bs
      if k = 0 then some (toWords 3 (inp * 2 ^ 52 + th * 2 ^ 50 + cnt * 2 ^ 36 + 0x3FFFF * 2 ^ 18), { c with inp }, bs)
      else
        let w := if k = 1 then 8 else if k = 2 then 12 else 18
        let (mn, bs) ← getBits w bs
        let (mx, bs) ← getBits w bs
        some (toWords 3 (inp * 2 ^ 52 + th * 2 ^ 50 + cnt * 2 ^ 36 + mn * 2 ^ 18 + mx), { c with inp }, bs)

/-- Decode one item of a summary stream (summary_seg of R239). -/
def getSum (c : Coder) (bs : List Bool) : Option (List Nat × Coder × List Bool) := do
  let (k, bs) ← getBits 2 bs
  if k = 3 then
    let (e, bs) ← getBits 2 bs
    if e = 0 then
      let (m, c, bs) ← getMark c bs
      some (toWords 3 m.word60, c, bs)
    else if e = 1 then
      let (a, bs) ← getBits 8 bs
      let (th, bs) ← getBits 2 bs
      let (ed, bs) ← getBits 1 bs
      let (rf, bs) ← getBits 1 bs
      let (t, bs) ← getBits 23 bs
      some (toWords 3 (a * 2 ^ 52 + th * 2 ^ 50 + 0x3FFF * 2 ^ 36 + ed * 2 ^ 35 + rf * 2 ^ 34 + t), c, bs)
    else none
  else if k = 2 then
    let (inp, bs) ← getBits 8 bs
    getSumRest c inp bs
  else
    let inp := (c.inp + 1) % 256
    if k = 0 then some (toWords 3 (inp * 2 ^ 52 + 0x3FFFF * 2 ^ 18), { c with inp }, bs)
    else getSumRest c inp bs

/-- Decode `n` items; the words of each, and the bits left. -/
def getItems (summary : Bool) : (n : Nat) → Coder → List Bool → Option (List (List Nat) × List Bool)
  | 0, _, bs => some ([], bs)
  | n + 1, c, bs =>
    match (if summary then getSum c bs else getHit c bs) with
    | some (ws, c, bs) => (getItems summary n c bs).map fun r => (ws :: r.1, r.2)
    | none => none

/-- The words of a decoded item: those of a record of a segment with a word accepted on replay are marked so, and have RPL
set once the fragment has passed its check (R51, R237). -/
def decodedItem (replayed : Bool) (ws : List Nat) : List FWord :=
  ws.map fun x => { fw x with replayed := replayed && ws.length == 2 && !isMark40 (ofWords ws) }

/-- Expand a coded segment: `none` is a defect of cause 3 (R238). -/
def expandCoded (summary : Bool) (items win : Nat) (ws : List FWord) : Option (List FWord) :=
  if ws.any (·.poison) then none
  else match getItems summary items {} (wordBits (ws.map wv)) with
    | some (its, rest) =>
      if rest.all (! ·) && its.flatten.length == win then some (its.flatMap (decodedItem (!summary && ws.any (·.replayed)))) else none
    | none => none

/-- A segment header's fields are in range (R224, R238 cause 2). -/
def segOk (h : Nat) : Bool :=
  let win := bits h 18 13
  let wout := bits h 12 7
  let items := bits h 6 0
  decide (1 ≤ win ∧ win ≤ 38) &&
    (if bit h 19 then decide (1 ≤ wout ∧ wout < win) && decide (1 ≤ items ∧ items ≤ 16) else wout == win && items == 0)

/-- Poisoned words. -/
def poisonRun (n : Nat) : List FWord := List.replicate n poisonWord

/-- What the segments of a packed body expand to, `left` expanded words to go: the words, the causes of the defects
found in order, and the packed words left over. -/
def expandSegs (summary : Bool) : (k : Nat) → List FWord → (left : Nat) → List FWord × List Nat × List FWord
  | 0, rest, _ => ([], [], rest)
  | k + 1, h :: ws, left =>
    let win := bits (wv h) 18 13
    let wout := bits (wv h) 12 7
    if h.poison || !segOk (wv h) || decide (left < win) || decide (ws.length < wout) then (poisonRun left, [2], [])
    else
      let seg := ws.take wout
      let r := expandSegs summary k (ws.drop wout) (left - win)
      if bit (wv h) 19 then
        match expandCoded summary (bits (wv h) 6 0) win seg with
        | some out => (out ++ r.1, r.2)
        | none => (poisonRun win ++ r.1, 3 :: r.2.1, r.2.2)
      else (seg ++ r.1, r.2)
  | _ + 1, [], left => (poisonRun left, [2], [])

/-- An expanded fragment, or nothing where it counts as unusable, and the causes of its defects in order. -/
structure Expanded where
  words : Option (List FWord)
  causes : List Nat
  deriving DecidableEq, Repr, Inhabited

/-- Set bits [19:16] of a framing word. -/
def setKind (k : Nat) (w : FWord) : FWord :=
  if w.poison then w else { w with data := BitVec.ofNat 20 (k * 2 ^ 16 + wv w % 2 ^ 16) }

/-- Set POIS, bit 4 of a merged End 0. -/
def setPois (w : FWord) : FWord :=
  if w.poison then w else { w with data := BitVec.ofNat 20 (setBit (wv w) 4) }

/-- Expand a packed fragment, framing included (R238, R239). -/
def expandPacked (p : List FWord) : Expanded :=
  let hdr := p.take 6
  let pn := p.length - 8
  let body := (p.drop 6).take pn
  let end0 := p.getD (p.length - 2) poisonWord
  let end1 := p.getD (p.length - 1) poisonWord
  match body with
  | w0 :: w1 :: chk :: segs =>
    let n := wv w0
    let k := wv w1
    if w0.poison || w1.poison || decide (n < k) then { words := none, causes := [1] }
    else
      let summary := bits (wv (p.getD 0 poisonWord)) 13 12 == 2
      let (out, c, rest) := expandSegs summary k segs n
      let short := out.length != n
      let cause4 := !c.contains 2 && (short || !rest.isEmpty || (!end1.poison && wv end1 != pn))
      let cause4 := cause4 || (c.contains 2 && !end1.poison && wv end1 != pn)
      let out := (out ++ poisonRun (n - out.length)).take n
      let c := c ++ (if cause4 then [4] else [])
      let anyPois := p.any (·.poison)
      let cause5 := !anyPois && c.isEmpty && sum20 (out.map wv) != wv chk
      let out := if cause5 then poisonRun n else out
      let c := c ++ (if cause5 then [5] else [])
      let e0 := setKind 4 end0
      let e0 := if out.any (·.poison) then setPois e0 else e0
      let h := match hdr with
        | a :: t => setKind 3 a :: t
        | [] => []
      { words := some (h ++ out ++ [e0, fw n]), causes := c }
  | _ => { words := none, causes := [1] }

/-! ### Charges (R236) -/

/-- The charge of the words after the prologue: `k` segments and `left` expanded words to come, and `skip` words of the
current segment. After the last segment come the end words; after a defective header nothing more can be charged. -/
def chargeSegs : (k left skip : Nat) → List FWord → Nat
  | _, _, _, [] => 0
  | k, left, skip + 1, _ :: t => chargeSegs k left skip t
  | 0, _, 0, ws => min ws.length 2
  | k + 1, left, 0, h :: t =>
    let win := bits (wv h) 18 13
    if h.poison || !segOk (wv h) || decide (left < win) then 0
    else win + chargeSegs k (left - win) (bits (wv h) 12 7) t

/-- The charge of all the words of a packed fragment received so far (R236): headers and end words 1 each, segment headers
their w_in. A `whole` fragment is charged the words that are filed for it, 8 + n. -/
def chargePacked (p : List FWord) (whole : Bool) : Nat :=
  let h := min p.length 6
  match p.drop 6 with
  | w0 :: w1 :: _ :: segs =>
    if whole && !w0.poison then h + wv w0 + 2
    else
      let k := if w1.poison then 2 ^ 20 else wv w1
      let n := if w0.poison then 2 ^ 20 else wv w0
      if whole then h + chargeSegs k n 0 (segs.take (segs.length - 2)) + 2 else h + chargeSegs k n 0 segs
  | _ => if whole then p.length else h

end Sys2Proof.Machine
end

