-- ==== Sys2Proof/Machine/Merge.lean ====
section
/-! DEFINITION. The merge: parsing child fragments, merge keys, the 16-way merge, trailers and the merged fragment
(R182, R200 to R209). -/
namespace Sys2Proof.Machine

/-! ### Framing of child fragments -/

/-- The word kind of a framing word. -/
def kindOf (w : FWord) : Nat := bits (wv w) 19 16

/-- The event id in words 1 to 3 of a header (R126, R205). -/
def eventId (ws : List FWord) : Nat := ofWords (((ws.drop 1).take 3).map wv)

/-- Header and end lengths of a fragment: five and three words of a Leaf's, six and two of a merged one. -/
def isLeafForm (ws : List FWord) : Bool := kindOf (ws.getD 0 poisonWord) == 1
def headLen (ws : List FWord) : Nat := if isLeafForm ws then 5 else 6
def endLen (ws : List FWord) : Nat := if isLeafForm ws then 3 else 2

/-- The words between header and end words. -/
def bodyOf (ws : List FWord) : List FWord := (ws.drop (headLen ws)).take (ws.length - headLen ws - endLen ws)

/-- The status of a fragment as bits [11:3] of a merged End 0 (R127, R205): REFL to POIS and INCOMPLETE. A poisoned
end word tells nothing but that it is poisoned. -/
def statusBits (ws : List FWord) : Nat :=
  if isLeafForm ws then
    let e := ws.getD (ws.length - 2) poisonWord
    if e.poison then 0 else bits (wv e) 19 12 * 16
  else
    let e := ws.getD (ws.length - 2) poisonWord
    if e.poison then 0 else bits (wv e) 11 3 * 8

/-! ### Items -/

/-- An item of a port's stream: its merge key, its source, its words, and whether it goes after all markers (R202). -/
structure MItem where
  key : Nat := 0
  src : Mark := default
  ws : List FWord := []
  sum : Bool := false
  deriving DecidableEq, Repr, Inhabited

/-- An item holds a poisoned word. -/
def poisoned (ws : List FWord) : Bool := ws.any (·.poison)

/-- The first word of an item is good. -/
def headGood (ws : List FWord) : Bool := match ws with | w :: _ => !w.poison | [] => false

/-- The number an item's words spell. -/
def itemNum (ws : List FWord) : Nat := ofWords (ws.map wv)

/-- Cut words into items of `n`; a last item that is cut short is filled with poisoned words. -/
def chunk (n : Nat) : (fuel : Nat) → List FWord → List (List FWord)
  | 0, _ => []
  | _, [] => []
  | f + 1, ws => ((ws ++ poisonRun n).take n) :: chunk n f (ws.drop n)

/-- A two-word item with a good first word that has both mark bits is a source mark (R206). -/
def isMarkItem (ws : List FWord) : Bool :=
  match ws with
  | [a, _] => !a.poison && bit (wv a) 8 && bit (wv a) 5
  | _ => false

/-- The source a mark names; the unknown mark where its other word is poisoned (R204). -/
def markOfItem (ws : List FWord) : Mark := if poisoned ws then unknownMark else markOf40 (itemNum ws)

/-- RPL is set in a hit record one of whose words was accepted on replay (R51). -/
def withRpl (ws : List FWord) : List FWord :=
  match ws with
  | [a, b] =>
    if (a.replayed || b.replayed) && !a.poison then [{ a with data := BitVec.ofNat 20 (setBit (wv a) 3), replayed := false }, { b with replayed := false }]
    else ws
  | l => l

/-- The records of a hit-record stream with their sources, in order: marks set the source of what follows (R206). -/
def hitItems (src : Mark) : List (List FWord) → List MItem
  | [] => []
  | ws :: t => if isMarkItem ws then hitItems (markOfItem ws) t else { src, ws := withRpl ws } :: hitItems src t

/-- Keys of a streaming port: time-in-frame, and of a poisoned record the key before it (R200, R204). -/
def timeKeys (prev : Nat) : List MItem → List MItem
  | [] => []
  | x :: t =>
    let k := if poisoned x.ws then prev else itemNum x.ws % 2 ^ 23
    { x with key := k } :: timeKeys k t

/-- Some item of a summary stream is a good marker item (R155). -/
def markerAhead (l : List (List FWord)) : Bool :=
  l.any fun ws => !poisoned (ws.take 2) && isMarker60 (itemNum ws) && !isMark60 (itemNum ws)

/-- The items of a summary stream, with sources and keys: marker items first by time, then summary records (R200,
R202). An item whose first word is poisoned is taken as a summary record unless marker items follow it; one with the item
code in its first word and its second word poisoned is taken as a source item in a merged stream and as a marker item in
a Leaf's, unless summary records came before it (R204). -/
def sumItems (leaf : Bool) (src : Mark) (prev : Nat) (inSum : Bool) : List (List FWord) → List MItem
  | [] => []
  | ws :: t =>
    let a := ws.getD 0 poisonWord
    let b := ws.getD 1 poisonWord
    let x := itemNum ws
    if !leaf && !a.poison && b.poison && bits (wv a) 9 0 == 0x3FF then sumItems leaf unknownMark prev inSum t
    else if a.poison || b.poison then
      let s := inSum || (if a.poison then !markerAhead t else bits (wv a) 9 0 != 0x3FF)
      { key := prev, src, ws, sum := s } :: sumItems leaf src prev s t
    else if isMark60 x then sumItems leaf (if poisoned ws then unknownMark else markOf60 x) prev inSum t
    else if isMarker60 x then
      let k := if poisoned ws then prev else x % 2 ^ 23
      { key := k, src, ws, sum := false } :: sumItems leaf src k inSum t
    else { key := prev, src, ws, sum := true } :: sumItems leaf src prev true t

/-! ### Triggered bodies (R172, R204, R209) -/

/-- The input of a record whose first word is good. -/
def inputOf (ws : List FWord) : Option Nat :=
  if headGood ws then some (bits (wv (ws.getD 0 poisonWord)) 19 12) else none

/-- Where the body ends and the trailer section begins: two-word items are taken until the words used and the
trailers they call for meet `count` (R209; R172 for a Leaf's, which has no marks). `seen` holds the sources with
records, each with its inputs. -/
def splitPoint (leaf : Bool) (count : Nat) :
    (fuel : Nat) → List (List FWord) → (i trail : Nat) → Mark → List (Mark × List Nat) → Option Nat
  | 0, _, _, _, _, _ => none
  | f + 1, items, i, trail, src, seen =>
    if i + trail = count then some i
    else if count < i + trail then none
    else match items with
      | [] => none
      | ws :: t =>
        if !leaf && isMarkItem ws then splitPoint leaf count f t (i + 2) trail (markOfItem ws) seen
        else
          let old := (seen.find? fun x => x.1 == src).map (·.2)
          let first := if old.isNone && !leaf then 2 else 0
          let ins := old.getD []
          let (new, ins) := match inputOf ws with
            | some n => if ins.contains n then (0, ins) else (7, n :: ins)
            | none => (0, ins)
          splitPoint leaf count f t (i + 2) (trail + first + new) src ((src, ins) :: seen.filter fun x => x.1 != src)

/-- The count of a fragment's words as its last word tells it: End 2 of a Leaf's, End 1 of a merged one; nothing where
that word is poisoned in a merged fragment (R172, R209). -/
def toldCount (ws : List FWord) : Option Nat :=
  let e := ws.getD (ws.length - 1) poisonWord
  if isLeafForm ws then some (bodyOf ws).length else if e.poison then none else some (wv e)

/-- The place where the trailers of a triggered fragment begin; nothing where it cannot be found (R183). -/
def trailerStart (ws : List FWord) : Option Nat :=
  let body := bodyOf ws
  match toldCount ws with
  | some n => splitPoint (isLeafForm ws) n (body.length + 2) (chunk 2 (body.length + 1) body) 0 0 unknownMark []
  | none => none

/-- An input trailer's fields (R171): input, first and last record time, split index. -/
structure Trailer where
  input : Nat
  first : Nat
  last : Nat
  split : Nat
  deriving DecidableEq, Repr, Inhabited

/-- The fields of a trailer without poisoned words. -/
def trailerOf (ws : List FWord) : Option Trailer :=
  if poisoned ws then none
  else
    let x := itemNum ws
    some { input := bits x 139 132, first := bits x 67 44, last := bits x 43 20, split := bits x 19 0 }

/-- A source's trailers as a child delivered them, and whether its mark stood in its place. -/
structure TGroup where
  src : Mark
  trailers : List (List FWord)
  markOk : Bool := true
  deriving DecidableEq, Repr, Inhabited

/-- The distinct sources of a list of items, in order of their first records. -/
def sourcesOf : List MItem → List Mark
  | [] => []
  | x :: t => x.src :: (sourcesOf t).filter (· != x.src)

/-- The distinct inputs of a source's records. -/
def inputsOf (l : List MItem) (src : Mark) : List Nat :=
  ((l.filter fun x => x.src == src).filterMap fun x => inputOf x.ws).eraseDups

/-- The trailer groups of a child's section, by position: one for each source with records, in the order of the sources; its
mark stands in its place where it names that source (R204, R205). -/
def takeGroups (l : List MItem) : List Mark → List FWord → List TGroup
  | [], _ => []
  | s :: ss, ws =>
    let mk := ws.take 2
    let ok := isMarkItem mk && !poisoned mk && markOf40 (itemNum mk) == s
    let a := (inputsOf l s).length
    { src := s, trailers := chunk 7 (a + 1) ((ws.drop 2).take (7 * a)), markOk := ok } :: takeGroups l ss (ws.drop (2 + 7 * a))

/-- Sort numbers, smallest first. -/
def insNat (n : Nat) : List Nat → List Nat
  | [] => [n]
  | m :: t => if n ≤ m then n :: m :: t else m :: insNat n t
def sortNat (l : List Nat) : List Nat := l.foldr insNat []

/-- A source's records on one input, in order: each one's time-in-frame, none where it is poisoned. -/
def tausOf (l : List MItem) (src : Mark) (n : Nat) : List (Option Nat) :=
  (l.filter fun x => x.src == src && inputOf x.ws == some n).map fun x =>
    if poisoned x.ws then none else some (itemNum x.ws % 2 ^ 23)

/-- Whether a source's trailers can be used: none poisoned, its mark in place, one for each input with records and
no other, and every split index below the input's record count (R204). -/
def groupConsistent (l : List MItem) (g : TGroup) : Bool :=
  let ts := g.trailers.filterMap trailerOf
  let ins := inputsOf l g.src
  g.markOk && ts.length == ins.length && sortNat (ts.map (·.input)) == sortNat ins &&
    ts.all fun t => decide (t.split < (tausOf l g.src t.input).length)

/-- Some trailer word of the group is poisoned. -/
def groupPoisoned (g : TGroup) : Bool := g.trailers.any poisoned

/-- Offsets from the window start going forward from the first record (R172). -/
def fwdOffsets : List (Option Nat) → (off tau : Nat) → List Nat
  | [], _, _ => []
  | none :: t, off, tau => off :: fwdOffsets t off tau
  | some x :: t, off, tau => let o := off + (x + 2 ^ 23 - tau) % 2 ^ 23; o :: fwdOffsets t o x

/-- Offsets going back from the last record; the list is in reverse order (R172). -/
def bwdOffsets : List (Option Nat) → (off tau : Nat) → List Nat
  | [], _, _ => []
  | none :: t, off, tau => off :: bwdOffsets t off tau
  | some x :: t, off, tau => let o := off - (tau + 2 ^ 23 - x) % 2 ^ 23; o :: bwdOffsets t o x

/-- The time-in-frame of the record that a list begins with: its own, or where that is poisoned the one its offset from
the window start gives. -/
def headTau (w0 off : Nat) (l : List (Option Nat)) : Nat := (l.head?.join).getD ((w0 + off) % 2 ^ 23)

/-- The offsets of one input's records, restored from its trailer (R172). -/
def restore (w0 : Nat) (t : Trailer) (taus : List (Option Nat)) : List Nat :=
  let a := if t.split = 0 then taus else taus.take t.split
  let b := if t.split = 0 then [] else (taus.drop t.split).reverse
  fwdOffsets a t.first (headTau w0 t.first a) ++ (bwdOffsets b t.last (headTau w0 t.last b)).reverse

/-- Offsets of a source's records by input, from usable trailers. -/
def sourceOffsets (w0 : Nat) (l : List MItem) (g : TGroup) : List (Nat × List Nat) :=
  (g.trailers.filterMap trailerOf).map fun t => (t.input, restore w0 t (tausOf l g.src t.input))

/-- Take the next offset of an input. -/
def popOffset (n : Nat) : List (Nat × List Nat) → Nat × List (Nat × List Nat)
  | [] => (0, [])
  | (m, os) :: t =>
    if m = n then (os.headD 0, (m, os.tail) :: t)
    else
      let r := popOffset n t
      (r.1, (m, os) :: r.2)

/-- The key of a record without usable trailers: the smaller of its two possible offsets not below the record before
it in its source, or that record's key (R204). -/
def looseKey (w0 tau prev : Nat) : Nat :=
  let k0 := (tau + 2 ^ 23 - w0 % 2 ^ 23) % 2 ^ 23
  if prev ≤ k0 then k0 else if prev ≤ k0 + 2 ^ 23 then k0 + 2 ^ 23 else prev

/-- What keying a triggered port keeps: remaining offsets of usable sources, and the last key of each other source. -/
structure KeyState where
  offs : List (Mark × List (Nat × List Nat))
  last : List (Mark × Nat) := []
  deriving DecidableEq, Repr, Inhabited

/-- Keys of a triggered port's records, in order (R200, R204). -/
def trigKeys (w0 : Nat) : (prev : Nat) → KeyState → List MItem → List MItem
  | _, _, [] => []
  | prev, st, x :: t =>
    if poisoned x.ws then
      let st := match st.offs.find? fun o => o.1 == x.src with
        | some (_, os) => (match inputOf x.ws with
          | some n => { st with offs := (x.src, (popOffset n os).2) :: st.offs.filter fun o => o.1 != x.src }
          | none => st)
        | none => { st with last := (x.src, prev) :: st.last.filter fun o => o.1 != x.src }
      { x with key := prev } :: trigKeys w0 prev st t
    else match st.offs.find? fun o => o.1 == x.src with
      | some (_, os) =>
        let (k, os) := popOffset ((inputOf x.ws).getD 0) os
        { x with key := k } :: trigKeys w0 k { st with offs := (x.src, os) :: st.offs.filter fun o => o.1 != x.src } t
      | none =>
        let p := ((st.last.find? fun o => o.1 == x.src).map (·.2)).getD 0
        let k := looseKey w0 (itemNum x.ws % 2 ^ 23) p
        { x with key := k } :: trigKeys w0 k { st with last := (x.src, k) :: st.last.filter fun o => o.1 != x.src } t

/-! ### A port's stream -/

/-- A present port's contribution to a merge. -/
structure PortIn where
  port : Nat
  words : List FWord
  /-- The tier a Leaf-form fragment's source has (R208). -/
  tier : Nat
  deriving DecidableEq, Repr, Inhabited

/-- The source of a Leaf-form fragment (R208). -/
def leafSource (x : PortIn) : Mark :=
  { ep := bits (wv (x.words.getD 0 poisonWord)) 7 0, tier := x.tier, addr := wv (x.words.getD 4 poisonWord) }

/-- The items of a port's fragment without keys, and its trailer groups, in a hit-record mode. -/
def portHits (trig : Bool) (x : PortIn) : List MItem × List TGroup :=
  let body := bodyOf x.words
  let cut := if trig then (trailerStart x.words).getD body.length else body.length
  let src := if isLeafForm x.words then leafSource x else unknownMark
  let items := hitItems src (chunk 2 (body.length + 1) (body.take cut))
  let groups :=
    if !trig then []
    else if isLeafForm x.words then
      (if items.isEmpty then [] else [{ src, trailers := chunk 7 (body.length + 1) (body.drop cut) }])
    else takeGroups items (sourcesOf items) (body.drop cut)
  (items, groups)

/-- The items of a port's summary fragment, keyed. -/
def portSums (x : PortIn) : List MItem :=
  let src := if isLeafForm x.words then leafSource x else unknownMark
  let body := bodyOf x.words
  sumItems (isLeafForm x.words) src 0 false (chunk 3 (body.length + 1) body)

/-- A group whose trailers key its records. -/
def groupUsable (l : List MItem) (g : TGroup) : Bool := !groupPoisoned g && groupConsistent l g

/-- The window start modulo 2^23 that some good trailer of the merge gives (R204). -/
def trailerW0 (ports : List (List MItem × List TGroup)) : Option Nat :=
  ports.findSome? fun (l, gs) => gs.findSome? fun g =>
    if g.markOk then (g.trailers.filterMap trailerOf).findSome? fun t =>
      ((tausOf l g.src t.input).head?.join).map fun tau => (tau + 2 ^ 24 - t.first) % 2 ^ 23
    else none

/-! ### The merge (R201, R202, R205) -/

/-- The port whose head has the smallest key, the lowest port among equals; with its head and the rest. -/
def pickHead : List (List MItem) → Option (MItem × List (List MItem))
  | [] => none
  | l :: t =>
    match l, pickHead t with
    | [], some (x, r) => some (x, [] :: r)
    | [], none => none
    | a :: as, some (x, r) => if a.key ≤ x.key then some (a, as :: t) else some (x, (a :: as) :: r)
    | a :: as, none => some (a, as :: t)

/-- The 16-way merge in ascending key order (R201). -/
def mergeAll : (fuel : Nat) → List (List MItem) → List MItem
  | 0, _ => []
  | f + 1, ls =>
    match pickHead ls with
    | some (x, r) => x :: mergeAll f r
    | none => []

/-- The source marks of the body: one before each run of items from one source (R205). -/
def withMarks (enc : Mark → List FWord) (last : Option Mark) : List MItem → List (List FWord)
  | [] => []
  | x :: t => (if last = some x.src then [x.ws] else [enc x.src, x.ws]) ++ withMarks enc (some x.src) t

/-- A source mark as the two words of a hit-record stream, a source item as the three of a summary stream. -/
def markWords (m : Mark) : List FWord := (toWords 2 m.word40).map fw
def sourceWords (m : Mark) : List FWord := (toWords 3 m.word60).map fw

/-- The trailer section of one group: its mark and its trailers, replaced by poisoned words where they are inconsistent
but not poisoned (R205). -/
def groupItems (l : List MItem) (g : TGroup) : List (List FWord) :=
  markWords g.src ::
    (if !groupPoisoned g && !groupConsistent l g || !g.markOk then (inputsOf l g.src).map fun _ => poisonRun 7 else g.trailers)

/-- The body items of a merge in mode 0 streaming, 1 triggered or 2 summary, with the window start known or not. -/
def mergeItems (mode : Nat) (w0 : Option Nat) (ports : List PortIn) : List (List FWord) :=
  if mode = 2 then
    let ls := ports.map portSums
    let n := ls.foldl (fun a l => a + l.length) 0
    let markers := mergeAll (n + 1) (ls.map fun l => l.filter fun x => !x.sum)
    withMarks sourceWords none (markers ++ ls.flatMap fun l => l.filter (·.sum))
  else
    let ps := ports.map (portHits (mode == 1))
    let w := (w0.orElse fun _ => trailerW0 ps).getD 0
    let ls := ps.map fun (l, gs) =>
      if mode = 1 then
        trigKeys w 0 { offs := (gs.filter (groupUsable l)).map fun g => (g.src, sourceOffsets w l g) } l
      else timeKeys 0 l
    let n := ls.foldl (fun a l => a + l.length) 0
    withMarks markWords none (mergeAll (n + 1) ls) ++ ps.flatMap fun (l, gs) => gs.flatMap (groupItems l)

/-- Some record of the body carries RPL: bit 23 of a good two-word item that is no mark (R125). -/
def anyRpl (mode : Nat) (items : List (List FWord)) : Bool :=
  mode != 2 && items.any fun ws => ws.length == 2 && headGood ws && !isMarkItem ws && bit (wv (ws.getD 0 poisonWord)) 3

/-- A merged fragment: header, body and end words (R205). `codes` are the port codes, two bits a port, D0 lowest. -/
structure Merged where
  words : List FWord
  lens : List Nat
  deriving DecidableEq, Repr, Inhabited

/-- Build the merged fragment of an event (R205). -/
def mergeFragment (view mode id addr codes : Nat) (tunl incomplete : Bool) (w0 : Option Nat) (ports : List PortIn) : Merged :=
  let items := mergeItems mode w0 ports
  let body := items.flatten
  let st := ports.foldl (fun a x => a ||| statusBits x.words) 0
  let pois := ports.any fun x => (x.words.drop (headLen x.words)).any (·.poison)
  let st := putBit st 5 (bit st 5 || anyRpl mode items)
  let st := putBit st 6 (bit st 6 || tunl)
  let st := putBit st 4 (bit st 4 || pois || body.any (·.poison))
  let st := putBit st 3 (bit st 3 || incomplete)
  let vm := view * 2 ^ 14 + mode * 2 ^ 12
  let hdr := [3 * 2 ^ 16 + vm + bits codes 31 20] ++ toWords 3 id ++ [addr, bits codes 19 0]
  { words := hdr.map fw ++ body ++ [fw (4 * 2 ^ 16 + vm + bits st 11 3 * 8), fw (body.length % 2 ^ 20)], lens := items.map List.length }

end Sys2Proof.Machine
end

