-- ==== Sys2Proof/Machine/Store.lean ====
section
/-! DEFINITION. Words of event memory: stored bits, codes and poison, the error log, reads and writes of a bank port, and
cells that hold words (R184, R185, R241 to R243, R248 to R253, R257). -/
namespace Sys2Proof.Machine

/-! ### Words and units -/

/-- The first address of the protected unit of an address: the pair in D2, the word in S1 and P2 (R250). -/
def unitBase (code a : Nat) : Nat := if code = 0 then a / 2 * 2 else a

/-- The addresses of a unit. -/
def unitAddrs (code a : Nat) : List Nat := if code = 0 then [a / 2 * 2, a / 2 * 2 + 1] else [a]

/-- A fill covers the address (R249). -/
def covers (f : Area) (a : Nat) : Bool :=
  ({ b0 := f.b0, nb := f.nb, r0 := f.r0, n := f.n } : Geo).holds a && !f.skip.contains (a / 65536)

/-- The octets of an image. -/
def Image.octetList : Image → List Nat
  | .empty => []
  | .factory => Config.factoryImage
  | .octets os => os

/-- Octets `i` to `i + n - 1` of a list as a number, most significant first. -/
def fieldAt (os : List Nat) (i n : Nat) : Nat := ofOctets ((os.drop i).take n)

/-- The place of a word in the order of its area: its region offset, where no bank is left out (R244). -/
def areaOffset (f : Area) (a : Nat) : Nat := 16 * ((a / 16 % 4096 - f.r0) * f.nb + (a / 65536 - f.b0)) + a % 16

/-- Word `o` of an image's body: three octets, the top four bits zero; 0 beyond it (R476, R484). -/
def bodyWord (i : Image) (o : Nat) : Word :=
  match i with
  | .empty => 0
  | i =>
    let os := i.octetList
    if 3 * o + 2 < fieldAt os 14 4 then BitVec.ofNat 20 (fieldAt os (64 + 3 * o) 3) else 0

/-- What an address that is not listed holds: 0, or a word of the image loaded there, under the code of the newest fill that
covered it, and nothing known elsewhere (R248, R249, R484). -/
def unlisted (p : Part) (a : Nat) : Option MWord :=
  (p.mem.fills.find? fun f => covers f a).map fun f => { code := f.code, data := bodyWord f.body (areaOffset f a) }

/-- What an address holds. -/
def peek (p : Part) (a : Nat) : Option MWord := tget (unlisted p a) p.mem.words a

/-- Store a word at an address. -/
def poke (a : Nat) (w : MWord) (p : Part) : Part :=
  { p with mem := { p.mem with words := tput (unlisted p a) p.mem.words a (some w) } }

/-- Memory is in canonical form: addresses strictly rising, and no entry equal to what an unlisted address holds. -/
def memWf (p : Part) : Bool := tasc none p.mem.words && p.mem.words.all fun kv => decide (kv.2 ≠ unlisted p kv.1)

/-- The data written at an address: where nothing was, what its stored bits hold (R248). -/
def dataAt (p : Part) (a : Nat) : Word :=
  match peek p a with
  | some w => w.data
  | none => BitVec.ofNat 20 (Config.powerUpBits a)

/-- The 27 stored bits of an address: data bits [19:0] and check bits [26:20]. Those a code does not use hold 0: it uses 7
for each word of a D2 pair, 6 in S1 and one for each half in P2 (R241, R250). -/
def storedBits (p : Part) (a : Nat) : Nat :=
  match peek p a with
  | none => Config.powerUpBits a % 2 ^ 27
  | some w =>
    let unit := ofWords ((unitAddrs w.code a).map fun x => (dataAt p x).toNat)
    let all := Config.checkBits w.code unit w.poison
    let check := if w.code = 0 then (all >>> (7 * (1 - a % 2))) % 128 else if w.code = 1 then all % 64 else all % 4
    (w.data.toNat + 2 ^ 20 * check) ^^^ w.flips

/-- Stored bits are upset (R248). -/
def upset (l : Upsets) (p : Part) : Part :=
  forEach l (fun x q => match peek q x.1 with
    | some w => poke x.1 { w with flips := w.flips ^^^ x.2 } q
    | none => q) p

/-! ### Decoding a unit (R250, R251) -/

/-- The bits of a unit in error: the address that holds each and its place there, data bits before check bits and, in a D2
pair, those of the odd word first. -/
def unitErrors (p : Part) (code a : Nat) : List (Nat × Nat) :=
  let at_ := fun (x lo n : Nat) => ((List.range n).filter fun i => match peek p x with | some w => bit w.flips (lo + i) | none => false).map fun i => (x, lo + i)
  let as := (unitAddrs code a).reverse
  as.flatMap (fun x => at_ x 0 20) ++ as.flatMap (fun x => at_ x 20 7)

/-- The position in its unit of a stored bit (R257). -/
def bitPlace (code a i : Nat) : Nat :=
  if code ≠ 0 then i
  else if i < 20 then (if a % 2 = 1 then i else 20 + i)
  else 40 + Config.checkPlace (a % 2 == 1) (i - 20) % 14

/-- A stored bit that a code does not use: it holds 0 and is checked (R250). -/
def unusedBit (code i : Nat) : Bool := if code = 1 then i == 26 else code == 2 && decide (22 ≤ i)

/-- A bit belongs to half `h` of a word in P2: its ten data bits and its check bit (R250). -/
def inHalf (h i : Nat) : Bool := decide (10 * h ≤ i ∧ i < 10 * h + 10) || i == 20 + h

/-- What a port finds in a unit: the words it delivers where the unit is good or corrected; for a correction also the
address of the first bit, and the positions of the two bits, 3Fh for none (R251, R257). -/
inductive Decoded where
  | good (ws : List Word) | fixed (addr x y : Nat) (ws : List Word) | bad | poisoned
  deriving DecidableEq, Repr, Inhabited

/-- The stored data bits of an address as they are now. -/
def rawData (p : Part) (a : Nat) : Word := BitVec.ofNat 20 (storedBits p a)

/-- A unit whose bits were not written under the region's code holds arbitrary bits (R248). -/
def wildUnit (p : Part) (code a : Nat) : Bool :=
  (unitAddrs code a).any fun x => match peek p x with | some w => w.code != code | none => true

/-- The words of a unit as they stand, and as they were written. -/
def rawUnit (p : Part) (code a : Nat) : List Word := (unitAddrs code a).map (rawData p)
@[inherit_doc rawUnit] def writtenUnit (p : Part) (code a : Nat) : List Word := (unitAddrs code a).map (dataAt p)

/-- The address that a position of a unit's numbering names, for an arbitrary unit: a check bit of a pair may stand in
either word. -/
def placeAddr (code a x : Nat) : Nat := if code ≠ 0 then a else if x < 20 then a / 2 * 2 + 1 else a / 2 * 2

/-- What a port finds in a unit of arbitrary bits (R248). -/
def decodeWild (p : Part) (code a : Nat) : Decoded :=
  let k := Config.wildUnit (unitBase code a)
  let n := if code = 0 then 54 else 26
  let x := k / 5 % n
  let ws := rawUnit p code a
  match k % 5 with
  | 0 => .good ws
  | 1 => if code = 2 then .bad else .fixed (placeAddr code a x) x 0x3F ws
  | 2 => if code = 0 then .fixed (placeAddr code a x) x (k / 5 / n % n) ws else .bad
  | 3 => .poisoned
  | _ => .bad

/-- Errors beyond a code's reach can pass unseen or be miscorrected: what is found is a free value (R250). -/
def decodeBeyond (code a : Nat) (ws : List Word) (p : Part) : Decoded × Part :=
  let (f, p) := drawFree p
  let (g, p) := drawFree p
  let n := if code = 0 then 54 else 26
  let x := f / 3 % n
  let y := if code = 0 ∧ f / 3 / n % 2 = 1 then g % n else 0x3F
  let wrong := (List.range ws.length).map fun i => BitVec.ofNat 20 (g / 54 / 2 ^ (20 * i))
  (match f % 3 with
    | 0 => .good ws
    | 1 => .fixed (placeAddr code a x) x y wrong
    | _ => .bad, p)

/-- A unit in poison form that no more errors strike than the code corrects. -/
def foundClean (pois : Bool) (ws : List Word) : Decoded := if pois then .poisoned else .good ws

/-- What a port finds in a unit: none of a correctable code's bits in error, as many as it corrects, one more, or more than
it is sure to detect; in P2 a half whose parity fails is uncorrectable and other errors pass (R250, R251). Errors in bits
that the code does not use make a unit uncorrectable (DEDUCED, log 102). -/
def decodeUnit (code a : Nat) (p : Part) : Decoded × Part :=
  if wildUnit p code a then (decodeWild p code a, p)
  else
    let errs := unitErrors p code a
    let pois := (unitAddrs code a).any fun x => match peek p x with | some w => w.poison | none => false
    let place := fun (e : Nat × Nat) => bitPlace code e.1 e.2
    if errs.any fun e => unusedBit code e.2 then (.bad, p)
    else if code = 2 then
      (if [0, 1].any fun h => (errs.filter fun e => inHalf h e.2).length % 2 == 1 then .bad
        else if errs.isEmpty then foundClean pois (writtenUnit p code a) else .good (rawUnit p code a), p)
    else match errs with
      | [] => (foundClean pois (writtenUnit p code a), p)
      | [e] => (if pois then .poisoned else .fixed e.1 (place e) 0x3F (writtenUnit p code a), p)
      | [e, f] => (if code ≠ 0 then .bad else if pois then .poisoned else .fixed e.1 (place e) (place f) (writtenUnit p code a), p)
      | [_, _, _] => if code = 0 then (.bad, p) else decodeBeyond code a (rawUnit p code a) p
      | _ => decodeBeyond code a (rawUnit p code a) p

/-! ### Counting and the error log -/

/-- Count in a bank's counter, at 7040h for corrections or 7042h for uncorrectable units. -/
def bankCount (idx a : Nat) (p : Part) : Part := bump (idx + a / 65536 / 128) (a / 65536 % 128 + 1) p

/-- Write a log record, or raise the repeat count of the one with the same kind and address (R257). -/
def logError (kind r addr b1 b2 block : Nat) (p : Part) : Part :=
  match p.mem.log.find? fun x => x.2.kind == kind && x.2.addr == addr with
  | some (i, x) => { p with mem := { p.mem with log := tins p.mem.log i { x with rep := satInc x.rep } } }
  | none =>
    let last := rd p 0x7051 2
    let i := if last = 0xFF then 0 else (last + 1) % 64
    let rec_ : LogRec := { time := now p, kind, region := r, addr, bit1 := b1, bit2 := b2, block }
    let p := { p with mem := { p.mem with log := tins p.mem.log i rec_ } }
    wr 0x7051 2 i (bump 0x7051 1 p)

/-- A log record as eight words (R257). -/
def logWords (x : LogRec) : List Nat :=
  toWords 8 (x.time * 2 ^ 80 + x.kind * 2 ^ 77 + x.region * 2 ^ 73 + x.addr * 2 ^ 49 + x.rep * 2 ^ 29 +
    x.bit1 * 2 ^ 23 + x.bit2 * 2 ^ 17 + x.block)

/-- The 512 words of 7050h (R257, R262). -/
def logImage (p : Part) : List Nat :=
  (List.range 64).flatMap fun i => match p.mem.log.find? fun x => x.1 == i with
    | some x => logWords x.2
    | none => List.replicate 8 0

/-- Count a correction of one bit or two in the region and its bank (R251, R252). -/
def countCorrected (r a y : Nat) (p : Part) : Part := bankCount 0x7040 a (bump (0x7020 + r) (if y = 0x3F then 1 else 2) p)

/-- Count an uncorrectable unit, and log it under `kind` with its first address. -/
def uncorrectable (kind r code a block : Nat) (p : Part) : Part :=
  let p := bankCount 0x7042 a (bump (0x7020 + r) 3 p)
  let p := onlyIf (r == 0) (fun p => { p with svc := { p.svc with region0Bad := true } }) p
  let p := { p with svc := { p.svc with lastUncorr := some p.clk.rp } }
  logError kind r (unitBase code a) 0x3F 0x3F block p

/-! ### Reads of a bank port (R242, R251) -/

/-- A unit is read: the word delivered for each of its words, with what the read counts and logs (R251). -/
def unitRead (block r code a : Nat) (p : Part) : List FWord × Part :=
  let n := (unitAddrs code a).length
  match decodeUnit code a p with
  | (.good ws, p) => (ws.map fun w => { data := w }, p)
  | (.fixed _ _ y ws, p) => (ws.map fun w => { data := w }, countCorrected r a y p)
  | (.bad, p) => (List.replicate n poisonWord, uncorrectable 3 r code a block p)
  | (.poisoned, p) => (List.replicate n poisonWord, bump (0x7020 + r) 5 p)

/-- A read access to a row: one word of it or both (R242). -/
def rowRead (block a : Nat) (both : Bool) (p : Part) : List FWord × Part :=
  match regionAt p a with
  | none => ([], p)
  | some r =>
    let code := codeOf p r
    if code = 0 then
      let (ws, p) := unitRead block r code a p
      (if both then ws else (ws.drop (a % 2)).take 1, p)
    else if both then
      let (x, p) := unitRead block r code (a / 2 * 2) p
      let (y, p) := unitRead block r code (a / 2 * 2 + 1) p
      (x ++ y, p)
    else unitRead block r code a p

/-- Words are read from these addresses, a row at a time: a stream takes whole rows (R242, R260). -/
def readList (block : Nat) : List Nat → Part → List FWord × Part
  | a :: b :: t, p =>
    if a % 2 = 0 ∧ b = a + 1 then
      let (x, p) := rowRead block a true p
      let (y, p) := readList block t p
      (x ++ y, p)
    else
      let (x, p) := rowRead block a false p
      let (y, p) := readList block (b :: t) p
      (x ++ y, p)
  | [a], p => rowRead block a false p
  | [], p => ([], p)

/-! ### Writes of a bank port (R252, R253) -/

/-- What a write covers (R252): a half of a word, a word, or both words of a row. -/
inductive Cover where
  | half (high : Bool) (w : FWord) | word (w : FWord) | pair (x y : FWord)
  deriving DecidableEq, Repr, Inhabited

/-- A word with one half replaced by the same half of another. -/
def putHalf (w : Word) (high : Bool) (x : Word) : Word :=
  if high then BitVec.ofNat 20 (x.toNat / 1024 * 1024 + w.toNat % 1024) else BitVec.ofNat 20 (w.toNat / 1024 * 1024 + x.toNat % 1024)

/-- Store words under a code, with fresh check bits. -/
def putWords (code : Nat) (pois : Bool) (ws : List (Nat × Word)) (p : Part) : Part :=
  forEach ws (fun x q => poke x.1 { code, data := x.2, poison := pois } q) p

/-- The words of a unit with what a write of one of them puts in place. -/
def mergeUnit (code a : Nat) (c : Cover) (ws : List Word) : List (Nat × Word) :=
  ((unitAddrs code a).zip ws).map fun x => if x.1 = a then (match c with
    | .half h w => (a, putHalf x.2 h w.data)
    | .word w | .pair w _ => (a, w.data)) else x

/-- Some word that a write brings is tagged POISONED. -/
def Cover.poison : Cover → Bool
  | .half _ w | .word w => w.poison
  | .pair x y => x.poison || y.poison

/-- A partial write by read-modify-write in D2 and S1 (R252). -/
def partialWrite (r code block a : Nat) (c : Cover) (p : Part) : Part :=
  match decodeUnit code a p with
  | (.good ws, p) => putWords code c.poison (mergeUnit code a c ws) p
  | (.fixed w x y ws, p) => logError 4 r w x y block (countCorrected r a y (putWords code c.poison (mergeUnit code a c ws) p))
  | (.bad, p) => uncorrectable 5 r code a block (bump (0x7020 + r) 4 (putWords code true (mergeUnit code a c (writtenUnit p code a)) p))
  | (.poisoned, p) => putWords code true (mergeUnit code a c (writtenUnit p code a)) p

/-- A write of one half in P2: the other half is neither read nor changed, and a poisoned word stays so (R252). -/
def halfWrite (a : Nat) (high : Bool) (w : FWord) (p : Part) : Part :=
  match peek p a with
  | some x =>
    let mine := (List.range 27).filter fun i => inHalf (if high then 1 else 0) i && bit x.flips i
    poke a { x with data := putHalf x.data high w.data, poison := x.poison || w.poison, flips := mine.foldl clrBit x.flips } p
  | none => poke a { code := 2, data := putHalf (dataAt p a) high w.data, poison := w.poison || Config.wildUnit a % 5 == 3 } p

/-- A write access to a row of a region (R252, R253): a full write stores fresh check bits and clears poison; one of a
poisoned word leaves its unit in poison form. -/
def coverWrite (block r a : Nat) (c : Cover) (p : Part) : Part :=
  let code := codeOf p r
  match c with
  | .half h w => if code = 2 then halfWrite a h w p else partialWrite r code block a c p
  | .word w => if code = 0 then partialWrite r code block a c p else putWords code w.poison [(a, w.data)] p
  | .pair x y =>
    let e := a / 2 * 2
    if code = 0 then putWords code c.poison [(e, x.data), (e + 1, y.data)] p
    else putWords code y.poison [(e + 1, y.data)] (putWords code x.poison [(e, x.data)] p)

/-- A write access to a row (R242, R252). -/
def rowWrite (block a : Nat) (c : Cover) (p : Part) : Part :=
  match regionAt p a with
  | none => p
  | some r => coverWrite block r a c p

/-- Words are written to these addresses, a row at a time (R242, R260). -/
def writeList (block : Nat) : List (Nat × FWord) → Part → Part
  | x :: y :: t, p =>
    if x.1 % 2 = 0 ∧ y.1 = x.1 + 1 then writeList block t (rowWrite block x.1 (.pair x.2 y.2) p)
    else writeList block (y :: t) (rowWrite block x.1 (.word x.2) p)
  | [x], p => rowWrite block x.1 (.word x.2) p
  | [], p => p

/-! ### Places in a region (R244, R259) -/

/-- The number of the k-th cell in service of a region, in ascending region-cell order. -/
def serviceCell (p : Part) (g : Geo) (k : Nat) : Nat :=
  let banks := (List.range g.nb).filter fun j => !bankOut p (g.b0 + j)
  let n := max 1 banks.length
  (g.b0 + banks.getD (k % n) 0) * 4096 + g.r0 + k / n

/-- The address of word `o` of a region's cells in service. -/
def serviceAddr (p : Part) (r o : Nat) : Nat := 16 * serviceCell p (geo p r) (o / 16) + o % 16

/-! ### Cells (R184, R185) -/

/-- Insert a cell number in ascending order. -/
def insCell (c : Nat) : List Nat → List Nat
  | [] => [c]
  | x :: l => if c < x then c :: x :: l else x :: insCell c l

/-- Cells of a region in banks that serve. -/
def servingCells (p : Part) (g : Geo) : Nat :=
  (List.range g.nb).foldl (fun a j => if bankOut p (g.b0 + j) then a else a + g.cellsIn (g.b0 + j)) 0

/-- Of these cells, how many lie in a region. -/
def cellsOf (p : Part) (r : Nat) (cs : List Nat) : Nat := (cs.filter fun c => (geo p r).holds (16 * c)).length

/-- Free cells of a region. -/
def freeIn (p : Part) (r : Nat) : Nat :=
  servingCells p (geo p r) - cellsOf p r (p.mem.cells.filter fun c => !bankOut p (c / 4096))

/-- A free cell of the regions, the first in the order of its region (DESIGN CHOICE, log 103). -/
def freeCell (p : Part) (rs : List Nat) : Option Nat :=
  rs.findSome? fun r =>
    let g := geo p r
    ((List.range (min (servingCells p g) (p.mem.cells.length + 1))).map (serviceCell p g)).find? fun c => !p.mem.cells.contains c

/-- A cell is taken into use. -/
def takeCell (rs : List Nat) (p : Part) : Option Nat × Part :=
  match freeCell p rs with
  | some c => (some c, { p with mem := { p.mem with cells := insCell c p.mem.cells } })
  | none => (none, p)

/-- A bank is being withdrawn. -/
def withdrawing (p : Part) : Bool := (List.range 256).any fun b => bankStanding p b == 1

/-- Cells return to the free list; one in a bank being withdrawn leaves service, and capacities are recomputed (R185,
R259). -/
def freeCells (cs : List Nat) (p : Part) : Part :=
  onlyIf (withdrawing p) refreshRegions { p with mem := { p.mem with cells := p.mem.cells.filter fun c => !cs.contains c } }

/-- The address of data word `i` of a cell: word 0 is its link word (R184). -/
def cellAddr (c i : Nat) : Nat := 16 * c + 1 + i

/-- A cell's link word names the next cell (R184). -/
def linkCell (block c next : Nat) (p : Part) : Part := rowWrite block (16 * c) (.word (fw next)) p

/-- The addresses of `n` words in these cells, 15 in each. -/
def cellAddrs (cs : List Nat) (n : Nat) : List Nat :=
  (cs.flatMap fun c => (List.range 15).map (cellAddr c)).take n

/-- `n` cells are taken, each linked to the next (R184). -/
def takeCells (block : Nat) (rs : List Nat) : (n : Nat) → Part → List Nat × Part
  | 0, p => ([], p)
  | n + 1, p =>
    match takeCell rs p with
    | (some c, p) =>
      let (cs, p) := takeCells block rs n p
      (c :: cs, match cs with | d :: _ => linkCell block c d p | [] => p)
    | (none, p) => ([], p)

/-- Cells for `n` words in all, of which these hold the first: fresh cells of a region are taken and linked as they are needed
(R150, R184); nothing where too few are free. -/
def addCells (block r : Nat) (cs : List Nat) (n : Nat) (p : Part) : Option (List Nat) × Part :=
  let need := ceilDiv n 15 - cs.length
  if freeIn p r < need then (none, p)
  else
    let (ds, p) := takeCells block [r] need p
    (some (cs ++ ds), match cs.getLast?, ds with | some c, d :: _ => linkCell block c d p | _, _ => p)

/-- Words are stored in fresh cells of a region. -/
def addWords (block r : Nat) (ws : List FWord) (p : Part) : Option (List Nat) × Part :=
  match addCells block r [] ws.length p with
  | (some cs, p) => (some cs, writeList block ((cellAddrs cs ws.length).zip ws) p)
  | (none, p) => (none, p)

/-- Words as event memory delivers them from where they were stored; what the tag of each arrival said stays with it
(R51, R251). Words with no place in memory cannot be produced, and come poisoned (R50). -/
def fetch (block : Nat) (as : List Nat) (ws : List FWord) (p : Part) : List FWord × Part :=
  let (ms, p) := readList block as p
  (if ms.length = ws.length then (ws.zip ms).map fun x => { x.2 with replayed := x.1.replayed && !x.2.poison }
    else ws.map fun _ => poisonWord, p)

/-- The words of a record or a fragment arrive at a block that handles whole records: `hops` are the tags of those that did
not arrive NORMAL, by place (R47 to R51). -/
def arriveWords (hops : List (Nat × Tag)) (ws : List FWord) : List FWord :=
  ws.mapIdx fun i w => match hops.find? fun h => h.1 == i with
    | some (_, .replayed) => { w with replayed := true }
    | some (_, .poisoned) | some (_, .unused) => poisonWord
    | _ => w

end Sys2Proof.Machine
end

