-- ==== Sys2Proof/Machine/Build.lean ====
section
/-! DEFINITION. The event builder: arrival chains and credits, receptions, slots, and the merge of a slot
(R180 to R214). -/
namespace Sys2Proof.Machine

/-! ### Access -/

/-- A chain, a credit, a reception, a slot, a queue and an output, by their numbers. -/
def chain (p : Part) (k v : Nat) : Chain := tget {} p.bld.chains (4 * k + v)
def setChain (k v : Nat) (x : Chain) (p : Part) : Part :=
  { p with bld := { p.bld with chains := tput {} p.bld.chains (4 * k + v) x } }
def credit (p : Part) (k v : Nat) : Credit := tget {} p.bld.credits (4 * k + v)
def setCredit (k v : Nat) (x : Credit) (p : Part) : Part :=
  { p with bld := { p.bld with credits := tput {} p.bld.credits (4 * k + v) x } }
def rxOf (p : Part) (k v : Nat) : Option Rx := tget none p.bld.rx (4 * k + v)
def setRx (k v : Nat) (x : Option Rx) (p : Part) : Part :=
  { p with bld := { p.bld with rx := tput none p.bld.rx (4 * k + v) x } }
def slot (p : Part) (v s : Nat) : Slot := tget {} p.bld.slots (4096 * v + s)
def setSlot (v s : Nat) (x : Slot) (p : Part) : Part :=
  { p with bld := { p.bld with slots := tput {} p.bld.slots (4096 * v + s) x } }
def queue (p : Part) (v s port : Nat) : Queue := tget {} p.bld.queues (16 * (4096 * v + s) + port)
def setQueue (v s port : Nat) (x : Queue) (p : Part) : Part :=
  { p with bld := { p.bld with queues := tput {} p.bld.queues (16 * (4096 * v + s) + port) x } }
def out (p : Part) (v : Nat) : OutView := tget {} p.bld.outs v
def setOut (v : Nat) (x : OutView) (p : Part) : Part := { p with bld := { p.bld with outs := tput {} p.bld.outs v x } }

/-- A view's mode in effect (R146). -/
def viewMode (p : Part) (v : Nat) : Nat := eff p (0x3000 + v) 1

/-- The part is a Bough. -/
def isBough (p : Part) : Bool := match p.pow.role with | .bough => true | .leaf => false

/-- Port 15 is the local front end's (R212). -/
def localOn (p : Part) : Bool := isBough p && eff p 0x4021 1 == 1

/-- The port of a link: a companion's is its child's position port (R210). -/
def portOf (p : Part) (k : Nat) : Nat := (link p k).companion.getD k

/-- A port's isolation is set (R514). -/
def isolated (p : Part) (port : Nat) : Bool := rd p 0xA000 (port + 1) == 1

/-- The links of a port: its own and its child's companion's. -/
def linksOf (p : Part) (port : Nat) : List Nat :=
  (List.range 16).filter fun k => portOf p k == port

/-- A port's link is in SERVICE: its own or its child's companion's (R191, R210). -/
def portUp (p : Part) (port : Nat) : Bool := (linksOf p port).any (inService p)

/-! ### Chains and credits (R184 to R187, R306) -/

/-- The regions that hold queues (4020h.01). -/
def queueRegions (p : Part) : List Nat := (List.range 16).filter (bit (eff p 0x4020 1))

/-- The block code of a view's builder (R75). -/
def builderCode (v : Nat) : Nat := 0x0500 + v

/-- Room for `n` words at the end of a chain: cells are taken, and linked, as they are needed (R184). -/
def extend (k v : Nat) : (fuel n : Nat) → Part → Part × List Ext
  | 0, _, p => (p, [])
  | f + 1, n, p =>
    if n = 0 then (p, [])
    else
      let c := chain p k v
      match (c.tail.map fun i => (i, tget ({} : Cell) c.cells i)).filter fun x => decide (x.2.filled < 15) with
      | some (i, x) =>
        let m := min n (15 - x.filled)
        let p := setChain k v { c with cells := tins c.cells i { filled := x.filled + m, live := x.live + m } } p
        let r := extend k v f (n - m) p
        (r.1, { cell := i, off := x.filled, n := m } :: r.2)
      | none =>
        match takeCell (queueRegions p) p with
        | (some d, p) =>
          let p := match c.tail with | some i => linkCell (builderCode v) i d p | none => p
          extend k v f n (setChain k v { cells := tins c.cells d {}, tail := some d } p)
        | (none, p) => (p, [])

/-- The words that pieces of an extent hold, and their addresses. -/
def extLen (es : List Ext) : Nat := es.foldl (fun a e => a + e.n) 0
@[inherit_doc extLen] def extAddrs (es : List Ext) : List Nat :=
  es.flatMap fun e => (List.range e.n).map fun i => cellAddr e.cell (e.off + i)

/-- Consume words of one piece of an extent; a cell with none left is freed, with the words of credit it returns (R185). -/
def Chain.free1 (c : Chain) (e : Ext) : Chain × Nat × List Nat :=
  let x : Cell := tget {} c.cells e.cell
  let live := x.live - e.n
  if live = 0 then
    ({ cells := tdel c.cells e.cell, tail := if c.tail = some e.cell then none else c.tail }, x.filled, [e.cell])
  else ({ c with cells := tins c.cells e.cell { x with live } }, 0, [])

/-- Consume extents; with the words of credit returned and the cells freed. -/
def Chain.free : Chain → List Ext → Chain × Nat × List Nat
  | c, [] => (c, 0, [])
  | c, e :: t =>
    let (c, n, cs) := c.free1 e
    let r := Chain.free c t
    (r.1, n + r.2.1, cs ++ r.2.2)

/-- Credit is returned, unless it is withheld for a lowered limit or for words of an earlier time in SERVICE
(R187, R306). -/
def Credit.back (c : Credit) (n : Nat) : Credit :=
  let d := min n c.debt
  { c with debt := c.debt - d, grant := (c.grant + (n - d)) % 2 ^ 32 }

/-- Words of credit the sender may still use (R187). -/
def Credit.left (c : Credit) : Nat := subMod 32 c.grant c.charged

/-- Cells in use over all chains (4020h.04). -/
def cellsInUse (p : Part) : Nat := p.bld.chains.foldl (fun a kv => a + kv.2.cells.length) 0

/-- Keep 4020h.04 and its peak in step. -/
def noteCells (p : Part) : Part :=
  let n := cellsInUse p
  wr 0x4020 5 (max n (rd p 0x4020 5)) (wr 0x4020 4 n p)

/-- Words are charged to a link and view. -/
def charge (k v n : Nat) (p : Part) : Part :=
  let c := credit p k v
  setCredit k v { c with charged := (c.charged + n) % 2 ^ 32 } p

/-- Words of credit go back to a link and view. -/
def giveBack (k v n : Nat) (p : Part) : Part := setCredit k v ((credit p k v).back n) p

/-- Room for words in the chain of a link and view, and words stored in it (R184). -/
def reserve (k v n : Nat) (p : Part) : Part × List Ext :=
  let r := extend k v (2 * n + 2) n p
  (noteCells r.1, r.2)
@[inherit_doc reserve] def storeAt (v : Nat) (es : List Ext) (ws : List FWord) (p : Part) : Part :=
  writeList (builderCode v) ((extAddrs es).zip ws) p

/-- Extents of a chain are consumed, and the credit of freed cells returned. -/
def release (k v : Nat) (ext : List Ext) (p : Part) : Part :=
  let r := (chain p k v).free ext
  freeCells r.2.2 (giveBack k v r.2.1 (noteCells (setChain k v r.1 p)))

/-- A credit limit changes: a raise is a return at once, a cut withholds returns (R187). -/
def creditChanged (k v old : Nat) (p : Part) : Part :=
  let new := creditLimit p k v
  let p := refreshRegions p
  if inService p k || (k == 15 && localOn p) then
    let c := credit p k v
    if old ≤ new then setCredit k v (c.back (new - old)) p else setCredit k v { c with debt := c.debt + (old - new) } p
  else p

/-- The counts of a link restart as it enters SERVICE; words still stored keep their places but return nothing to the
new counts (R306). -/
def creditRestart (k : Nat) (p : Part) : Part :=
  forEach (List.range 4) (fun v q =>
    let stored := (chain q k v).cells.foldl (fun a kv => a + kv.2.filled) 0
    setCredit k v { grant := creditLimit q k v, charged := 0, debt := stored } q) p

/-! ### Slots (R190 to R197) -/

/-- Set the count of OPEN and CLOSED slots (4030h + v.01). -/
def noteSlots (v : Nat) (p : Part) : Part :=
  let n := (p.bld.slots.filter fun kv => kv.1 / 4096 == v && (kv.2.phase == .open_ || kv.2.phase == .closed)).length
  wr (0x4030 + v) 1 n p

/-- The merge horizon (R195). -/
def horizon (p : Part) (v : Nat) : Nat := rd p (0x4030 + v) 2

/-- The ports enabled for a view: its mask in effect (R191). -/
def enabledPorts (p : Part) (v : Nat) : Nat := eff p (0x4000 + v) 1

/-- A port is expected at the opening of a slot (R191, R212). -/
def expectedAt (p : Part) (v port : Nat) : Bool :=
  bit (enabledPorts p v) port &&
    (if port = 15 ∧ localOn p then viewMode p v != 0 && !isolated p 15 else portUp p port && !isolated p port)

/-- The slot timeout in ring periods (R197). -/
def slotTau (p : Part) (v : Nat) : Nat :=
  let n := eff p (0x4000 + v) 2
  if n ≠ 0 then n * 256
  else (5 - tierOr0 p) * 327680 + (if viewMode p v = 2 then ceilDiv (eff p (0x3000 + v) 3) 128 else 0)

/-- Count an isolated or missing port at the close (R193). -/
def countMissing (v missing : Nat) (p : Part) : Part :=
  forEach ((List.range 16).filter (bit missing)) (fun port q => bump (0x4050 + port) (v + 3) q) p

/-- A fragment that will not be used goes: its cells are freed and its credit returned. -/
def dropFiled (v : Nat) (f : Filed) (p : Part) : Part := release f.link v f.ext p

/-- Count a late fragment (R195). -/
def countLate (v port : Nat) (p : Part) : Part := bump (0x4050 + port) (v + 7) (bump (0x4030 + v) 6 p)

/-- A fragment is removed from its place before its last word has come: the rest of it is discarded as it arrives
(R194). -/
def cutFiled (v : Nat) (port : Nat) (f : Filed) (p : Part) : Part :=
  match f.words, rxOf p f.link v with
  | none, some x =>
    let p := countLate v port p
    let p := release f.link v x.ext p
    setRx f.link v (some { x with ext := [], disp := .drop }) p
  | _, _ => dropFiled v f p

/-- The slot closes: ports not delivered become missing and their words are discarded (R193, R194). -/
def closeSlot (v s : Nat) (timeout : Bool) (p : Part) : Part :=
  let x := slot p v s
  match x.phase with
  | .open_ =>
    let miss := x.missing ||| x.await
    let p := forEach ((List.range 16).filter (bit x.await)) (fun port q =>
      match (queue q v s port).cur with
      | some f => setQueue v s port { queue q v s port with cur := none } (cutFiled v port f q)
      | none => q) p
    let p := countMissing v x.await p
    let p := onlyIf timeout (bump (0x4030 + v) 4) p
    let isol := (List.range 16).any fun port => bit x.enabled port && !bit x.expect port
    let p := onlyIf (miss != 0 || isol) (bump (0x4030 + v) 5) p
    setSlot v s { x with phase := .closed, missing := miss, await := 0 } p
  | _ => p

/-- Whether an open slot is complete: then it closes (R193). -/
def closeIfDone (v s : Nat) (p : Part) : Part :=
  let x := slot p v s
  if x.phase = .open_ ∧ x.await = 0 then closeSlot v s false p else p

/-- The mode field of the fragments of a view's mode (R146). -/
def modeField (m : Nat) : Nat := match m with | 2 => 1 | 3 => 2 | _ => 0

/-- An event start waits while its slot is busy with an older id, or while the view has no more slots to open (R190). -/
def startWaits (v id mode : Nat) (trig : Option Nat) (p : Part) : Part :=
  let x := slot p v (id % 4096)
  if x.starts.any fun e => e.1 == id then p else setSlot v (id % 4096) { x with starts := x.starts ++ [(id, mode, trig)] } p

/-- A slot opens for an id (R190, R191). A view has at most 4,095 slots open at once (R199): one more waits until another
leaves (DESIGN CHOICE, log 104). -/
def openSlot (v id mode : Nat) (trig : Option Nat) (p : Part) : Part :=
  if 4095 ≤ rd p (0x4030 + v) 1 then startWaits v id mode trig p
  else
    let s := id % 4096
    let x := slot p v s
    let exp := (List.range 16).foldl (fun a port => putBit a port (expectedAt p v port)) 0
    let x := { x with phase := .open_, id := some id, enabled := enabledPorts p v, expect := exp, await := exp, present := 0, missing := 0, opened := p.clk.rp, tau := slotTau p v, mode, trig, starts := x.starts.filter fun e => e.1 != id }
    noteSlots v (closeIfDone v s (setSlot v s x p))

/-- An event start for an id (R190): the slot opens, or the start waits while the slot is busy with an older id. -/
def eventStart (v id mode : Nat) (trig : Option Nat) (p : Part) : Part :=
  let s := id % 4096
  let x := slot p v s
  if id ≤ horizon p v then p
  else match x.phase, x.id with
    | .idle, some o => if o < id then openSlot v id mode trig p else p
    | .idle, none => openSlot v id mode trig p
    | _, some o =>
      if o = id then setSlot v s { x with trig := x.trig.orElse fun _ => trig } p
      else if o < id then startWaits v id mode trig p
      else p
    | _, none => p

/-- SLOT_TIMEOUT (R193). -/
def slotTimeout (v s : Nat) (p : Part) : Part :=
  let x := slot p v s
  if x.phase = .open_ then noteSlots v (closeSlot v s true (advanceRp (x.opened + x.tau) p)) else p

/-- SLOT_TIMEOUT (R193). -/
def execSlotTimeout (v : Fin 4) (sl : Fin 4096) (s : State) : Outcome := run (slotTimeout v.val sl.val) s

/-- Every open slot of the view closes (R193). -/
def closeAll (v : Nat) (p : Part) : Part :=
  noteSlots v (forEach ((p.bld.slots.filter fun kv => kv.1 / 4096 == v && kv.2.phase == .open_).map (·.1 % 4096))
    (fun s q => closeSlot v s false q) p)

/-- CLOSE_REQUEST (R193). -/
def execCloseRequest (rq : Rq) (v : Fin 4) (s : State) : Outcome :=
  runCtl (ownWrite rq (0x4000 + v) 7 1 fun _ => closeAll v.val) s

/-- An expected port that has not delivered is lost: it becomes missing in its open slots (R193, R328). -/
def portLost (port : Nat) (p : Part) : Part :=
  forEach ((p.bld.slots.filter fun kv => kv.2.phase == .open_ && bit kv.2.await port).map (·.1)) (fun i q =>
    let v := i / 4096
    let s := i % 4096
    let x := slot q v s
    let q := match (queue q v s port).cur with
      | some f => setQueue v s port { queue q v s port with cur := none } (cutFiled v port f q)
      | none => q
    let q := countMissing v (1 <<< port) q
    let q := setSlot v s { x with await := clrBit x.await port, missing := setBit x.missing port } q
    noteSlots v (closeIfDone v s q)) p

/-! ### Receiving fragments (R183, R195, R302 to R305) -/

/-- The link's packet-defect counter (R305). -/
def packetDefect (k : Nat) (p : Part) : Part := bump (0x5120 + k) 6 p

/-- A fragment in progress is discarded: its words are freed, its credit returned, and its place in a queue given up. -/
def discardRx (k v : Nat) (p : Part) : Part :=
  match rxOf p k v with
  | none => p
  | some x =>
    let stored := extLen x.ext
    let p := setRx k v none p
    let p := release k v x.ext p
    match x.disp with
    | .undecided => giveBack k v (x.charged - stored) p
    | .drop => p
    | .file _ =>
      let s := x.id % 4096
      let q := queue p v s x.port
      let mine := fun (f : Option Filed) => match f with
        | some f => f.link == k && f.id == x.id && f.words.isNone
        | none => false
      setQueue v s x.port { cur := if mine q.cur then none else q.cur, held := if mine q.held then none else q.held } p

/-- The charge of the words of a fragment so far (R236, R306). -/
def fragmentCharge (ws : List FWord) (whole : Bool) : Nat :=
  match ws with
  | w :: _ => if !w.poison && kindOf w == 5 then chargePacked ws whole else ws.length
  | [] => 0

/-- How many header words settle what a fragment is. -/
def headNeeded (w : FWord) : Nat := if !w.poison && kindOf w == 1 then 5 else 6

/-- A child fragment cannot be used: a poisoned header word, an unknown format or another view (R183). -/
def headUnusable (v : Nat) (ws : List FWord) : Bool :=
  let w := ws.getD 0 poisonWord
  let k := kindOf w
  (ws.take (headNeeded w)).any (·.poison) || decide (ws.length < headNeeded w) ||
    !(k == 3 || k == 5 || (k == 1 && bits (wv w) 11 8 == 1)) || bits (wv w) 15 14 != v

/-- Count an unusable fragment (R183). -/
def countUnusable (v : Nat) (p : Part) : Part := bump (0x4030 + v) 8 p

/-- What becomes of a fragment in progress: its words go, with their credit, or are filed (R195). -/
def dispose (k v : Nat) (d : Disp) (id port : Nat) (p : Part) : Part :=
  match rxOf p k v with
  | none => p
  | some x =>
    match d with
    | .drop => giveBack k v x.charged (setRx k v (some { x with disp := .drop, id, port }) p)
    | d => setRx k v (some { x with disp := d, id, port }) p

/-- A fragment takes its place in a queue. -/
def takePlace (k v id mode port : Nat) (held : Bool) (p : Part) : Part :=
  let s := id % 4096
  let q := queue p v s port
  let f : Filed := { link := k, id, mode }
  let p := setQueue v s port (if held then { q with held := some f } else { q with cur := some f }) p
  dispose k v (.file held) id port p

/-- The arrival of a fragment for an id, by the first row that applies (R195). -/
def arrive (k v id mode : Nat) (p : Part) : Part :=
  let port := portOf p k
  let s := id % 4096
  let late := fun (q : Part) => dispose k v .drop id port (countLate v port q)
  let x := slot p v s
  let older := match x.id with | some o => decide (id < o) | none => false
  if viewMode p v = 0 then dispose k v .drop id port (bump (0x4030 + v) 9 p)
  else if id ≤ horizon p v ∨ older = true then late p
  else if x.phase = .idle then
    let p := openSlot v id mode none p
    takePlace k v id mode port ((slot p v s).id != some id) p
  else if x.id = some id then
    if x.phase = .open_ ∧ bit x.await port ∧ (queue p v s port).cur.isNone then takePlace k v id mode port false p else late p
  else if (queue p v s port).held.isNone then takePlace k v id mode port true p
  else dispose k v .drop id port (bump (0x4030 + v) 7 p)

/-- Once the header is whole the fragment's place is decided (R183, R195). -/
def decideRx (k v : Nat) (whole : Bool) (p : Part) : Part :=
  match rxOf p k v with
  | some x =>
    if x.disp = .undecided then
      let w := x.words.getD 0 poisonWord
      if x.words.length < headNeeded w ∧ !whole then p
      else if headUnusable v x.words then dispose k v .drop 0 (portOf p k) (countUnusable v p)
      else if viewMode p v ≠ 0 ∧ bits (wv w) 13 12 + 1 ≠ viewMode p v then dispose k v .drop 0 (portOf p k) (countUnusable v p)
      else
        let p := arrive k v (eventId x.words) (bits (wv w) 13 12) p
        match rxOf p k v with
        | some y => onlyIf (y.raw && y.disp != .drop) (bump 0x4049 (y.port + 1)) p
        | none => p
    else p
  | none => p

/-- A fragment came packed. -/
def camePacked (ws : List FWord) : Bool := kindOf (ws.getD 0 poisonWord) == 5

/-- The words charged and not yet stored are stored for a filed fragment; a packed one's have their room, and are written
once it is expanded (R182, R184). -/
def fileRx (k v : Nat) (p : Part) : Part :=
  match rxOf p k v with
  | some x =>
    match x.disp with
    | .file _ =>
      let old := extLen x.ext
      let (p, e) := reserve k v (x.charged - old) p
      let p := if camePacked x.words then p else storeAt v e (x.words.drop old) p
      setRx k v (some { x with ext := x.ext ++ e }) p
    | _ => p
  | none => p

/-- The words of a whole fragment as they are filed, expanded where it came packed, with the causes of its decoding
defects; nothing where it is unusable (R182, R183, R209, R238). -/
def wholeWords (ws : List FWord) : Option (List FWord) × List Nat :=
  let w0 := ws.getD 0 poisonWord
  let (w, c) := if kindOf w0 = 5 then
      let e := expandPacked ws
      (e.words, e.causes)
    else (some ws, [])
  match w with
  | some ws =>
    if ws.length < 8 then (none, c)
    else if bits (wv w0) 13 12 = 1 ∧ (trailerStart ws).isNone then (none, c) else (some ws, c)
  | none => (none, c)

/-- Count decoding defects (R238). -/
def countDefects (port : Nat) (cs : List Nat) (p : Part) : Part :=
  forEach cs (fun c q => wr 0x404B 2 c (wr 0x404B 1 port (bump 0x404A (port + 1) q))) p

/-- The last word of a fragment has come: it waits in its queue for its end-of-fragment word to be granted. One that event
memory had no free cell for is lost (DESIGN CHOICE, log 103). -/
def endRx (k v : Nat) (p : Part) : Part :=
  match rxOf p k v with
  | some x =>
    match x.disp with
    | .file _ =>
      let (ws, cs) := wholeWords x.words
      let packed := camePacked x.words
      let p := onlyIf (packed && !cs.contains 1) (bump 0x4048 (x.port + 1)) p
      let p := countDefects x.port cs p
      match ws.filter fun _ => extLen x.ext == x.charged with
      | none => countUnusable v (discardRx k v p)
      | some ws =>
        let s := x.id % 4096
        let p := if packed then storeAt v x.ext ws p else p
        let q := queue p v s x.port
        let done := fun (f : Option Filed) => match f with
          | some f => if f.link = k ∧ f.id = x.id ∧ f.words.isNone then some { f with words := some ws, ext := x.ext } else some f
          | none => none
        setRx k v none (setQueue v s x.port { cur := done q.cur, held := done q.held } p)
    | _ => setRx k v none p
  | none => p

/-- The payload and poison list of a packet (R301, R304): offsets poisoned, or nothing where the list is defective. -/
def listOffsets (len : Nat) (list : List FWord) : Option (List Nat) :=
  match list with
  | [] => none
  | a :: t =>
    let c := bits (wv a) 19 10
    let os := ((bits (wv a) 9 0) :: t.flatMap fun w => [bits (wv w) 19 10, bits (wv w) 9 0]).take c
    let asc := (os.zip os.tail).all fun x => decide (x.1 < x.2)
    if c = 0 ∨ len < c ∨ 16 < c ∨ list.any (·.poison) = true ∨ os.length ≠ c ∨ !asc ∨ os.any (fun o => decide (len ≤ o)) = true then none
    else some os

/-- Poison the words at these offsets. -/
def poisonAtOffsets (os : List Nat) (ws : List FWord) : List FWord :=
  ws.mapIdx fun i w => if os.contains i then poisonWord else w

/-- The payload as it is delivered, and whether the packet's list is defective (R304, R305). -/
def payloadOf (kind7 : Bool) (len : Nat) (rest : List FWord) : List FWord × Bool :=
  let pay := (rest ++ poisonRun len).take len
  let pay := pay.map fun w => if w.poison then poisonWord else w
  if kind7 then
    match listOffsets len (rest.drop len) with
    | some os => (poisonAtOffsets os pay, false)
    | none => (poisonRun len, true)
  else (pay, false)

/-- Payload arrives for a view (R302, R305): charged, filed, and the fragment ended at LAST. -/
def takePayload (k v : Nat) (first last raw : Bool) (pay : List FWord) (p : Part) : Part :=
  let x := if first then { raw } else (rxOf p k v).getD {}
  let ws := x.words ++ pay
  let c := fragmentCharge ws last - fragmentCharge x.words false
  if (credit p k v).left < c then packetDefect k (discardRx k v p)
  else
    let p := charge k v c p
    let p := onlyIf (x.disp == .drop) (giveBack k v c) p
    let p := setRx k v (some { x with words := ws, charged := x.charged + c }) p
    let p := fileRx k v (decideRx k v last p)
    if last then endRx k v p else p

/-- The view's fragment in progress is abandoned by the far end (R303). -/
def abandonRx (k v : Nat) (p : Part) : Part :=
  match rxOf p k v with
  | some _ => bump (0x5120 + k) 8 (discardRx k v p)
  | none => packetDefect k p

/-- A frame-fragment packet: header word, payload and poison list (R300 to R305); one that arrives on an uplink is not allowed
(R331). -/
def fragmentPacket (k : Nat) (ws : List FWord) (p : Part) : Part :=
  match ws with
  | [] => p
  | h :: rest =>
    let n := wv h
    let kind := bits n 19 16
    let v := bits n 15 14
    let first := bit n 13
    let last := bit n 12
    let abn := bit n 10
    let len := bits n 9 0
    if decide (16 ≤ k) || !inService p k || !isBough p || !(kind == 1 || kind == 7) then bump (0x5120 + k) 9 p
    else if abn && (first || !last || len != 0 || kind == 7) || (!abn && len == 0) then packetDefect k (discardRx k v p)
    else if abn then abandonRx k v p
    else if !first && (rxOf p k v).isNone then packetDefect k p
    else
      let p := if first && (rxOf p k v).isSome then packetDefect k (discardRx k v p) else p
      let (pay, bad) := payloadOf (kind == 7) len rest
      let p := onlyIf bad (packetDefect k) p
      let p := onlyIf first (bump (0x4050 + portOf p k) 2) p
      takePayload k v first last (bit n 11) pay p

/-- FRAME_FRAGMENT_PACKET (R305). -/
def execFrameFragmentPacket (k : Fin 18) (ws : List FWord) (s : State) : Outcome := run (fragmentPacket k.val ws) s

/-- ABANDON_PACKET (R303). -/
def execAbandonPacket (k : Fin 18) (v : Fin 4) (s : State) : Outcome :=
  run (fun p => if k.val < 16 && inService p k.val && isBough p then abandonRx k.val v.val p else bump (0x5120 + k) 9 p) s

/-- A port's end-of-fragment word is granted: the port is present (R194). -/
def acceptEnd (v s port : Nat) (p : Part) : Part :=
  let x := slot p v s
  let q := queue p v s port
  match q.cur with
  | some f =>
    if x.phase = .open_ ∧ bit x.await port ∧ x.id = some f.id ∧ f.words.isSome then
      let p := setQueue v s port { q with cur := some { f with accepted := true } } p
      let p := setSlot v s { x with await := clrBit x.await port, present := setBit x.present port } p
      noteSlots v (closeIfDone v s p)
    else p
  | none => p

/-- END_OF_FRAGMENT_ACCEPT (R194). A local fragment of port 15 counts as sent here (3060h + v.01). -/
def execEndOfFragmentAccept (v : Fin 4) (sl : Fin 4096) (port : Fin 16) (s : State) : Outcome :=
  run (fun p =>
    let before := bit (slot p v sl).present port
    let q := acceptEnd v.val sl.val port.val p
    onlyIf (!before && bit (slot q v sl).present port && port.val == 15 && localOn q) (bump (0x3060 + v) 1) q) s

/-! ### Merging a slot (R194, R196, R203, R211, R214) -/

/-- The two-bit code of a port (R192). -/
def portCode (x : Slot) (port : Nat) : Nat :=
  if bit x.present port then 1 else if bit x.missing port then 2 else if bit x.enabled port then 3 else 0

/-- All port codes, D0 lowest. -/
def portCodes (x : Slot) : Nat := (List.range 16).foldl (fun a port => a + portCode x port * 4 ^ port) 0

/-- The cells of merged fragments that a view holds: those not yet packed, sent or dropped (R214, R215). -/
def mergedCells (o : OutView) : List Nat :=
  (o.merging.toList ++ o.jobs ++ (o.ready.filter fun f => !f.packed) ++
    (match o.sending with | some x => if x.frag.packed then [] else [x.frag] | none => [])).flatMap (·.cells)

/-- The boundary that opens the frame of a trigger time. -/
def frameStart (t : Nat) : Nat := t / frameTk * frameTk

/-- The span of an event: its frame, or the window of the trigger command applied for it (R128, R167). -/
def eventSpan (p : Part) (v : Nat) (x : Slot) : Option (Nat × Nat) :=
  match x.id with
  | some id =>
    if x.mode = 1 then x.trig.map fun t =>
      (subMod 80 t (effAt p (0x3000 + v) 2 (frameStart t)), (t + effAt p (0x3000 + v) 3 (frameStart t)) % 2 ^ 80)
    else some (id * frameTk % 2 ^ 80, (id + 1) * frameTk % 2 ^ 80)
  | none => none

/-- The fragments of a slot's present ports as the builder reads them from event memory; `hops` are the tags of words that
did not reach it NORMAL, by port and place (R51, R251). -/
def readPorts (v s : Nat) (hops : List (Nat × Nat × Tag)) : List Nat → Part → List PortIn × Part
  | [], p => ([], p)
  | port :: t, p =>
    match (queue p v s port).cur.filter fun _ => bit (slot p v s).present port with
    | some f =>
      let r := fetch (builderCode v) (extAddrs f.ext) (f.words.getD []) p
      let mine := (hops.filter fun h => h.1 == port).map (·.2)
      let tier := if port = 15 ∧ f.link = 15 ∧ localOn p then tierOr0 p else tierOr0 p + 1
      let u := readPorts v s hops t r.2
      ({ port, words := arriveWords mine r.1, tier } :: u.1, u.2)
    | none => readPorts v s hops t p

/-- The merged fragment of a closed slot from its ports' fragments (R200 to R209). Where the Bough applied no command for the
event, what its own counter adds to TUNL is a free value. -/
def mergeSlot (v s : Nat) (ports : List PortIn) (p : Part) : Merged :=
  let x := slot p v s
  let tunl := match eventSpan p v x with
    | some (a, b) => p.front.tunl.any fun sp => overlaps sp a b
    | none => Config.unseenTunl v (x.id.getD 0)
  let incomplete := (List.range 16).any fun port => decide (2 ≤ portCode x port)
  let w0 := (eventSpan p v x).map fun e => e.1 % 2 ^ 23
  mergeFragment v x.mode (x.id.getD 0) (rd p 0x1100 1) (portCodes x) tunl incomplete w0 ports

/-- Free the current fragments of a slot; one whose port was not expected may still be arriving, and its rest is late
(R185, R195). -/
def freeCurrent (v s : Nat) (p : Part) : Part :=
  forEach (List.range 16) (fun port q =>
    match (queue q v s port).cur with
    | some f => setQueue v s port { queue q v s port with cur := none }
        (if f.words.isNone then cutFiled v port f q else dropFiled v f q)
    | none => q) p

/-- An idle slot opens for the smallest id among its held fragments and the event starts that wait, and the held fragments of
that id become current (R196). -/
def promote (v s : Nat) (p : Part) : Part :=
  let h := horizon p v
  let p := forEach (List.range 16) (fun port q =>
    match (queue q v s port).held with
    | some f => if f.id ≤ h then setQueue v s port { queue q v s port with held := none }
          (if f.words.isNone then cutFiled v port f q else countLate v port (dropFiled v f q)) else q
    | none => q) p
  let x := slot p v s
  let starts := x.starts.filter fun e => decide (h < e.1)
  let held := (List.range 16).filterMap fun port => (queue p v s port).held.map fun f => (f.id, f.mode)
  let p := setSlot v s { x with starts } p
  match held ++ starts.map fun e => (e.1, e.2.1) with
  | [] => noteSlots v p
  | e :: t =>
    let (id, mode) := t.foldl (fun a b => if b.1 < a.1 then b else a) e
    let trig := ((starts.find? fun e => e.1 == id).map (·.2.2)).join
    let p := openSlot v id mode trig p
    if (slot p v s).id = some id then
      forEach (List.range 16) (fun port q =>
        let u := queue q v s port
        match u.held with
        | some f => if f.id = id then setQueue v s port { cur := some f, held := none } q else q
        | none => q) p
    else p

/-- A slot that waited for another to leave opens (R199). -/
def openWaiting (v : Nat) (p : Part) : Part :=
  match p.bld.slots.filter fun kv => kv.1 / 4096 == v && kv.2.phase == .idle && !kv.2.starts.isEmpty with
  | [] => p
  | a :: t =>
    let least := fun (x : Slot) => (x.starts.map (·.1)).foldl min (x.starts.headD (0, 0, none)).1
    promote v ((t.foldl (fun a b => if least b.2 < least a.2 then b else a) a).1 % 4096) p

/-- The slot returns to IDLE and its held fragments become current (R196). -/
def slotIdle (v s : Nat) (p : Part) : Part :=
  let p := freeCurrent v s p
  openWaiting v (promote v s (noteSlots v (setSlot v s { slot p v s with phase := .idle } p)))

/-- The older slots of the view are idle (R194). -/
def olderIdle (p : Part) (v id : Nat) : Bool :=
  p.bld.slots.all fun kv =>
    kv.1 / 4096 != v || !(kv.2.phase == .open_ || kv.2.phase == .closed) || !decide (kv.2.id.getD 0 < id)

/-- A closed slot whose older slots are idle enters MERGING, while the builder is free and the quota has room: the builder
reads the fragments and writes the merged one (R194, R203, R211, R214). -/
def mergeStart (v s : Nat) (hops : List (Nat × Nat × Tag)) (p : Part) : Part :=
  let x := slot p v s
  let o := out p v
  match x.phase, x.id, o.merging with
  | .closed, some id, none =>
    if !olderIdle p v id then p
    else
      let (ports, q) := readPorts v s hops (List.range 16) p
      let m := mergeSlot v s ports q
      let r := eff p (0x4000 + v) 6
      let quota := quotaCells p 0x4000 6 v
      let need := cellsFor m.words.length
      if 1048575 < m.words.length - 8 ∨ quota < need then
        slotIdle v s (bump (0x4030 + v) 0xA (wr (0x4030 + v) 2 id q))
      else if quota < cellsOf p r (mergedCells o) + need then p
      else match addWords (builderCode v) r m.words q with
        | (some cells, q) =>
          let q := setSlot v s { x with phase := .merging } (wr (0x4030 + v) 2 id q)
          openWaiting v (noteSlots v (setOut v { o with merging := some { id, words := m.words, lens := m.lens, cells } } q))
        | (none, _) => p
  | _, _, _ => p

/-- MERGE_START (R203). -/
def execMergeStart (v : Fin 4) (sl : Fin 4096) (hops : List (Nat × Nat × Tag)) (s : State) : Outcome :=
  run (mergeStart v.val sl.val hops) s

/-- The status entry of a view's jobs: that of the oldest not finished, or the last job's final status (R221). -/
def noteJobs (v : Nat) (p : Part) : Part :=
  let o := out p v
  wr (0x4040 + v) 5 (if o.busy then 1 else if o.jobs.isEmpty then o.lastJob else 6) p

/-- The last body word is written: the slot returns to IDLE and the merged fragment becomes a job, or is ready to be
sent where compression is off (R196, R214, R220). -/
def mergeComplete (v s : Nat) (p : Part) : Part :=
  let o := out p v
  let x := slot p v s
  match o.merging with
  | some f =>
    if x.phase = .merging ∧ x.id = some f.id then
      let f := { f with since := p.clk.rp }
      let p := bump (0x4030 + v) 3 p
      let p :=
        if rd p (0x4040 + v) 1 = 1 then
          noteJobs v (setOut v { o with merging := none, jobs := o.jobs ++ [f] } p)
        else if o.jobs.isEmpty then setOut v { o with merging := none, ready := o.ready ++ [f] } p
        else setOut v { o with merging := none, jobs := o.jobs ++ [f] } p
      slotIdle v s p
    else p
  | none => p

/-- MERGE_COMPLETE (R196). -/
def execMergeComplete (v : Fin 4) (sl : Fin 4096) (s : State) : Outcome := run (mergeComplete v.val sl.val) s

end Sys2Proof.Machine
end

