-- ==== Sys2Proof/Machine/Output.lean ====
section
/-! DEFINITION. Output of fragments: compression jobs, uplink choice and the length of the output credit timeout
(R214 to R221, R232 to R235). -/
namespace Sys2Proof.Machine

/-! ### Compression jobs (R220, R221, R232 to R235) -/

/-- Words of a merged body in an outgoing merged fragment. -/
def bodyLen (f : OutFrag) : Nat := f.words.length - 8

/-- The reservation bound L of a body at a ratio (R232). -/
def packLimit (r n : Nat) : Nat := ceilDiv (n * r) 32 + 3

/-- The words that a job of these settings reserves. -/
def packNeed (r : Nat) (f : OutFrag) : Nat := 8 + packLimit r (bodyLen f)

/-- The cells of packed fragments and of the reservation of its job that a view holds (R215, R232). -/
def packedCells (o : OutView) : List Nat :=
  o.resCells ++ ((o.ready.filter (·.packed)) ++ (match o.sending with | some x => if x.frag.packed then [x.frag] else [] | none => [])).flatMap (·.cells)

/-- The block code of a view's compressor (R75). -/
def compressorCode (v : Nat) : Nat := 0x0600 + v

/-- The job at the head leaves the compressor, and the fragment that replaces it is ready in its place (R221). -/
def jobLeaves (v : Nat) (f : OutFrag) (final : Nat) (p : Part) : Part :=
  let o := out p v
  noteJobs v (setOut v { o with jobs := o.jobs.tail, busy := false, reserved := none, resCells := [], packed := [], jobWords := [], lastJob := final, ready := o.ready ++ [{ f with since := p.clk.rp }] } p)

/-- A job ends without its commit: its reservation is free again, and the merged fragment goes up raw (R73, R233). -/
def jobRaw (v final : Nat) (p : Part) : Part :=
  match (out p v).jobs with
  | f :: _ => freeCells (out p v).resCells (jobLeaves v { f with raw := true } final p)
  | [] => p

/-- A job that fails (R233). -/
def jobFailed (v cause : Nat) (p : Part) : Part := jobRaw v 4 (wr (0x4040 + v) 6 cause (bump (0x4040 + v) 8 p))

/-- A job that is aborted (R73, R235). -/
def jobAborted (v : Nat) (p : Part) : Part := jobRaw v 3 (bump (0x4040 + v) 9 p)

/-- The packed fragment of a job (R222). -/
def packedFragment (ws body : List FWord) : List FWord :=
  let h := match ws.take 6 with
    | a :: t => setKind 5 a :: t
    | [] => []
  h ++ body ++ [setKind 6 (ws.getD (ws.length - 2) poisonWord), fw body.length]

/-- The commit of a job: its packed fragment is ready, in the cells it needs of the reservation (R232, R235). -/
def jobDone (v : Nat) (p : Part) : Part :=
  let o := out p v
  match o.jobs with
  | f :: _ =>
    let ws := packedFragment o.jobWords o.packed
    let n := cellsFor ws.length
    let p := wr (0x4040 + v) 0xB o.packed.length (wr (0x4040 + v) 0xA (bodyLen f) (bump (0x4040 + v) 7 p))
    freeCells (f.cells ++ o.resCells.drop n) (jobLeaves v { f with words := ws, packed := true, cells := o.resCells.take n } 2 p)
  | [] => p

/-- The body of a merged fragment as its words stand. -/
def mergedBody (ws : List FWord) : List FWord := (ws.drop 6).take (ws.length - 8)

/-- The reservation is made once the quota has room, and the body is packed (R232). -/
def jobReserve (v : Nat) (p : Part) : Part :=
  let o := out p v
  match o.jobs, o.busy, o.reserved with
  | f :: _, true, none =>
    let need := packNeed o.jobR f
    if cellsOf p o.jobRegion (packedCells o) + cellsFor need ≤ quotaOf p 0x4040 3 o.jobRegion then
      match addCells (compressorCode v) o.jobRegion [] need p with
      | (some cs, p) =>
        let summary := bits (wv (o.jobWords.getD 0 poisonWord)) 13 12 == 2
        setOut v { o with reserved := some need, resCells := cs, packed := packBody summary f.lens (mergedBody o.jobWords) } p
      | (none, p) => p
    else p
  | _, _, _ => p

/-- The cause for which a BUSY job fails before it writes; 0 for none (R233). -/
def jobCause (p : Part) (v : Nat) (f : OutFrag) : Nat :=
  let o := out p v
  if poisoned (o.jobWords.take 6 ++ o.jobWords.drop (o.jobWords.length - 2)) then 4
  else if 16 ≤ o.jobRegion then 2
  else if quotaOf p 0x4040 3 o.jobRegion < cellsFor (packNeed o.jobR f) then 3
  else 0

/-- The words of a merged fragment as the compressor holds them: RPL is set in a record one of whose words arrived on replay
(R51). -/
def compressorWords (lens : List Nat) (ws : List FWord) : List FWord :=
  let item := fun (x : List FWord) => if x.length = 2 ∧ !isMarkItem x then withRpl x else x
  ws.take 6 ++ ((cutItems lens (mergedBody ws)).flatMap item) ++ ws.drop (ws.length - 2)

/-- The oldest job becomes BUSY: it takes the ratio and the region set then, and the merged fragment is read from event memory
(R220, R221, R232). `hops` are the tags of words that did not reach the compressor NORMAL, by place. In mode 0 it leaves
unpacked. -/
def jobStart (v : Fin 4) (hops : List (Nat × Tag)) (p : Part) : Part :=
  let o := out p v
  match o.jobs, o.busy with
  | f :: t, false =>
    if rd p (0x4040 + v) 1 = 0 then noteJobs v (setOut v { o with jobs := t, ready := o.ready ++ [f] } p)
    else
      let (ws, p) := fetch (compressorCode v) (cellAddrs f.cells f.words.length) f.words p
      let ws := compressorWords f.lens (arriveWords hops ws)
      let p := wr (0x4040 + v) 6 0 (setOut v { o with busy := true, reserved := none, resCells := [], packed := [], jobWords := ws, jobR := rd p (0x4040 + v) 2, jobRegion := rd p (0x4040 + v) 3 } p)
      let p := noteJobs v p
      let c := jobCause p v f
      if c ≠ 0 then raiseFailure (.job v) c p else jobReserve v p
  | _, _ => p

/-- COMPRESSION_JOB_START (R221). -/
def execCompressionJobStart (v : Fin 4) (hops : List (Nat × Tag)) (s : State) : Outcome := run (jobStart v hops) s

/-- JOB_RESERVATION_GRANT (R232). -/
def execJobReservationGrant (v : Fin 4) (s : State) : Outcome := run (jobReserve v) s

/-- Whether the BUSY job has its reservation, and whether its packed body fits (R232, R233). -/
def jobFits (o : OutView) : Option Bool :=
  match o.busy, o.reserved with
  | true, some n => some (decide (o.packed.length + 8 ≤ n))
  | _, _ => none

/-- End 1 is written into the reservation, the packed fragment with it, and completion is raised (R235). -/
def jobCommit (v : Fin 4) (p : Part) : Part :=
  let o := out p v
  if jobFits o = some true ∧ unsettled p (.job v) then
    let ws := packedFragment o.jobWords o.packed
    raiseCompletion (.job v) (writeList (compressorCode v) ((cellAddrs o.resCells ws.length).zip ws) p)
  else p

/-- JOB_COMMIT (R235). -/
def execJobCommit (v : Fin 4) (s : State) : Outcome := run (jobCommit v) s

/-- The packed body would pass L: the compressor stops and raises a failure with cause 1 (R233). -/
def packedBodyExceeds (v : Fin 4) (p : Part) : Part :=
  if jobFits (out p v) = some false ∧ unsettled p (.job v) then raiseFailure (.job v) 1 p else p

/-- PACKED_BODY_EXCEEDS_RESERVATION (R233). -/
def execPackedBodyExceedsReservation (v : Fin 4) (s : State) : Outcome := run (packedBodyExceeds v) s

/-- JOB_ABORT (R235). -/
def execJobAbort (rq : Rq) (v : Fin 4) (s : State) : Outcome :=
  runCtl (fun p => abortWrite rq (0x4040 + v) 4 2 (.job v) (rd p (0x4040 + v) 5) (jobAborted v) p) s

/-! ### Routing and the credit timeout (R216, R217) -/

/-- The link of a view's destination uplink, and the other one. -/
def destLink (p : Part) (v : Nat) : Nat := if rd p (0x4000 + v) 3 = 0 then linkA else linkB
def otherLink (k : Nat) : Nat := if k = linkA then linkB else linkA

/-- The uplink a view's next fragment leaves by; none while it waits (R216). -/
def uplinkFor (p : Part) (v : Nat) : Option Nat :=
  let k := destLink p v
  if inService p k then some k
  else if rd p (0x4000 + v) 4 = 1 ∧ inService p (otherLink k) then some (otherLink k)
  else none

/-- The output credit timeout in ring periods; 0 for none (R217). -/
def outTimeout (p : Part) (v : Nat) : Nat := 256 * eff p (0x4000 + v) 5

end Sys2Proof.Machine
end

