-- ==== Sys2Proof/Machine/Trigger.lean ====
section
/-! DEFINITION. The trigger table, its terms and outputs, the trigger master, and the schedule of captures
(R156 to R167, R173 to R178). -/
namespace Sys2Proof.Machine

/-! ### Settings at a time (R82, R147) -/

/-- The front-end epoch at the boundary that opens the frame of `x` (R126). -/
def epochAt (p : Part) (x : Nat) : Nat :=
  ((p.acq.epochs.find? fun e => decide (e.1 ≤ x / frameTk * frameTk)).map (·.2)).getD 0

/-- A view's engine. -/
def view (p : Part) (v : Nat) : ViewEng := tget {} p.acq.views v

/-- Set a view's engine. -/
def setView (v : Nat) (x : ViewEng) (p : Part) : Part := { p with acq := { p.acq with views := tput {} p.acq.views v x } }

/-! ### The trigger table (R174 to R178) -/

/-- The words of the ROM default table (R178). -/
def romWord (i : Nat) : Nat :=
  if i = 0 then 0xC0100 else if i = 548 then 0x00001 else if i = 549 then 0xCF000 else if i = 550 then 0x00A00
  else if i = 572 then 0x704FF else 0

/-- The ROM default table as an image. -/
def romImage : List Nat := (List.range 573).map romWord

/-- Word `i` of a table. -/
def TrigTab.word (t : TrigTab) (i : Nat) : Nat := if t.image.isEmpty then romWord i else t.image.getD i 0

/-- The image of a table (3040h). -/
def TrigTab.words (t : TrigTab) : List Nat := if t.image.isEmpty then romImage else t.image

/-- Term j as 40 bits, output j as 60 bits (R175). -/
def TrigTab.term (t : TrigTab) (j : Nat) : Nat := ofWords [t.word (420 + 2 * j), t.word (421 + 2 * j)]
def TrigTab.output (t : TrigTab) (j : Nat) : Nat := ofWords [t.word (548 + 3 * j), t.word (549 + 3 * j), t.word (550 + 3 * j)]

/-- Input n is in mask j (R175). -/
def TrigTab.inMask (t : TrigTab) (j n : Nat) : Bool := bit (t.word (4 + 13 * j + n / 20)) (n % 20)

/-- The reserved fields of an image are zero (R174 to R176). -/
def reservedZero (t : TrigTab) : Bool :=
  t.word 3 == 0 && bits (t.word 2) 19 16 == 0 &&
  ((List.range 32).all fun j => bits (t.word (16 + 13 * j)) 19 16 == 0) &&
  ((List.range 64).all fun j => bits (t.term j) 19 16 == 0) &&
  ((List.range 8).all fun j => !bit (t.output j) 36 && bits (t.output j) 31 16 == 0)

/-- The consistency check of an image (R176). -/
def imageOk (image : List Nat) : Bool :=
  let t : TrigTab := { image }
  image.length == 573 && t.word 0 == 0xC0100 && decide (1 ≤ t.word 2) && reservedZero t &&
  ((List.range 64).all fun j => !bit (t.term j) 39 || bits (t.term j) 15 0 != 0) &&
  ((List.range 8).all fun j => !bit (t.output j) 39 || bits (t.output j) 59 40 != 0) &&
  sum20 image == 0

/-- A table takes effect at a boundary: term and output states restart, and the epoch advances (R177). -/
def tableEffect (image : List Nat) (b : Nat) (p : Part) : Part :=
  let p := { p with acq := { p.acq with oldTab := some p.acq.tab, tab := { image }, tabFrom := b } }
  let p := wr 0x3030 1 (if image.isEmpty then 0 else image.getD 1 0) p
  let p := wr 0x3030 2 (if image.isEmpty then 0 else 1) p
  epochUp (wr 0x3030 3 b p)

/-! ### Sending trigger packets (R161, R163, R165) -/

/-- A request joins a link's full-flag queue, or is lost and counted (R60, R65, R67, R165). -/
def queueReq (k : Nat) (r : TrigReq) (p : Part) : Part :=
  if (link p k).reqs.length < 16 ∧ linkStopped p k = false then setLink k { link p k with reqs := (link p k).reqs ++ [r] } p
  else bump 0x3050 9 (overrun (laneIsland (laneOfLink k)) p)

/-- A command joins a link's full-flag queue, or is lost and counted (R60, R65, R67, R165). -/
def queueCmd (k : Nat) (c : TrigCmd) (p : Part) : Part :=
  if (link p k).cmds.length < 16 ∧ linkStopped p k = false then setLink k { link p k with cmds := (link p k).cmds ++ [c] } p
  else bump 0x3050 0xA (overrun (laneIsland (laneOfLink k)) p)

/-- The uplink that trigger packets go up by: A, or B while A is not in SERVICE (R161, R163). -/
def upLink (p : Part) : Option Nat :=
  if inService p linkA then some linkA else if inService p linkB then some linkB else none

/-- A request goes toward the parent, or is lost where neither uplink is in SERVICE (R161). -/
def sendReqUp (r : TrigReq) (p : Part) : Part :=
  match upLink p with
  | some k => queueReq k r p
  | none => bump 0x3050 9 p

/-- A command goes down every downstream port in SERVICE (R163). -/
def sendCmdDown (c : TrigCmd) (p : Part) : Part :=
  forEach (List.range 16) (fun k q => if inService q k then queueCmd k c q else q) p

/-- A command goes up every uplink in SERVICE (R163). -/
def sendCmdUps (c : TrigCmd) (p : Part) : Part :=
  forEach [linkA, linkB] (fun k q => if inService q k then queueCmd k c q else q) p

/-- The part is at tier 0. -/
def tierZero (p : Part) : Bool := rd p 0x1100 2 == 0

/-- The part is a trigger master (R161). -/
def isMaster (p : Part) : Bool := tierZero p || eff p 0x3050 1 == 1

/-! ### Scheduling captures (R163, R167) -/

/-- Keep 3000h + v.08 and 3060h + v.07 in step (R173). -/
def noteCaps (v final : Nat) (p : Part) : Part :=
  let e := view p v
  let p := wr (0x3060 + v) 7 e.caps.length p
  wr (0x3000 + v) 8 (if e.capBusy then 1 else if e.caps.isEmpty then final else 6) p

/-- A triggered view schedules a capture, or drops the command (R167). -/
def schedule (v : Nat) (c : TrigCmd) (p : Part) : Part :=
  let e := view p v
  if (match e.lastNum with | some n => decide (c.num ≤ n) | none => false) || decide (64 ≤ e.caps.length) then
    bump (0x3060 + v) 4 p
  else
    noteCaps v (rd p (0x3000 + v) 8)
      (setView v { e with caps := e.caps ++ [{ num := c.num, trig := c.time }], lastNum := some c.num } p)

/-- A command is applied: each triggered view in its mask schedules a capture where a front end takes data, and a
Bough's slots have their event start (R163, R190). -/
def applyCmd (c : TrigCmd) (p : Part) : Part :=
  forEach (List.range 4) (fun v q =>
    if bit c.mask v && viewMode q v == 2 then
      let q := onlyIf (frontOn q) (schedule v c) q
      onlyIf (isBough q) (eventStart v c.num 1 (some c.time)) q
    else q) p

/-! ### The trigger master (R162) -/

/-- The effective view mask of a request at the master (R162). -/
def effectiveMask (r : TrigReq) (p : Part) : Nat :=
  if (eff p 0x3050 3 : Int) < diffMod 80 (now p) r.time then 0
  else (List.range 4).foldl (fun a v =>
    let far := match (view p v).lastAccept with
      | some y => decide (eff p (0x3000 + v) 5 ≤ Int.natAbs (diffMod 80 r.time y))
      | none => true
    if bit r.mask v && bit (eff p 0x3050 2) v && viewMode p v == 2 && bit (eff p (0x3000 + v) 4) r.outNo && far
    then setBit a v else a) 0

/-- A master takes a request: it issues an accept or discards it (R162). -/
def masterTake (r : TrigReq) (p : Part) : Part :=
  let p := bump 0x3050 5 p
  let m := effectiveMask r p
  let num := eff p 0x3050 4
  if m = 0 ∨ num = 0xFFFFFFFFFF then bump 0x3050 6 p
  else
    let p := bump 0x3050 7 (setEff 0x3050 4 (num + 1) p)
    let p := forEach (List.range 4) (fun v q => if bit m v then setView v { view q v with lastAccept := some r.time } q else q) p
    let c : TrigCmd := { time := r.time, num, mask := m, outNo := r.outNo, addr := rd p 0x1100 1 }
    sendCmdUps c (sendCmdDown c (applyCmd c p))

/-- A request the part forms or receives from below (R161). -/
def takeReq (r : TrigReq) (p : Part) : Part := if isMaster p then masterTake r p else sendReqUp r p

/-- TRIGGER_REQUEST_RECEIVED (R162): from below; a request never travels toward a child (R300). One that
holds a poisoned word is discarded and counted (R304). -/
def execTriggerRequestReceived (k : Fin 18) (pois : Bool) (time outNo mask addr : Nat) (s : State) : Outcome :=
  run (fun p =>
    if inService p k && decide (k.val < 16) then
      if pois then packetDefect k.val p
      else takeReq { time := time % 2 ^ 80, outNo := outNo % 8, mask := mask % 16, addr := addr % 2 ^ 20 } p
    else bump (0x5120 + k) 9 p) s

/-- A command received on a link (R163): from above it is applied and sent down, from below it goes up. DESIGN CHOICE: one from
below is dropped without a count where no uplink is in SERVICE, of which the manual says nothing (log 105). -/
def cmdReceived (k : Nat) (c : TrigCmd) (p : Part) : Part :=
  if !inService p k then bump (0x5120 + k) 9 p
  else if 16 ≤ k then sendCmdDown c (applyCmd c (bump 0x3050 8 p))
  else if tierZero p && isBough p then sendCmdUps c p
  else match upLink p with
    | some u => queueCmd u c p
    | none => p

/-- TRIGGER_COMMAND_RECEIVED (R163); one that holds a poisoned word is discarded and counted (R304). -/
def execTriggerCommandReceived (k : Fin 18) (pois : Bool) (time num mask outNo addr : Nat) (s : State) : Outcome :=
  run (fun p => if inService p k && pois then packetDefect k.val p else cmdReceived k.val { time := time % 2 ^ 80, num := num % 2 ^ 40, mask := mask % 16, outNo := outNo % 16, addr := addr % 2 ^ 20 } p) s

/-! ### Outputs and terms (R158, R159) -/

/-- One firing of an output at `x`: hold-off, counting, and the request (R159). -/
def fireOutput (old : Bool) (j x : Nat) (p : Part) : Part :=
  let t := if old then p.acq.oldTab.getD {} else p.acq.tab
  let put := fun (t : TrigTab) (q : Part) =>
    if old then { q with acq := { q.acq with oldTab := some t } } else { q with acq := { q.acq with tab := t } }
  let o := t.output j
  if !bit o 39 then p
  else if (match tget none t.lastFire j with
      | some y => decide (Int.natAbs (diffMod 80 x y) < 128 * bits o 15 0) | none => false) then p
  else
    let p := bump 0x3031 (j + 1) p
    let n := tget 0 t.presc j + 1
    let hit := decide (bits o 59 40 ≤ n)
    let p := put { t with lastFire := tput none t.lastFire j (some x), presc := tput 0 t.presc j (if hit then 0 else n) } p
    if hit then takeReq { time := x, outNo := j, mask := bits o 35 32, addr := rd p 0x1100 1 } (bump 0x3032 (j + 1) p) else p

/-- Firings at `x` are evaluated by the old table before the boundary of a change (R177). -/
def byOld (p : Part) (x : Nat) : Bool := p.acq.oldTab.isSome && decide (x < p.acq.tabFrom)

/-- One term sees a leading record: its stamp is kept, and whether the term fires (R158). -/
def seeTerm (t : TrigTab) (j n thr x : Nat) (tp : Bool) : TrigTab × Bool :=
  let w := t.term j
  let m := bits w 34 30
  if bit w 39 && bits w 29 28 == thr && t.inMask m n && (!tp || bit w 38) then
    let stamps := tput none t.stamps (256 * j + n) (some x)
    let win := 128 * bits w 15 0
    let cnt := (stamps.filter fun kv => kv.1 / 256 == j && (match kv.2 with | some y => decide (subMod 80 x y < win) | none => false)).length
    ({ t with stamps }, decide (bits w 27 20 + 1 ≤ cnt))
  else (t, false)

/-- All terms see a leading record; the outputs that the firing terms name (R158, R159). -/
def seeTerms (n thr x : Nat) (tp : Bool) : List Nat → TrigTab → TrigTab × List Nat
  | [], t => (t, [])
  | j :: js, t =>
    let (t, f) := seeTerm t j n thr x tp
    let r := seeTerms n thr x tp js t
    (r.1, if f then bits (t.term j) 37 35 :: r.2 else r.2)

/-- A leading record reaches the trigger table: terms that fire make one firing of each output they name (R159). -/
def triggerSee (n thr x : Nat) (tp : Bool) (p : Part) : Part :=
  let old := byOld p x
  let t := if old then p.acq.oldTab.getD {} else p.acq.tab
  if t.image.isEmpty then p
  else
    let (t, outs) := seeTerms n thr x tp (List.range 64) t
    let p := if old then { p with acq := { p.acq with oldTab := some t } } else { p with acq := { p.acq with tab := t } }
    forEach (List.range 8) (fun j q => if outs.contains j then fireOutput old j x q else q) p

/-- A pin edge reaches the interval unit where that uses it (R131); a selected one is a firing of every output that takes
the pin (R159). -/
def pinEdge (nb rising : Bool) (tap : Nat) (h : Bool) (p : Part) : Part :=
  let sel := eff p 0x3020 (if nb then 2 else 1)
  let pin : AuxPin := if nb then .trigNb else .trigIn
  let x := auxStamp p pin tap h
  let p := pinArrive pin rising x p
  if (sel == 0) == rising then
    let old := byOld p x
    let t := if old then p.acq.oldTab.getD {} else p.acq.tab
    forEach (List.range 8) (fun j q => if bit (t.output j) (if nb then 37 else 38) then fireOutput old j x q else q) p
  else p

/-- TRIG_PIN_EDGE (R159). -/
def execTrigPinEdge (dt : Nat) (nb : Bool) (rising : Bool) (tap : Fin 64) (h : Bool) (s : State) : Outcome :=
  run (fun p => pinEdge nb rising tap.val h (advance dt p)) s

end Sys2Proof.Machine
end

