-- ==== Sys2Proof/Machine/Stage.lean ====
section
/-! DEFINITION. The shutter stage and the engine: release of records, shutters, view selection, streaming and summary
fragments, the latency buffer and captures (R91 to R101, R119, R146 to R157, R167 to R173). -/
namespace Sys2Proof.Machine

/-! ### Records and fragments -/

/-- Flags of a record as a 6-bit number, record bits [28:23]: TP, MRG, NEAR, SHT, REFL, RPL (R125). -/
def recFlags (tp mrg near sht refl rpl : Bool) : Nat :=
  (if tp then 32 else 0) + (if mrg then 16 else 0) + (if near then 8 else 0) + (if sht then 4 else 0) +
    (if refl then 2 else 0) + (if rpl then 1 else 0)

/-- A record is a shutter marker. -/
def Rec.isMarker (r : Rec) : Bool := bit r.flags 2

/-- The 40 bits of a record (R124). -/
def Rec.num (r : Rec) : Nat :=
  r.n * 2 ^ 32 + r.t * 2 ^ 30 + (if r.lead then 2 ^ 29 else 0) + r.flags * 2 ^ 23 + r.stamp % 2 ^ 23

/-- Words, poisoned where the record's were. -/
def Rec.words (r : Rec) : List FWord :=
  match toWords 2 r.num with
  | [a, b] => [if r.pois0 then poisonWord else fw a, if r.pois1 then poisonWord else fw b]
  | _ => []

/-- A summary marker item (R155). -/
def Rec.markerItem (r : Rec) : List FWord :=
  let x := r.n * 2 ^ 52 + r.t * 2 ^ 50 + 0x3FFF * 2 ^ 36 + (if r.lead then 2 ^ 35 else 0) + (if bit r.flags 1 then 2 ^ 34 else 0) + r.stamp % 2 ^ 23
  (toWords 3 x).map fun a => if r.pois0 || r.pois1 then poisonWord else fw a

/-- The header of a Leaf fragment (R126). -/
def leafHeader (p : Part) (v mode epoch id : Nat) : List FWord :=
  ([2 ^ 16 + v * 2 ^ 14 + mode * 2 ^ 12 + 2 ^ 8 + epoch % 256] ++ toWords 3 id ++ [rd p 0x1100 1]).map fw

/-- The end words of a Leaf fragment; `st` is bits [19:12] of End 1 (R127). -/
def leafEnd (v mode id st count : Nat) : List FWord :=
  [2 * 2 ^ 16 + v * 2 ^ 14 + mode * 2 ^ 12 + id % 4096, st * 2 ^ 12, count].map fw

/-- A view selects a comparator at a time: its input and its threshold (R101). -/
def selected (p : Part) (v n t x : Nat) : Bool :=
  bit (effAt p (0x2060 + v) (n / 16 + 1) x) (n % 16) && bit (effAt p (0x2060 + v) 0x11 x) t

/-- A time lies in [a, b) (R11). -/
def within (x a b : Nat) : Bool := !before x a && before x b

/-- A span of `n` ticks from `a` in pieces that end at frame boundaries: a view's selection is constant in each (R101). -/
def spanPieces : (fuel a n : Nat) → List (Nat × Nat)
  | 0, _, _ => []
  | k + 1, a, n =>
    let m := min n (frameTk - a % frameTk)
    if n = 0 then [] else (a, (a + m) % 2 ^ 80) :: spanPieces k ((a + m) % 2 ^ 80) (n - m)

/-- The status that a piece of a span gives: bits [19:14] of End 1 shifted down to [7:2] (R127, R128). -/
def pieceStatus (p : Part) (v a b : Nat) : Nat :=
  let f := p.front
  let sel := fun (k : Nat) => selected p v (k / 4) (k % 4) a
  let refl := f.refl.any fun s => overlaps s a b
  let uncal := (List.range 16).any fun g =>
    ((List.range 16).any fun i => bit (effAt p (0x2060 + v) (g + 1) a) i) && (uncalSpans p g).any fun s => overlaps s a b
  let shut := f.comps.any fun kv => sel kv.1 && kv.2.spans.any fun s => overlaps s a b
  let loss := f.lossLog.any fun x => within x.1 a b && sel x.2
  let blank := f.blankLog.any fun x => within x.1 a b && sel x.2
  let tunl := f.tunl.any fun s => overlaps s a b
  putBit (putBit (putBit (putBit (putBit (putBit 0 7 refl) 6 uncal) 5 shut) 4 loss) 3 blank) 2 tunl

/-- The status of a fragment over its span [a, b) (R127, R128). -/
def spanStatus (p : Part) (v a b : Nat) : Nat :=
  (spanPieces 4 a (subMod 80 b a)).foldl (fun st x => st ||| pieceStatus p v x.1 x.2) 0

/-- A Leaf-form fragment around a body (R126 to R128). -/
def leafFragment (p : Part) (v mode epoch id a b : Nat) (rpl : Bool) (body : List FWord) : List FWord :=
  let st := putBit (putBit (spanStatus p v a b) 1 rpl) 0 (body.any (·.poison))
  leafHeader p v mode epoch id ++ body ++ leafEnd v mode id st body.length

/-! ### Output of local fragments (R150, R212, R215) -/

/-- The block code of a view's engine (R75). -/
def engineCode (v : Nat) : Nat := 0x0400 + v

/-- The cells of fragments that a Leaf's view holds: being written, cut, ready, being sent, or sent and not acknowledged
(R150, R328). -/
def leafCells (p : Part) (v : Nat) : List Nat :=
  let o := out p v
  let e := view p v
  e.frags.flatMap (·.cells) ++ (e.cut.map (·.cells)).getD [] ++ o.ready.flatMap (·.cells) ++ (o.sending.map (·.frag.cells)).getD [] ++
    ((link p linkA).held ++ (link p linkB).held).flatMap fun h => if h.view == v then h.cells else []

/-- Cells of its output queue region that a Leaf's view holds. -/
def leafHeld (p : Part) (v : Nat) : Nat := cellsOf p (eff p (0x3010 + v) 2) (leafCells p v)

/-- Cells for `n` words in all of a fragment of a Leaf's view, of which these hold the first; nothing where the view's quota
cannot take them (R150, R215). -/
def leafGrow (v : Nat) (cs : List Nat) (n : Nat) (p : Part) : Option (List Nat) × Part :=
  let need := cellsFor n - cs.length
  if need = 0 then (some cs, p)
  else if leafHeld p v + need ≤ quotaCells p 0x3010 2 v then addCells (engineCode v) (eff p (0x3010 + v) 2) cs n p
  else (none, p)

/-- Whether the credits of port 15 take a whole fragment of a Bough's local front end (R212, R515). -/
def localTake (p : Part) (v n : Nat) : Bool := localOn p && !isolated p 15 && decide (n ≤ (credit p 15 v).left)

/-- The engine presents a whole fragment to its queue: the cells that hold it in a Leaf, or nothing where the queue cannot take
it whole (R150, R212). -/
def offer (v : Nat) (cs : List Nat) (ws : List FWord) (p : Part) : Option (List Nat) × Part :=
  match p.pow.role with
  | .leaf =>
    match leafGrow v cs ws.length p with
    | (some cs, p) => (some cs, writeList (engineCode v) ((cellAddrs cs ws.length).zip ws) p)
    | (none, p) => (none, p)
  | .bough => (if localTake p v ws.length then some [] else none, p)

/-- A whole fragment enters its queue. -/
def putFragment (v id : Nat) (cs : List Nat) (ws : List FWord) (p : Part) : Part :=
  match p.pow.role with
  | .leaf => setOut v { out p v with ready := (out p v).ready ++ [{ id, words := ws, since := p.clk.rp, cells := cs }] } p
  | .bough => takePayload 15 v true true false ws p

/-- A fragment is discarded whole and counted; its cells are free again (R150, R212). -/
def discardFragment (v : Nat) (cs : List Nat) (p : Part) : Part := freeCells cs (bump (0x3060 + v) 6 p)

/-! ### Shutters at the stage (R92 to R94) -/

/-- A comparator's shutter is closed at `x`. -/
def closedAt (c : Comp) (x : Nat) : Bool :=
  c.spans.any fun s => decide (s.start ≤ x) && (match s.stop with | none => true | some e => decide (x < e))

/-- A shutter reopened between the leading record of the pulse in progress and `x`: the trailing edge that ends the pulse
is discarded (R84). -/
def reopenedSince (c : Comp) (x : Nat) : Bool :=
  match c.stageLead with
  | some l => c.spans.any fun s => match s.stop with | some r => decide (l < r ∧ r ≤ x) | none => false
  | none => false

/-- What the shutter does with a record: passes it, or discards it, with the comparator and the part after (R84, R93,
R94). -/
def shutter (e : Edge) (p : Part) : Bool × Part :=
  let g := e.n / 16
  let c := comp p e.n e.t
  let d := { c with stageLead := if e.lead then some e.stamp else none }
  let cut := fun (q : Part) => bump (0x2040 + g) 0xA q
  if e.tp then (true, setComp e.n e.t d p)
  else if closedAt c e.stamp then (false, cut (setComp e.n e.t d p))
  else if !e.lead && reopenedSince c e.stamp then (false, setComp e.n e.t d p)
  else if e.lead && effAt p (0x2040 + g) 1 e.stamp == 1 then
    let k := countFrom p g e.stamp c
    let n := tget 0 c.counts k + 1
    if effAt p (0x2040 + g) 3 e.stamp < n then
      let h := effAt p (0x2040 + g) 4 e.stamp
      let stop := if h = 0 then none else some (e.stamp + h * frameTk)
      let c := { d with closed := true, spans := { start := e.stamp, stop } :: c.spans, counts := tput 0 c.counts k n }
      let p := cut (bump (0x2040 + g) 9 (setComp e.n e.t c p))
      (false, addMarker { n := e.n, t := e.t, close := true, stamp := e.stamp } p)
    else (true, setComp e.n e.t { d with counts := tput 0 c.counts k n } p)
  else (true, setComp e.n e.t d p)

/-! ### Views (R101, R148 to R156) -/

/-- A record reaches a view's engine (R97, R101). -/
def passes (p : Part) (v : Nat) (r : Rec) : Bool :=
  selected p v r.n r.t r.stamp &&
    (r.isMarker || ((r.lead || effAt p (0x2060 + v) 0x12 r.stamp == 0) &&
      (!bit r.flags 5 || effAt p (0x2060 + v) 0x13 r.stamp == 1)))

/-- Change the open fragment of a frame. -/
def onFrag (fr : Nat) (f : OpenFrag → OpenFrag) (l : List OpenFrag) : List OpenFrag :=
  l.map fun x => if x.frame = fr then f x else x

/-- The base threshold of a view at a time (R153). -/
def baseThr (p : Part) (v x : Nat) : Nat :=
  let m := effAt p (0x2060 + v) 0x11 x
  if bit m 0 then 0 else if bit m 1 then 1 else if bit m 2 then 2 else 3

/-- Words are added to the body of the fragment of a frame. In a Leaf they take cells of its output queue, the header's with
the first of them; a word that the quota cannot take discards the fragment (R150). -/
def addBody (v fr : Nat) (ws : List FWord) (rpl : Bool) (p : Part) : Part :=
  let put := fun (f : OpenFrag) (q : Part) => setView v { view q v with frags := onFrag fr (fun _ => f) (view q v).frags } q
  match (view p v).frags.find? fun f => f.frame == fr && !f.lost with
  | none => p
  | some f =>
    let g := { f with body := f.body ++ ws, rpl := f.rpl || rpl }
    match p.pow.role with
    | .bough => put g p
    | .leaf =>
      match leafGrow v f.cells (5 + g.body.length) p with
      | (some cells, p) => put { g with cells } p
      | (none, p) => put { f with body := [], cells := [], lost := true } (discardFragment v f.cells p)

/-- A streaming view's fragment takes a record (R149). -/
def streamRec (v : Nat) (r : Rec) (p : Part) : Part := addBody v (r.stamp / frameTk) r.words (bit r.flags 0) p

/-- A width in units of 128 tk, truncated, stopping at 3FFFFh (R153). -/
def widthUnits (w : Nat) : Nat := min (w / 128) 0x3FFFF

/-- A summary view's frame takes a record (R153). DESIGN CHOICE: a record with a poisoned word is left out of the summary, of
which the manual says nothing (log 105). -/
def sumRec (v : Nat) (r : Rec) (p : Part) : Part :=
  let e := view p v
  let fr := r.stamp / frameTk
  if r.isMarker then addBody v fr r.markerItem false p
  else if r.pois0 || r.pois1 then p
  else
    let b := baseThr p v r.stamp
    let add := fun (g : SumIn → SumIn) =>
      setView v { e with frags := onFrag fr (fun f =>
        if (match f.cut with | some x => !before r.stamp x | none => false) then
          { f with after := tput {} f.after r.n (g (tget {} f.after r.n)) }
        else { f with sums := tput {} f.sums r.n (g (tget {} f.sums r.n)) }) e.frags } p
    if r.lead then add fun s => { s with high := max s.high r.t, count := if r.t = b then min (s.count + 1) 0x3FFE else s.count }
    else match tget none e.leads (4 * r.n + r.t) with
      | some x =>
        if r.t = b ∧ before x e.sumFrom = false then
          let w := widthUnits (subMod 80 r.stamp x)
          add fun s => { s with minW := min s.minW w, maxW := max s.maxW w }
        else p
      | none => p

/-- The pulse of each comparator as a view's engine follows it: its leading record counts for a width only where it was taken
in summary mode, and its trailing record ends it, taken or not (R153). -/
def notePulse (v : Nat) (r : Rec) (taken : Bool) (p : Part) : Part :=
  if r.isMarker || r.pois0 then p
  else setView v { view p v with leads := tput none (view p v).leads (4 * r.n + r.t) (if r.lead && taken && !r.pois1 then some r.stamp else none) } p

/-- The words of a view's latency buffer region in effect (R156, R157). -/
def bufferWords (p : Part) (v : Nat) : Nat :=
  let r := eff p (0x3010 + v) 1
  if r < 16 then 16 * inServiceCells p r else 0

/-- The banks of a region that hold its latency buffer: those that serve and, until the boundary, those being withdrawn
(R259). -/
def ringBanks (p : Part) (r : Nat) : List Nat :=
  let g := geo p r
  ((List.range g.nb).map (g.b0 + ·)).filter fun b =>
    !bankOut p b || (tget 0 p.mem.held r != 0 && bankStanding p b == 1)

/-- The address of word `o` of a latency buffer, in ascending region-cell order. -/
def ringAddr (p : Part) (r o : Nat) : Nat :=
  let bs := ringBanks p r
  let n := max 1 bs.length
  let k := o / 16
  16 * (bs.getD (k % n) 0 * 4096 + (geo p r).r0 + k / n) + o % 16

/-- A record that reaches a view is counted in the 1 ms window in progress (R157). -/
def countRate (rp : Nat) (e : ViewEng) : ViewEng :=
  let m := rp / msRp
  if e.rateMs = m then { e with rate := e.rate + 1 }
  else { e with rate := 1, ratePrev := if e.rateMs + 1 = m then e.rate else 0, rateMs := m }

/-- A triggered view writes a record into its ring, over the oldest where it is full (R156). -/
def latRec (v : Nat) (r : Rec) (p : Part) : Part :=
  let cap := bufferWords p v / 2
  let e := countRate p.clk.rp (view p v)
  if cap = 0 then setView v e p
  else
    let a := ringAddr p (eff p (0x3010 + v) 1) (2 * e.latAt)
    let l := (if e.lat.length < cap then e.lat else e.lat.drop (e.lat.length + 1 - cap)) ++ [{ r with addr := a }]
    let p := writeList (engineCode v) ([a, a + 1].zip r.words) p
    wr (0x3010 + v) 5 ((l.head?.map (·.stamp)).getD 0) (setView v { e with lat := l, latAt := (e.latAt + 1) % cap } p)

/-- A record as it arrives at a block that handles whole records, by the tags of its two words (R47 to R51). -/
def Rec.arrive (r : Rec) (hop : Tag × Tag) : Rec :=
  let bad := fun (h : Tag) => h == .poisoned || h == .unused
  { r with flags := putBit r.flags 0 (bit r.flags 0 || hop.1 == .replayed || hop.2 == .replayed), pois0 := r.pois0 || bad hop.1, pois1 := r.pois1 || bad hop.2 }

/-- A record goes to the engine of every view that takes it, in the mode of the frame of its stamp (R147, R148); `eng` are the
tags of its words there, by view. -/
def toViews (eng : List (Tag × Tag)) (r : Rec) (p : Part) : Part :=
  forEach (List.range 4) (fun v q =>
    let r := r.arrive (eng.getD v (.normal, .normal))
    let takes := passes q v r
    let mode := effAt q (0x3000 + v) 1 r.stamp
    let q := if takes then
        match mode with
        | 1 => streamRec v r q
        | 2 => latRec v r q
        | 3 => sumRec v r q
        | _ => q
      else q
    notePulse v r (takes && mode == 3) q) p

/-! ### Release (R91, R119) -/

/-- Time marks at the head of a stream are taken off it. -/
def popMarks : List Item → (passed : Nat) → Nat × List Item
  | .mark t :: l, m => popMarks l (max m t)
  | l, m => (m, l)

/-- Take the marks off the head of a group's stream. -/
def tidyGroup (g : Nat) (p : Part) : Part :=
  let x := grp p g
  let r := popMarks x.stream x.passed
  setGrp g { x with passed := r.1, stream := r.2 } p

/-- The record at the head of a group's stream. -/
def headEdge (p : Part) (g : Nat) : Option Edge :=
  match (grp p g).stream with
  | .edge e :: _ => some e
  | _ => none

/-- A group has passed `x`: what is still to come from it is stamped later (R89, R91). A group disabled has passed it once
nothing that it recorded before is still on its way (DESIGN CHOICE, log 100). -/
def groupPassed (p : Part) (g x : Nat) : Bool :=
  match headEdge p g with
  | some e => !before e.stamp x
  | none =>
    if groupOn p g then before x (grp p g).passed
    else match groupPending p g with | some y => before x y | none => true

/-- What the stage releases next: a marker or a record (R91). -/
inductive Next where
  | marker (m : Marker) | edge (e : Edge)
  deriving DecidableEq, Repr, Inhabited

/-- The time of a marker or a record. -/
def Next.stamp : Next → Nat
  | .marker m => m.stamp
  | .edge e => e.stamp

/-- The earliest of all heads, a marker before a record of the same comparator with the same time (R91). -/
def nextOf (p : Part) : Option Next :=
  let e := firstEdge ((List.range 16).filterMap (headEdge p))
  match p.front.markers, e with
  | m :: _, some e =>
    if m.stamp < e.stamp ∨ (m.stamp = e.stamp ∧ (m.n < e.n ∨ (m.n = e.n ∧ m.t ≤ e.t))) then some (.marker m) else some (.edge e)
  | m :: _, none => some (.marker m)
  | [], some e => some (.edge e)
  | [], none => none

/-- The hold of R119: 98,304 tk after the stamp, REF status is known. -/
def reflHold : Nat := 98304

/-- A released record is given REFL by its stamp, counted, and passed on (R51, R101, R119). DESIGN CHOICE: a leading record with
a poisoned word enters no term of the trigger table, of which the manual says nothing (log 105). -/
def emitRec (n t : Nat) (lead sht tp mrg near : Bool) (stamp : Nat) (hop : Tag × Tag) (eng : List (Tag × Tag)) (p : Part) : Part :=
  let refl := spansHold p.front.refl stamp
  let r := ({ n, t, lead, flags := recFlags tp mrg near sht refl false, stamp } : Rec).arrive hop
  let p := onlyIf refl (bump 0x20D0 6) p
  let p := toViews eng r { p with front := { p.front with released := stamp } }
  if lead && !sht && !r.pois0 && !r.pois1 then triggerSee n t stamp tp p else p

/-- The stage has passed `x`: every record and marker stamped before it has been released (R90, R149). -/
def stagePassed (p : Part) (x : Nat) : Bool :=
  let p := forEach (List.range 16) tidyGroup p
  (p.front.markers.all fun m => !before m.stamp x) &&
    (List.range 16).all fun g => match headEdge p g with
      | some e => !before e.stamp x
      | none =>
        if groupOn p g then !before (grp p g).passed x
        else match groupPending p g with | some y => !before y x | none => true

/-! ### Manual closures (R96) -/

/-- A manual closure at a boundary: no hold time, counted and marked (R96). -/
def closeManually (n t b : Nat) (p : Part) : Part :=
  let c := comp p n t
  let p := bump (0x2040 + n / 16) 9 (setComp n t { c with closed := true, spans := { start := b } :: c.spans } p)
  addMarker { n, t, close := true, stamp := b } p

/-- A closure whose hold time has expired at or before `b` has reopened (R94). -/
def settleHold (n t b : Nat) (p : Part) : Part :=
  match (comp p n t).spans with
  | { start := _, stop := some x } :: _ => if (comp p n t).closed && decide (x ≤ b) then reopenAt n t x p else p
  | _ => p

/-- The closed comparators of a group whose shutter is disabled reopen (R96). -/
def reopenGroup (g b : Nat) (p : Part) : Part :=
  forEach (groupComps g) (fun nt q =>
    let q := settleHold nt.1 nt.2 b q
    if closedAt (comp q nt.1 nt.2) b then reopenAt nt.1 nt.2 b q else q) p

/-- A closed map written is applied bit by bit against the state at the boundary (R96). -/
def applyMap (key v b : Nat) (p : Part) : Part :=
  forEach (List.range 16) (fun i q =>
    let n := 16 * (key / 4) + i
    let t := key % 4
    let q := settleHold n t b q
    if closedAt (comp q n t) b then (if bit v i then q else reopenAt n t b q)
    else if bit v i then closeManually n t b q else q) p

/-- The stage reaches boundaries that changed shutters: disabling first, then the maps (R96). -/
def applyActs : List ShutAct → Part → Part
  | [], p => { p with front := { p.front with acts := [] } }
  | a :: l, p =>
    if stagePassed p a.at_ then
      let p := forEach a.off (fun g q => reopenGroup g a.at_ q) p
      applyActs l (forEach a.maps (fun m q => applyMap m.1 m.2 a.at_ q) p)
    else { p with front := { p.front with acts := a :: l } }

/-- The stage as it stands before its next release: time marks are taken off the streams, and the boundaries that it has
reached have changed its shutters (R89, R96). -/
def stageReady (p : Part) : Part :=
  let p := forEach (List.range 16) tidyGroup p
  applyActs p.front.acts p

/-- The next record or marker is released, once every enabled group has passed its stamp and REF status is known
(R91, R119). `hop` are the tags of its two words at the stage, and `eng` those at each view's engine (R51). -/
def stageRelease (hop : Tag × Tag) (eng : List (Tag × Tag)) (p : Part) : Part :=
  let p := stageReady p
  match nextOf p with
  | none => p
  | some x =>
    if (List.range 16).all fun g => groupPassed p g x.stamp then
      let p := advanceTo (x.stamp + reflHold) p
      match x with
      | .marker m =>
        let p := { p with front := { p.front with markers := p.front.markers.tail } }
        emitRec m.n m.t m.close true false false false m.stamp hop eng p
      | .edge e =>
        let g := e.n / 16
        let p := setGrp g { grp p g with stream := (grp p g).stream.tail } p
        let (pass, p) := shutter e p
        if pass then emitRec e.n e.t e.lead false e.tp e.mrg e.near e.stamp hop eng p
        else { p with front := { p.front with released := e.stamp } }
    else p

/-- SHUTTER_STAGE_RELEASE (R91). -/
def execShutterStageRelease (hop0 hop1 : Tag) (eng : List (Tag × Tag)) (s : State) : Outcome :=
  run (stageRelease (hop0, hop1) eng) s

/-! ### The end of a fragment (R149 to R155) -/

/-- What two stretches of one interval give an input together (R153). -/
def SumIn.join (a b : SumIn) : SumIn :=
  { high := max a.high b.high, count := min (a.count + b.count) 0x3FFE, minW := min a.minW b.minW, maxW := max a.maxW b.maxW }

/-- The summaries of an interval with one more frame's. -/
def joinSums (a b : Table SumIn) : Table SumIn :=
  b.foldl (fun t kv => tput {} t kv.1 ((tget {} t kv.1).join kv.2)) a

/-- The summary record of an input (R152). -/
def sumWords (n : Nat) (s : SumIn) : List FWord :=
  (toWords 3 (n * 2 ^ 52 + s.high * 2 ^ 50 + s.count * 2 ^ 36 + s.minW * 2 ^ 18 + s.maxW)).map fw

/-- The inputs a view selects at a time (R152). -/
def selectedInputs (p : Part) (v x : Nat) : List Nat :=
  (List.range 256).filter fun n => bit (effAt p (0x2060 + v) (n / 16 + 1) x) (n % 16)

/-- The end words of the oldest fragment whose frame has ended are written, and it is released (R149 to R152); `hops` are the
tags of words that did not reach its queue NORMAL, by place (R51). -/
def fragmentEnd (v : Nat) (hops : List (Nat × Tag)) (p : Part) : Part :=
  match (view p v).frags with
  | [] => p
  | f :: rest =>
    let a := f.frame * frameTk
    let b := a + frameTk
    if !before (now p) b && stagePassed p b then
      let p := advanceTo (b + reflHold) p
      let e := view p v
      let sums := joinSums e.sums f.sums
      let recs := if f.mode = 3 ∧ f.last then (selectedInputs p v a).flatMap fun n => sumWords n (tget {} sums n) else []
      let ws := arriveWords hops (leafFragment p v (if f.mode = 3 then 2 else 0) f.epoch f.frame a b f.rpl (f.body ++ recs))
      let e := { e with sums := if f.mode = 3 ∧ !f.last then sums else f.after }
      if f.lost then setView v { e with frags := rest } p
      else match offer v f.cells ws p with
        | (some cs, q) => putFragment v f.frame cs ws (setView v { e with frags := rest } q)
        | (none, q) => discardFragment v f.cells (setView v { e with frags := rest } q)
    else p

/-- FRAGMENT_END (R149). -/
def execFragmentEnd (v : Fin 4) (hops : List (Nat × Tag)) (s : State) : Outcome := run (fragmentEnd v.val hops) s

/-! ### Captures (R167 to R173) -/

/-- The records of a capture's window that the buffer holds. -/
def windowRecs (e : ViewEng) (c : Cap) : List Rec := e.lat.filter fun r => within r.stamp c.w0 c.stop

/-- Highest threshold reached in a trailer (R171). -/
def trailerHigh (rs : List Rec) : Nat :=
  let top := fun (l : List Rec) => l.foldl (fun m r => max m r.t) 0
  let own := rs.filter fun r => !r.isMarker
  let leads := own.filter (·.lead)
  if !leads.isEmpty then top leads else if !own.isEmpty then top own else top rs

/-- Time above the base threshold (R171), of records by their offsets from the window start, in a window of `len`: `acc` is
what is counted so far and `open_` the leading record in progress. A trailing record without its leading record in the
window counts from its start, with nothing counted twice. -/
def timeAbove (len : Nat) : List Rec → (acc : Nat) → (open_ : Option Nat) → Nat
  | [], acc, some x => acc + (len - x)
  | [], acc, none => acc
  | r :: t, acc, some x => timeAbove len t (acc + (r.stamp - x)) (if r.lead then some r.stamp else none)
  | r :: t, acc, none => if r.lead then timeAbove len t acc (some r.stamp) else timeAbove len t r.stamp none

/-- The number of records before the first gap of 2^23 tk or more; 0 for none (R171). -/
def splitIndex : List Rec → (i : Nat) → Nat
  | a :: b :: t, i => if 2 ^ 23 ≤ b.stamp - a.stamp then i + 1 else splitIndex (b :: t) (i + 1)
  | _, _ => 0

/-- The mean period of `c` leading records from f to l, halves rounded up (R171). -/
def meanPeriod (c f l : Nat) : Nat := if c < 2 then 0 else (2 * (l - f) + c - 1) / (2 * (c - 1))

/-- The input trailer of an input's records in a window, by their offsets from its start (R171). -/
def trailerWords (n base len : Nat) (rs : List Rec) : List FWord :=
  let onB := rs.filter fun r => !r.isMarker && r.t == base
  let leads := onB.filter (·.lead)
  let first := (rs.head?.map (·.stamp)).getD 0
  let last := (rs.getLast?.map (·.stamp)).getD 0
  let mean := meanPeriod leads.length ((leads.head?.map (·.stamp)).getD 0) ((leads.getLast?.map (·.stamp)).getD 0)
  (toWords 7 (n * 2 ^ 132 + trailerHigh rs * 2 ^ 130 + min leads.length 0x3FFF * 2 ^ 116 + mean * 2 ^ 92 +
    timeAbove len onB 0 none * 2 ^ 68 + first * 2 ^ 44 + last * 2 ^ 20 + splitIndex rs 0)).map fw

/-- A record as two words of the buffer delivered it; the engine knows its place in time. -/
def Rec.delivered (r : Rec) (ws : List FWord) : Rec :=
  let a := ws.getD 0 poisonWord
  let b := ws.getD 1 poisonWord
  let r := { r with pois0 := a.poison, pois1 := b.poison }
  if a.poison then r
  else { r with n := bits (wv a) 19 12, t := bits (wv a) 11 10, lead := bit (wv a) 9, flags := bits (wv a) 8 3 }

/-- The cut reads the records of its window from the buffer: each with its words as they reach the engine (R51, R169). -/
def cutRead (v : Nat) (c : Cap) (hops : List (Nat × Tag)) (p : Part) : List (Rec × List FWord) × Part :=
  let rs := windowRecs (view p v) c
  let (ws, p) := fetch (engineCode v) (rs.flatMap fun r => [r.addr, r.addr + 1]) (rs.flatMap Rec.words) p
  let items := (chunk 2 (rs.length + 1) (arriveWords hops ws)).map withRpl
  ((rs.zip items).map fun x => (x.1.delivered x.2, x.2), p)

/-- The fragment of a capture from the records of its window (R169). DESIGN CHOICE: the base threshold of its trailers is that
of the boundary that opens the frame of its trigger time, where the selection changes inside the window (log 105). -/
def captureFragment (p : Part) (v : Nat) (c : Cap) (rs : List (Rec × List FWord)) : List FWord :=
  let opens := frameStart c.trig
  let base := baseThr p v opens
  let seen := (rs.filter fun r => !r.1.pois0).map fun r => { r.1 with stamp := subMod 80 r.1.stamp c.w0 }
  let ins := (List.range 256).filter fun n => seen.any fun r => r.n == n
  let trailers := ins.flatMap fun n => trailerWords n base (subMod 80 c.stop c.w0) (seen.filter fun r => r.n == n)
  leafFragment p v 1 (epochAt p opens) c.num c.w0 c.stop (seen.any fun r => bit r.flags 0) (rs.flatMap (·.2) ++ trailers)

/-- The capture at the head ends, and the next may begin. -/
def captureLeaves (v final : Nat) (p : Part) : Part :=
  let e := view p v
  noteCaps v final (setView v { e with caps := e.caps.tail, capBusy := false, cut := none } p)

/-- A capture that ends without its commit gives back the cells of its fragment. -/
def captureDropped (v final : Nat) (p : Part) : Part :=
  freeCells (((view p v).cut.map (·.cells)).getD []) (captureLeaves v final p)

/-- A capture that fails: cause 1 expired, cause 2 discarded by its queue (R168, R169). -/
def captureFailed (v cause : Nat) (p : Part) : Part := captureDropped v 4 (bump (0x3060 + v) (if cause = 2 then 6 else 3) p)

/-- A capture that is aborted or discarded (R147, R173). -/
def captureAborted (v : Nat) (p : Part) : Part := captureDropped v 3 (bump (0x3060 + v) 5 p)

/-- A capture becomes BUSY: its window is that of the settings at the boundary that opens the frame of its trigger
time, and it expires where the oldest record held is later than the window's start; an empty buffer counts from the boundary
at which it restarted (R167, R168, R259; DEDUCED, log 106). -/
def captureBusy (v : Fin 4) (p : Part) : Part :=
  let e := view p v
  match e.caps, e.capBusy with
  | c :: t, false =>
    let opens := frameStart c.trig
    let w0 := subMod 80 c.trig (effAt p (0x3000 + v) 2 opens)
    let stop := (c.trig + effAt p (0x3000 + v) 3 opens) % 2 ^ 80
    if stagePassed p stop then
      let p := advanceTo (stop + 655360) p
      let c := { c with w0, stop }
      let c := { c with count := (windowRecs e c).length }
      let p := noteCaps v 1 (setView v { e with caps := c :: t, capBusy := true, cut := none } p)
      if bufferWords p v = 0 ∨ before w0 (rd p (0x3010 + v) 5) = true then raiseFailure (.capture v) 1 p else p
    else p
  | _, _ => p

/-- CAPTURE_BUSY (R167). -/
def execCaptureBusy (v : Fin 4) (s : State) : Outcome := run (captureBusy v) s

/-- Writing overtakes the cut: records of the window are no longer held (R168). -/
def captureExpire (v : Fin 4) (p : Part) : Part :=
  let e := view p v
  match e.caps, e.capBusy with
  | c :: _, true =>
    if unsettled p (.capture v) && decide ((windowRecs e c).length < c.count) then raiseFailure (.capture v) 1 p else p
  | _, _ => p

/-- CAPTURE_EXPIRE (R168). -/
def execCaptureExpire (v : Fin 4) (s : State) : Outcome := run (captureExpire v) s

/-- The cut is complete: its end-of-fragment word is accepted by its queue and completion is raised, or the queue
cannot take the fragment whole and it fails with cause 2 (R169). `hops` are the tags of words read from the buffer, and
`fin` those of the fragment's words at its queue (R51). -/
def captureCommit (v : Fin 4) (hops fin : List (Nat × Tag)) (p : Part) : Part :=
  let e := view p v
  match e.caps, e.capBusy with
  | c :: _, true =>
    if unsettled p (.capture v) && decide ((windowRecs e c).length = c.count) then
      let (rs, p) := cutRead v c hops p
      let ws := arriveWords fin (captureFragment p v c rs)
      match offer v [] ws p with
      | (some cells, q) => raiseCompletion (.capture v) (setView v { view q v with cut := some { view := v.val, mode := 1, id := c.num, words := ws, cells } } q)
      | (none, q) => raiseFailure (.capture v) 2 q
    else p
  | _, _ => p

/-- CAPTURE_COMMIT (R169). -/
def execCaptureCommit (v : Fin 4) (hops fin : List (Nat × Tag)) (s : State) : Outcome := run (captureCommit v hops fin) s

/-- The grant of a capture's completion (R169). -/
def captureDone (v : Nat) (p : Part) : Part :=
  match (view p v).cut with
  | some f => captureLeaves v 2 (putFragment v f.id f.cells f.words (bump (0x3060 + v) 2 p))
  | none => p

/-- CAPTURE_ABORT (R173): the BUSY capture, or the oldest DEFERRED one. -/
def execCaptureAbort (rq : Rq) (v : Fin 4) (s : State) : Outcome :=
  runCtl (fun p => abortWrite rq (0x3000 + v) 7 2 (.capture v) (rd p (0x3000 + v) 8) (captureAborted v) p) s

/-- A view leaves triggered mode: captures not yet BUSY are discarded and counted (R147). DESIGN CHOICE: where none is left, the
status entry then shows ABORTED; the manual does not say what it shows (log 105). -/
def dropCaptures (v : Nat) (p : Part) : Part :=
  let e := view p v
  let keep := if e.capBusy then 1 else 0
  let p := bumpBy (e.caps.length - keep) (0x3060 + v) 5 p
  noteCaps v (if e.caps.length = keep then rd p (0x3000 + v) 8 else 3) (setView v { e with caps := e.caps.take keep } p)

/-- The write rate and the usable latency are reported at the end of each 1 ms (R157). DESIGN CHOICE: a rate beyond the largest
U32 reads as that, and the latency is that of the rate itself (log 105). -/
def rateWindow (v : Nat) (p : Part) : Part :=
  let p := advanceRp (((view p v).rateEnd + 1) * msRp) p
  let e := view p v
  let m := p.clk.rp / msRp
  let w := 2000 * (if e.rateMs + 1 = m then e.rate else if e.rateMs = m then e.ratePrev else 0)
  let lat := if w = 0 then 0xFFFFFFFF else min (bufferWords p v * 1000000000 / w) 0xFFFFFFFF
  wr (0x3010 + v) 4 lat (wr (0x3010 + v) 3 (min w 0xFFFFFFFF) (setView v { e with rateEnd := m } p))

/-- BUFFER_RATE_WINDOW (R157). -/
def execBufferRateWindow (v : Fin 4) (s : State) : Outcome := run (rateWindow v.val) s

end Sys2Proof.Machine
end

