-- ==== Sys2Proof/Machine/LinkState.lean ====
section
/-! DEFINITION. Lanes and links: which lanes make a link, what a link queues to send, its states, and what is lost as
it leaves SERVICE (R263, R278, R294, R310, R326, R328). -/
namespace Sys2Proof.Machine

/-! ### Lanes -/

/-- A lane. -/
def lane (p : Part) (l : Nat) : Lane := tget {} p.lanes l

/-- Set a lane. -/
def setLane (l : Nat) (x : Lane) (p : Part) : Part := { p with lanes := tput {} p.lanes l x }

/-- Receiver and transmitter states (5020h + l.01 and .02). -/
def rxSt (p : Part) (l : Nat) : Nat := rd p (0x5020 + l) 1
def txSt (p : Part) (l : Nat) : Nat := rd p (0x5020 + l) 2
def laneDown : Nat := 0
def laneHunt : Nat := 1
def laneFramed : Nat := 2
def laneReady : Nat := 3
def laneSleepRx : Nat := 4
def laneFarAsleep : Nat := 5
def laneBypassed : Nat := 6
def txSilent : Nat := 1
def txSend : Nat := 2
def txSleep : Nat := 3
def txBypassed : Nat := 4

/-- The uplink lane that a spare replaces: X2 in the low half of the sparing map, X3 in the high one (R294). -/
def replacedBy (p : Part) (l : Nat) : Option Nat :=
  let m := rd p 0x5070 1
  let x := if l = 0x1A then bits m 7 0 else if l = 0x1B then bits m 15 8 else 0xFF
  if x = 0xFF then none else some x

/-- The spare that replaces an uplink lane. -/
def spareOf (p : Part) (l : Nat) : Option Nat := [0x1A, 0x1B].find? fun s => replacedBy p s == some l

/-- The lane whose settings of 5000h a lane uses: a spare those of the lane it replaces (R295). -/
def settingsOf (p : Part) (l : Nat) : Nat := (replacedBy p l).getD l

/-- A setting of a lane in 5000h. -/
def laneSet (p : Part) (l sub : Nat) : Nat := rd p (0x5000 + settingsOf p l) sub

/-- The width of a link by its entries: uplinks 5060h.01 and .02, downstream pairs 5060h.03 (R278). -/
def widthOf (p : Part) (k : Nat) : Nat :=
  if k = linkA then rd p 0x5060 1 else if k = linkB then rd p 0x5060 2
  else if bit (rd p 0x5060 3) (k / 2) then 2 else 1

/-- The downstream pair of a port is bonded. -/
def bonded (p : Part) (k : Nat) : Bool := decide (k < 16) && bit (rd p 0x5060 3) (k / 2)

/-- The lanes a link uses at its next bring-up, spares in place of the lanes they replace (R278, R295). -/
def lanesFor (p : Part) (k : Nat) : List Nat :=
  let place := fun l => (spareOf p l).getD l
  if k = linkA then (List.range (widthOf p k)).map fun i => place (16 + i)
  else if k = linkB then (List.range (widthOf p k)).map fun i => place (20 + i)
  else if bonded p k then (if k % 2 = 0 then [k, k + 1] else [])
  else [k]

/-- The link a lane belongs to. -/
def linkOf (p : Part) (l : Nat) : Option Nat := (List.range 18).find? fun k => (link p k).lanes.contains l

/-- The link a lane would belong to at its next bring-up. -/
def linkFor (p : Part) (l : Nat) : Option Nat := (List.range 18).find? fun k => (lanesFor p k).contains l

/-- Followers are uplink lanes and the spares that stand in for them; all others lead (R282). -/
def follower (p : Part) (l : Nat) : Bool := decide (16 ≤ l ∧ l < 24) || (replacedBy p l).isSome

/-- The bypass retimer is engaged (R296). -/
def bypassOn (p : Part) : Bool := p.pow.bypass || rd p 0x5078 1 == 1

/-- X0 or X1 in Ethernet mode (R266). -/
def ethernet (p : Part) (l : Nat) : Bool := (l == 0x18 && rd p 0x5080 1 != 0) || (l == 0x19 && rd p 0x5080 2 != 0)

/-- A lane test runs on the lane (R517). -/
def underTest (p : Part) (l : Nat) : Bool := rd p (0xA010 + l) 6 == 1

/-- The lane may take part in bring-up: enabled, not replaced, under test, in Ethernet mode or bypassed (R284, R291). -/
def laneUsable (p : Part) (l : Nat) : Bool :=
  laneSet p l 1 == 1 && (spareOf p l).isNone && !underTest p l && !ethernet p l && !(bypassOn p && (l == 0 || l == 16)) &&
    !(decide (l = 0x0F) && localOn p)

/-- The line rate of a lane in units of 1/16 Gb/s: a lane out of DOWN counts at the highest rate it took as its bring-up
began (R56, R264, R266, R517). -/
def laneUnits (p : Part) (l : Nat) : Nat :=
  if underTest p l then 32 * 2 ^ rd p (0xA010 + l) 4
  else if ethernet p l then (if rd p 0x5080 (l - 0x17) = 1 then 165 else 20)
  else if rxSt p l = laneDown then 0 else 32 * 2 ^ (lane p l).cfg.hi

/-- Keep L, the configured aggregate line rate, in step (R56). -/
def noteRate (p : Part) : Part := wr 0x1200 6 ((List.range 28).foldl (fun a l => a + laneUnits p l) 0) p

/-- The receiver and the transmitter of a lane change state; a source that is withdrawn fails the interval measurement
that uses it (R140, R284, R285). -/
def setRxSt (l v : Nat) (p : Part) : Part := ivCheckSources (noteRate (wr (0x5020 + l) 1 v p))
def setTxSt (l v : Nat) (p : Part) : Part := wr (0x5020 + l) 2 v p

/-- The group counter of a lane's transmitter: that of its link, whose lanes keep equal counters, or its own (R272). -/
def txCounter (p : Part) (l : Nat) : Nat := match linkOf p l with | some k => (link p k).txSet | none => (lane p l).txCtr

/-- A transmitter's group counter is set; its next group is that one (R272). -/
def setCounter (l n : Nat) (p : Part) : Part :=
  match linkOf p l with
  | some k => setLink k { link p k with txSet := n, txPos := 0 } p
  | none => setLane l { lane p l with txCtr := n } p

/-- A transmitter starts: its counter restarts at 0, or is that of the lanes of its link that already send (R272). -/
def startTx (l : Nat) (p : Part) : Part :=
  let others := match linkOf p l with | some k => (link p k).lanes.any fun m => m != l && txSt p m == txSend | none => false
  setTxSt l txSend (onlyIf (txSt p l != txSend && !others) (setCounter l 0) p)

/-! ### Link states and queues -/

def stDown : Nat := 0
def stTrain : Nat := 1
def stLooptimed : Nat := 2
def stService : Nat := 3
def stSleepTx : Nat := 4
def stSleepRx : Nat := 5
def stIsolated : Nat := 6
def stBypassed : Nat := 7

/-- A link's state (5100h + k.01) and isolation cause (.02). -/
def linkSt (p : Part) (k : Nat) : Nat := rd p (0x5100 + k) 1
def isoCause (p : Part) (k : Nat) : Nat := rd p (0x5100 + k) 2

/-- A link may carry time probes (R312, R342). -/
def carriesTime (p : Part) (k : Nat) : Bool := let s := linkSt p k; s == stService || s == stIsolated || s == stLooptimed

/-- The link in use for time with source 1: the preferred uplink where it carries time, and the other one otherwise; FFh with
another source (R342). -/
def linkInUse (p : Part) : Nat :=
  let a := if rd p 0x6010 1 = 0 then linkA else linkB
  if rd p 0x6000 4 ≠ 1 then 0xFF else if carriesTime p a then a else otherLink a

/-- The partial average of the measurements is discarded (R346). -/
def restartAverage (p : Part) : Part := { p with tim := { p.tim with avgN := 0, avgTh := 0, avgD := 0 } }

/-- Keep the link in use in step; a change restarts averaging (R342). -/
def noteInUse (p : Part) : Part :=
  let k := linkInUse p
  if k = rd p 0x6010 6 then p else restartAverage (wr 0x6010 6 k p)

/-- A link enters a state; an isolation cause goes with ISOLATED only, but for that of the Custodian, which a port keeps
until it is cleared (R326, R514). -/
def setLinkSt (k v : Nat) (p : Part) : Part :=
  let kept := if k < 16 ∧ isolated p (portOf p k) then 1 else 0
  noteInUse (onlyIf (v != stIsolated) (wr (0x5100 + k) 2 kept) (wr (0x5100 + k) 1 v p))

/-- A link enters ISOLATED with a cause (R326). -/
def isolate (k cause : Nat) (p : Part) : Part := wr (0x5100 + k) 2 cause (setLinkSt k stIsolated p)

/-- A link-control packet waits (R314). -/
def queueCtl (k : Nat) (ws : List Nat) (p : Part) : Part :=
  let x := link p k
  setLink k { x with ctl := x.ctl ++ [ws] } p

/-- A management packet joins the full-flag queue of its lane, 64 units deep, or is lost (R60, R67, R310). -/
def queueMgmt (k : Nat) (ws : List Nat) (p : Part) : Part :=
  let x := link p k
  if (x.mgmt.foldl (fun a w => a + w.length) 0) + ws.length ≤ 64 ∧ linkStopped p k = false then setLink k { x with mgmt := x.mgmt ++ [ws] } p
  else overrun (laneIsland (laneOfLink k)) p

/-- A handshake message: a management packet with H = 1 and segment 00b (R310, R311). -/
def queueHand (k : Nat) (ws : List Nat) (p : Part) : Part := queueMgmt k ((5 * 2 ^ 16 + 2 ^ 13 + ws.length) :: ws) p

/-- Keep the words held in the replay buffer in step (5100h + k.06). -/
def heldWords (x : Link) : Nat := x.held.foldl (fun a h => a + h.size) 0
def noteHeld (k : Nat) (p : Part) : Part := wr (0x5100 + k) 6 (heldWords (link p k)) p

/-- Keep the credit available on an uplink in step (5100h + k.09 to .0C). -/
def noteCredit (k : Nat) (p : Part) : Part :=
  if 16 ≤ k then forEach (List.range 4) (fun v q => wr (0x5100 + k) (9 + v) (credit q k v).left q) p else p

/-- Replay state is cleared (R319, R328). -/
def replayClear (k : Nat) (p : Part) : Part :=
  let x := link p k
  let p := freeCells (x.held.flatMap (·.cells)) p
  noteHeld k (setLink k { x with rxSeq := none, parse := {}, blind := false, nak := none, redo := none, redoLeft := 0, elastic := 32, ctl := [], probes := [], ret := none, held := [], acked := none, replay := none, replayed := none, replayFrom := 0, replayN := 0, mgmtSet := none, served := [], firstRet := false } p)

/-- Replay state restarts empty, and the group counters with it, at the completion of bring-up and at a wake (R272, R319). -/
def replayRestart (k : Nat) (p : Part) : Part :=
  let p := replayClear k p
  let p := setLink k { link p k with txSet := 0, txPos := 0, sinceFill := 0 } p
  forEach (link p k).lanes (fun l q => setLane l { lane q l with ctr := none } q) p

/-- The losses of a link that leaves SERVICE (R165, R328). DESIGN CHOICE: an uplink's parent port (1100h.07 and .08) returns
to FFh here; the manual says only that FFh means not connected (log 97). -/
def losses (k : Nat) (p : Part) : Part :=
  let p := forEach (List.range 4) (fun v q => discardRx k v q) p
  let port := portOf p k
  let p := onlyIf (decide (k < 16) && isBough p && !portUp p port) (portLost port) p
  let x := link p k
  let begun := (List.range 4).filter fun v => match (out p v).sending with | some s => s.link == k | none => false
  let gone := (x.held.filter fun h => !h.fragment || (h.last && !h.abn)).length + begun.length
  let p := bumpBy gone (0x5120 + k) 7 p
  let p := bumpBy x.cmds.length 0x3050 0xA (bumpBy x.reqs.length 0x3050 9 p)
  let p := forEach begun (fun v q => freeCells (((out q v).sending.map (·.frag.cells)).getD []) (setOut v { out q v with sending := none } q)) p
  let p := setLink k { link p k with reqs := [], cmds := [], abandon := [], companion := none, pos := none } p
  let p := onlyIf (decide (16 ≤ k)) (fun p =>
    let p := forEach (List.range 4) (fun v q => setCredit k v {} q) p
    let p := wr 0x1100 (k - 9) 0xFF p
    { p with svc := { p.svc with lastService := some p.clk.rp } }) p
  onlyIf (p.upd.armed.contains k) trialBreak (replayClear k (noteCredit k p))

/-- A link goes to another state, with the losses of R328 where it leaves SERVICE. -/
def leaveTo (k v : Nat) (p : Part) : Part :=
  let was := inService p k
  let p := setLinkSt k v p
  if was && v != stService then losses k p else p

/-- A link goes to ISOLATED, with the losses of R328 where it leaves SERVICE. -/
def leaveIsolated (k cause : Nat) (p : Part) : Part := wr (0x5100 + k) 2 cause (leaveTo k stIsolated p)

end Sys2Proof.Machine
end

