-- ==== Sys2Proof/Machine/Lanes.lean ====
section
/-! DEFINITION. Lanes: reception of groups, framing, bring-up, sleep, sparing, the bypass retimer and Ethernet mode
(R263 to R299). -/
namespace Sys2Proof.Machine

/-! ### Bring-up: starting and restarting (R282, R287, R291) -/

/-- The settings a lane takes as its bring-up begins (R291). -/
def takeCfg (p : Part) (k : Option Nat) (l : Nat) : LaneCfg :=
  { hi := laneSet p l 2, mode := laneSet p l 3, pol := laneSet p l 4, eqMode := laneSet p l 5, eqCode := laneSet p l 6,
    eyeWidth := rd p 0x5061 1, eyeHeight := rd p 0x5061 2, width := (k.map (widthOf p)).getD 1 }

/-- The lanes that sleep together: those of the link, or the lane alone. -/
def sleepers (p : Part) (l : Nat) : List Nat := match linkOf p l with | some k => (link p k).lanes | none => [l]

/-- A sleep request stands on the lane or on another of its link: bit 0 for the transmitter, bit 1 for the receiver (R292). -/
def asleep (p : Part) (l b : Nat) : Bool := (sleepers p l).any fun n => bit (laneSet p n 9) b

/-- What a lane has sent stays with it. -/
def Lane.keepSent (x old : Lane) : Lane := { x with txCtr := old.txCtr, marker := old.marker, heads := old.heads }

/-- A receiver's hunt begins anew (R283, R284). -/
def Lane.fresh (x : Lane) (rp : Nat) : Lane :=
  { x with good := 0, bad := 0, slp := none, since := rp, opposite := false, right := false, ctr := none, groups := [] }

/-- A lane hunts at a rate: a leader sends from LREF, a follower is silent (R282, R284), and what is asked to sleep
sleeps (R292). A transmitter that goes on sending at another rate restarts its counter (R272). -/
def hunt (l rate : Nat) (x : Lane) (p : Part) : Part :=
  let moved := rd p (0x5020 + l) 3 != rate && txSt p l == txSend
  let p := setLane l { (x.fresh p.clk.rp).keepSent (lane p l) with lt0 := 0, step := 0, far := false, eqDone := false } p
  let p := setRxSt l (if asleep p l 1 then laneSleepRx else laneHunt) (wr (0x5020 + l) 3 rate p)
  let p := wr (0x5020 + l) 4 0 p
  if asleep p l 0 then setTxSt l txSleep p
  else if follower p l then setTxSt l txSilent p
  else startTx l (onlyIf moved (setCounter l 0) p)

/-- A lane begins bring-up from its beginning: the main path, or the climb in mode 2 (R287, R288). -/
def startLane (k : Option Nat) (l : Nat) (p : Part) : Part :=
  let cfg := takeCfg p k l
  let climb := decide (cfg.mode = 2)
  let p := wr (0x5020 + l) 7 0xFF (wr (0x5020 + l) 6 0xFF p)
  hunt l (if climb then 0 else cfg.hi) { cfg, climb } p

/-- A lane goes to DOWN (R284). -/
def stopLane (l : Nat) (p : Part) : Part :=
  let p := setLane l (Lane.keepSent {} (lane p l)) p
  let p := wr (0x5020 + l) 3 0xFF (wr (0x5020 + l) 4 0 (wr (0x5020 + l) 6 0xFF (wr (0x5020 + l) 7 0xFF p)))
  setTxSt l 0 (setRxSt l laneDown p)

/-- The lanes a link takes as its bring-up begins: those its entries give it that are not in bring-up or READY in another
link (R278, R291). -/
def freeLanes (p : Part) (k : Nat) : List Nat :=
  (lanesFor p k).filter fun l => match linkOf p l with
    | some j => j == k || rxSt p l == laneDown || rxSt p l == laneBypassed
    | none => true

/-- Lanes leave every link but one. -/
def takeFrom (k : Nat) (ls : List Nat) (p : Part) : Part :=
  forEach ((List.range 18).filter fun j => j != k && (link p j).lanes.any ls.contains) (fun j q =>
    setLink j { link q j with lanes := (link q j).lanes.filter fun l => !ls.contains l } q) p

/-- The state a link takes as bring-up of its lanes begins (R326). -/
def upSt (k : Nat) (p : Part) : Part := if k < 16 ∧ isolated p k then isolate k 1 p else setLinkSt k stTrain p

/-- The other lanes of a link whose bring-up begins again: a lane the link no longer has begins bring-up in the link that the
entries now give it, where that one waits for it, and else in none (R278, R291; DEDUCED, log 108). -/
def released (l : Nat) (p : Part) : Part :=
  if !laneUsable p l then p
  else match linkFor p l with
    | some j =>
      let x := link p j
      if x.lanes.isEmpty || x.lanes.all fun m => (lane p m).cfg.width == widthOf p j && !(lane p m).trained then
        let p := onlyIf (linkSt p j == stDown) (upSt j) p
        let p := setLink j { link p j with lanes := (lanesFor p j).filter (fun m => m == l || x.lanes.contains m), deskewed := false } p
        startLane (some j) l p
      else startLane none l p
    | none => startLane none l p

/-- The link's lanes begin bring-up; its state is the caller's (R326). -/
def startLanes (k : Nat) (p : Part) : Part :=
  let was := (link p k).lanes
  let ls := freeLanes p k
  let p := takeFrom k ls (replayClear k p)
  let p := setLink k { link p k with lanes := ls, deskewed := false, hold := rd p (0x5100 + k) 3 == 1, notReady := none, helloAt := none } p
  let p := onlyIf (linkInUse p == k) restartAverage p
  let p := forEach ls (fun l q => if laneUsable q l then startLane (some k) l q else q) p
  forEach (was.filter fun l => !ls.contains l) released p

/-- A link whose lanes are all out goes to DOWN; one with a lane to use leaves DOWN for TRAIN (R326). The links of D0 and A0 stay
BYPASSED while the retimer is engaged (R296). -/
def settleLink (k : Nat) (p : Part) : Part :=
  if bypassOn p ∧ (k = 0 ∨ k = linkA) then p
  else if linkSt p k = stDown ∨ linkSt p k = stBypassed then
    (if (freeLanes p k).any (laneUsable p) then startLanes k (upSt k p) else p)
  else if (link p k).lanes.any (laneUsable p) then p
  else
    let p := leaveTo k stDown p
    setLink k { link p k with lanes := [], deskewed := false, notReady := none, helloAt := none } p

/-- The link's lanes restart bring-up, and a link in SERVICE leaves it (R291, R325). -/
def restartLink (k : Nat) (p : Part) : Part :=
  let s := linkSt p k
  let p := if s = stService ∨ s = stSleepTx ∨ s = stSleepRx ∨ s = stLooptimed then leaveTo k stTrain p else p
  startLanes k p

/-- A lane leaves READY: its link is out of READY from now on, where bring-up had completed on all its lanes. -/
def markOut (k : Nat) (p : Part) : Part :=
  let x := link p k
  if x.notReady.isNone && (x.lanes.all fun l => (lane p l).trained) then setLink k { x with notReady := some p.clk.rp } p else p

/-- All lanes of a link are in a receiver state. -/
def allIn (p : Part) (k st : Nat) : Bool := !(link p k).lanes.isEmpty && (link p k).lanes.all fun l => rxSt p l == st

/-- A framed lane keeps its place and begins the steps of bring-up again (R291). -/
def repeatBringUp (l : Nat) (p : Part) : Part :=
  setLane l { lane p l with step := 0, far := false, eqDone := false, lt0 := 0 } p

/-- A lane that was framed hunts again at its rate; its link is out of READY and its other lanes stay FRAMED
(R284, R291). Where the link was still loop-timed, its bring-up is repeated in full. -/
def huntAgain (l : Nat) (wake : Bool) (p : Part) : Part :=
  let x := lane p l
  let rate := rd p (0x5020 + l) 3
  let tx := txSt p l
  let clk := rd p (0x5020 + l) 4
  let p := if x.trained then setRxSt l laneHunt (setLane l { x.fresh p.clk.rp with wake } p)
    else hunt l rate { x with wake } p
  let p := if x.trained then wr (0x5020 + l) 4 clk (setTxSt l tx p) else p
  match linkOf p l with
  | some k =>
    let p := forEach (link p k).lanes (fun m q =>
      let q := setLane m { lane q m with groups := [] } q
      if rxSt q m = laneReady then setRxSt m laneFramed q else q) p
    let p := markOut k p
    if x.trained then p else forEach (link p k).lanes (fun m q => if m = l then q else repeatBringUp m q) (setLink k { link p k with deskewed := false } p)
  | none => p

/-- A sync loss (R280, R284). -/
def syncLoss (l : Nat) (p : Part) : Part := huntAgain l false (bump (0x5040 + l) 1 p)

/-! ### Failures of bring-up (R287, R288, R290) -/

/-- A lane's bring-up attempt fails: it is counted and its cause held (R290). -/
def countFailure (l cause : Nat) (p : Part) : Part := wr (0x5020 + l) 0xE cause (bump (0x5040 + l) 6 p)

/-- After a failed attempt the lane turns to the climb in mode 0, waits 10 ms for the main path in mode 1, and climbs
again in mode 2 (R287, R288). -/
def failedNext (l : Nat) (p : Part) : Part :=
  let x := lane p l
  let y : Lane := { cfg := x.cfg }
  if !x.climb && x.cfg.mode == 1 then
    let p := hunt l (rd p (0x5020 + l) 3) y p
    setLane l { lane p l with retry := some p.clk.rp } p
  else hunt l 0 { y with climb := true } p

/-- The lanes that begin again together after a failure: those of the link, or the lane alone. -/
def mates (p : Part) (l : Nat) : List Nat :=
  match linkOf p l with
  | some k => (link p k).lanes.filter fun m => rxSt p m != laneDown && rxSt p m != laneBypassed
  | none => [l]

/-- Bring-up fails on some lanes of a link, and all of its lanes take the next attempt. -/
def failBringUp (ls : List Nat) (l cause : Nat) (p : Part) : Part :=
  let p := forEach ls (fun m q => countFailure m cause q) p
  let p := forEach (mates p l) failedNext p
  match linkOf p l with
  | some k => setLink k { link p k with deskewed := false } p
  | none => p

/-! ### READY (R289, R291, R293, R326) -/

/-- A follower's HELLO (R311, R327). -/
def sendHello (k : Nat) (p : Part) : Part :=
  let other := inService p (otherLink k)
  let tier := rd p 0x1100 2
  let ov := p.pow.override
  let w1 := 1 * 2 ^ 16 + (if k = linkA then 1 else 2) * 2 ^ 14 + (if p.pow.root then 2 ^ 13 else 0) + (if tier = 0xFF then 7 else tier) * 2 ^ 10 + (if other then 2 ^ 9 else 0) + (if ov < 16 then 2 ^ 8 + ov * 2 ^ 4 else 0)
  queueHand k ([w1] ++ toWords 3 (rd p 0x0000 6) ++ [if tier = 0xFF then 0 else rd p 0x1100 1]) p

/-- The handshake of a link whose lanes are READY begins: a follower sends HELLO (R327). -/
def beginHandshake (k : Nat) (p : Part) : Part :=
  let p := setLinkSt k stTrain p
  let p := setLink k { link p k with helloAt := some p.clk.rp, pos := none } p
  if 16 ≤ k then sendHello k p else p

/-- The lanes of a link are READY (R289, R326): a short absence ends; otherwise the handshake begins, unless a
transmitter sleeps or the Custodian's isolation holds. -/
def linkReady (k : Nat) (p : Part) : Part :=
  let p := forEach (link p k).lanes (fun l q => setRxSt l laneReady q) p
  let p := setLink k { link p k with notReady := none } p
  if linkSt p k = stService then p
  else if (linkSt p k = stSleepTx ∨ linkSt p k = stSleepRx) ∧ ((link p k).lanes.all fun l => txSt p l == txSend) = false then p
  else if linkSt p k = stIsolated ∧ isoCause p k ≠ 3 then p
  else if isolated p (portOf p k) ∧ k < 16 then isolate k 1 p
  else beginHandshake k p

/-- Bring-up completes (R289): replay state restarts, and each lane counts it. -/
def completeLink (k : Nat) (p : Part) : Part :=
  let p := forEach (link p k).lanes (fun l q => bump (0x5040 + l) 5 (setLane l { lane q l with trained := true, wake := false, joining := false, prev := none, lt0 := 0 } q)) p
  linkReady k (replayRestart k p)

/-- The link's lanes return to READY without training: after a short absence, or on waking, where the group counters
have restarted (R291, R293). -/
def returnReady (k : Nat) (p : Part) : Part :=
  let woke := (link p k).lanes.any fun l => (lane p l).wake
  let p := onlyIf woke (replayRestart k) p
  let p := forEach (link p k).lanes (fun l q => setLane l { lane q l with wake := false, joining := false, groups := [] } q) p
  linkReady k p

/-! ### Reception of groups (R275, R279, R280, R284) -/

/-- The width code of a link width (R271). -/
def widthCode (w : Nat) : Nat := if w = 4 then 2 else if w = 2 then 1 else 0

/-- The stamp of a lane's sync arrival or departure, from the latch of its quad; the dither u is 128 (R343). -/
def quadStamp (p : Part) (l tap : Nat) (h : Bool) : Nat :=
  let base := baseOf p (c4Now p)
  convert base (kNow p) (rawCode tap h) 128 (tabAt (quadTab p (l / 4)) base) 0

/-- Words apart at the first marker that all lanes of a link have received (R280): the link is deskewed, or fails with
cause 5; a link whose lanes have been trained returns to READY. -/
def deskew (k : Nat) (p : Part) : Part :=
  let ls := (link p k).lanes
  let zero := ((ls.find? fun l => rd p (0x5020 + l) 6 == 0).map fun l => (lane p l).lag).getD 0
  let p := forEach ls (fun l q => wr (0x5020 + l) 0xB (ofSigned 20 ((lane q l).lag - zero)) q) p
  let far := ls.any fun l => ls.any fun m => decide (64 < Int.natAbs ((lane p l).lag - (lane p m).lag))
  if far then failBringUp ls (ls.headD 0) 5 p
  else
    let p := setLink k { link p k with deskewed := true } p
    if ls.all fun l => (lane p l).trained && (!(lane p l).joining || (lane p l).eqDone) then returnReady k p else p

/-- A lane reaches FRAMED: its polarity, index and width are fixed, and checked against its link (R279, R284). A woken lane
keeps them only if all match; one that takes another's place keeps the index and width of that one (R293, R295). A leader that
frames after a climb switch knows that the far end has framed too; a follower learns it from the leader's next step (R288;
DEDUCED, log 109). -/
def framed (l : Nat) (inverted : Bool) (h : GroupHeader) (p : Part) : Part :=
  let x := lane p l
  let match_ := (x.joining || rd p (0x5020 + l) 5 == inverted.toNat) && rd p (0x5020 + l) 6 == h.idx && rd p (0x5020 + l) 7 == h.width
  let p := wr (0x5020 + l) 7 h.width (wr (0x5020 + l) 6 h.idx (wr (0x5020 + l) 5 inverted.toNat p))
  let p := setRxSt l laneFramed (setLane l { x with good := 4, bad := 0, slp := none, prev := if follower p l then x.prev else none } p)
  match linkOf p l with
  | none => p
  | some k =>
    let ls := (link p k).lanes
    if x.trained && !match_ then startLanes k (if linkSt p k = stService then leaveTo k stTrain p else p)
    else if h.width ≠ widthCode x.cfg.width then failBringUp [l] l 3 p
    else if x.cfg.width ≤ h.idx then failBringUp [l] l 4 p
    else match ls.find? fun m => m != l && (rxSt p m == laneFramed || rxSt p m == laneReady) && rd p (0x5020 + m) 6 == h.idx with
    | some m => failBringUp [l, m] l 4 p
    | none =>
    if x.wake && ls.length == 1 then returnReady k (setLink k { link p k with deskewed := true } p)
    else if x.wake && (ls.all fun m => rxSt p m == laneFramed && (lane p m).trained && (lane p m).ctr.isSome && (lane p m).ctr == (lane p l).ctr) then deskew k p
    else if 16 ≤ k ∧ (ls.all fun m => rxSt p m == laneFramed || rxSt p m == laneReady) = true then
      forEach ls (fun m q => if txSt q m = txSilent then wr (0x5020 + m) 4 1 (startTx m q) else q) p
    else p

/-- A marker group checks or makes the alignment of a link's lanes (R280). -/
def alignMarker (l c : Nat) (p : Part) : Part :=
  match linkOf p l with
  | none => p
  | some k =>
    let ls := (link p k).lanes
    if decide (ls.length ≠ (lane p l).cfg.width) || !(ls.all fun m => rxSt p m == laneFramed || rxSt p m == laneReady) then p
    else
      let apart := if (link p k).deskewed then
          ls.find? fun m => m != l && (match (lane p m).ctr with | some d => d != c && d + 1024 != c | none => false)
        else none
      match apart with
      | some m => if ((lane p m).ctr).getD 0 < c then syncLoss m p else syncLoss l p
      | none =>
        let again := !(link p k).deskewed || (!allIn p k laneReady && ls.all fun m => (lane p m).trained && (!(lane p m).joining || (lane p m).eqDone))
        if again && (ls.all fun m => (lane p m).ctr == some c) then deskew k p else p

/-- The far end's report of its receiver's eye (R272, R286). -/
def farEye (l w h : Nat) (p : Part) : Part := wr (0x5020 + l) 0xD h (wr (0x5020 + l) 0xC w p)

/-- A marker group: its counter, the far end's eye report, its arrival stamp on link lane 0, and the alignment of the
link (R272, R280, R312). -/
def takeMarker (l stamp : Nat) (lag : Int) (us : List Nat) (p : Part) : Part :=
  if (us.take 4).all unitOk then
    let w := us.map (· % 2 ^ 20)
    let c := ofWords (w.take 3)
    let r := w.getD 3 0
    let p := farEye l (bits r 19 14) (bits r 13 6) p
    let p := setLane l { lane p l with ctr := some c, lag } p
    let p := match linkOf p l with
      | some k => if rd p (0x5020 + l) 6 = 0 then setLink k { link p k with rxMarks := ((c, stamp) :: (link p k).rxMarks).take 16 } p else p
      | none => p
    alignMarker l c p
  else p

/-- A training group: from a far end of the other role it carries its eye report, and where the lane was READY before it the
far end has begun again, and the link does too. The done step of a leader that has not yet seen LT clear restarts no follower
(R286, R289, R291, R325, R521). -/
def takeTraining (l : Nat) (ready : Bool) (us : List Nat) (p : Part) : Part :=
  match (trainingOf 64 us).bind trainingFields with
  | some t =>
    if t.follower = follower p l then p
    else
      let p := farEye l t.eyeWidth t.eyeHeight p
      match linkOf p l with
      | some k =>
        if ready && (!follower p l || t.step != 3) then restartLink k p else p
      | none => p
  | none => p

/-- Four headers with LT = 0 on every lane put a leader's lanes in READY (R289). -/
def countLt (l : Nat) (h : GroupHeader) (p : Part) : Part :=
  let x := lane p l
  let p := setLane l { x with lt0 := if h.lt then 0 else x.lt0 + 1 } p
  match linkOf p l with
  | some k =>
    if k < 16 ∧ allIn p k laneFramed = true ∧ (link p k).deskewed = true ∧ linkSt p k ≠ stLooptimed ∧
        ((link p k).lanes.all fun m => (lane p m).step == 3 && !(lane p m).trained && decide (4 ≤ (lane p m).lt0)) = true then completeLink k p
    else p
  | none => p

/-- What a framed or ready receiver does with a good group (R272, R284, R289). -/
def takeGood (l stamp : Nat) (lag : Int) (h : GroupHeader) (g : LineGroup) (p : Part) : Part :=
  let x := lane p l
  let ready := rxSt p l == laneReady
  let slp := if h.slp then some 0 else x.slp.map (· + 1)
  let p := setLane l { x with bad := 0, seq := h.seq, slp } p
  let p := if rxSt p l = laneReady ∧ h.kind ≠ 2 then
      setLane l { lane p l with groups := (lane p l).groups ++ [{ seq := h.seq, marker := h.kind == 1, units := if h.kind = 1 then g.units.drop 4 else g.units }] } p
    else p
  let p := countLt l h p
  if h.kind = 1 then takeMarker l stamp lag g.units p else if h.kind = 2 then takeTraining l ready g.units p else p

/-- A good group found off its place: the receiver realigns and takes it, and it counts as one without its sync in
place; the third in a row is a sync loss (R275, R284). -/
def takeSlip (l stamp : Nat) (lag : Int) (h : GroupHeader) (g : LineGroup) (p : Part) : Part :=
  let n := (lane p l).bad + 1
  if 3 ≤ n then syncLoss l p
  else
    let p := takeGood l stamp lag h g p
    if rxSt p l = laneFramed ∨ rxSt p l = laneReady then setLane l { lane p l with bad := n } p else p

/-- A group without a good header in place: its slots are delivered with their parity failed, and the third in a row
is a sync loss (R275, R284). -/
def takeBad (l : Nat) (p : Part) : Part :=
  let x := lane p l
  let p := setLane l { x with bad := x.bad + 1, seq := (x.seq + 1) % 4096, slp := x.slp.map (· + 1) } p
  if 3 ≤ x.bad + 1 then syncLoss l p
  else if rxSt p l = laneReady then
    setLane l { lane p l with groups := (lane p l).groups ++ [{ seq := (x.seq + 1) % 4096, bad := true, units := [] }] } p
  else p

/-- The counter of a marker group that comes as a lane wakes, with which its link deskews at once (R272, R293). -/
def wakeMarker (l : Nat) (lag : Int) (h : GroupHeader) (us : List Nat) (p : Part) : Part :=
  let x := lane p l
  if x.wake ∧ h.kind = 1 ∧ (us.take 3).all unitOk = true then
    setLane l { x with ctr := some (ofWords ((us.take 3).map (· % 2 ^ 20))), lag } p
  else p

/-- A hunting receiver: four consecutive good groups in place, their sequence rising by 1, frame it (R283, R284). -/
def takeHunting (l : Nat) (lag : Int) (opp : Bool) (g : Option LineGroup) (p : Part) : Part :=
  let x := lane p l
  let x := { x with opposite := x.opposite || opp, right := x.right || g.isSome }
  match g with
  | none => setLane l { x with good := 0 } p
  | some g =>
    match g.header with
    | none => setLane l { x with good := 0 } p
    | some h =>
      let n := if x.good ≠ 0 ∧ g.place = 16 ∧ h.seq = (x.seq + 1) % 4096 then x.good + 1 else 1
      let p := wakeMarker l lag h g.units (setLane l { x with good := n, seq := h.seq } p)
      if n = 4 then framed l g.inverted h p else p

/-- Find the group in line bits. A hunting receiver takes the pattern of either polarity where polarity is automatic;
one that expects a sync searches ±16 bits around its place. `line` begins 16 bits before the expected place (R275,
R283). -/
def findGroup (p : Part) (l : Nat) (line : List Bool) : Option LineGroup :=
  let x := lane p l
  let n := if rxSt p l = laneHunt ∧ x.good = 0 then line.length else 33
  let inv := line.map (!·)
  let asIs := (findSync n 0 line).map fun i => takeGroup i false line
  let turned := (findSync n 0 inv).map fun i => takeGroup i true inv
  if rxSt p l = laneHunt then
    if x.cfg.pol = 1 then asIs else if x.cfg.pol = 2 then turned
    else match asIs with | some g => some g | none => turned
  else if rd p (0x5020 + l) 5 = 1 then turned else asIs

/-- The opposite of the forced polarity is seen (R283). -/
def oppositeSeen (p : Part) (l : Nat) (line : List Bool) : Bool :=
  match (lane p l).cfg.pol with
  | 1 => (findSync line.length 0 (line.map (!·))).isSome
  | 2 => (findSync line.length 0 line).isSome
  | _ => false

/-- A lane receiver takes a block group (R275): `tap` and `h` are the raw capture of its sync arrival, and `lag` by how
many words it comes after the same group on another lane of its link. A lane whose quad's clock is stopped takes none (R60). -/
def groupReceived (l tap : Nat) (h : Bool) (lag : Int) (line : List Bool) (p : Part) : Part :=
  let st := rxSt p l
  if !(st == laneHunt || st == laneFramed || st == laneReady) || (lane p l).retry.isSome || islandStopped p (laneIsland l) then p
  else
    let g := findGroup p l line
    let p := match g with
      | some g =>
        let p := bumpBy g.violations (0x5040 + l) 2 p
        let p := onlyIf (g.place != 16 && (st != laneHunt || (lane p l).good != 0)) (bump (0x5040 + l) 3) p
        let p := onlyIf g.header.isNone (bump (0x5040 + l) 4) p
        onlyIf (decide (16 < g.stuffed)) (bump (0x5040 + l) 7) p
      | none => p
    if st = laneHunt then takeHunting l lag (oppositeSeen p l line) g p
    else match g with
      | some g =>
        match g.header with
        | some hd => (if g.place = 16 then takeGood else takeSlip) l (quadStamp p l tap h) lag hd g p
        | none => takeBad l p
      | none => takeBad l p

/-- GROUP_RECEIVED (R275). -/
def execGroupReceived (l : Fin 28) (dt : Nat) (tap : Fin 64) (h : Bool) (lag : Int) (line : List Bool) (s : State) : Outcome :=
  run (fun p => groupReceived l.val tap.val h lag line (advance dt p)) s

/-! ### Enable, time limits and signal (R283, R284, R287, R291) -/

/-- A lane's enable takes effect at its commit; a spare follows the enable of the lane it replaces, and a lane under
test waits for the end of its test (R284, R291, R295, R520). A lane that returns to a link whose bring-up had completed brings
the whole link up again (R291). -/
def enableActs (l : Nat) (p : Part) : Part :=
  let m := (spareOf p l).getD l
  if underTest p m || ethernet p m then p
  else if laneUsable p m then
    if rxSt p m ≠ laneDown then p
    else match linkOf p m with
      | some k =>
        if linkSt p k = stDown then settleLink k p
        else if (link p k).lanes.any fun n => (lane p n).trained then restartLink k p
        else startLane (some k) m p
      | none => match linkFor p m with
        | some k => if linkSt p k = stDown then settleLink k p else released m p
        | none => startLane none m p
  else match linkOf p m with
    | some k => settleLink k (if rxSt p m = laneBypassed then p else stopLane m (markOut k p))
    | none => if rxSt p m = laneBypassed then p else stopLane m p

/-- LANE_ENABLE (R284). -/
def execLaneEnable (rq : Rq) (l : Fin 28) (on : Bool) (s : State) : Outcome :=
  runCtl (ownWrite rq (0x5000 + l) 1 on.toNat fun _ => enableActs l.val) s

/-- A receiver that returns to the rate before a climb switch, with the other lanes of its link (R288). -/
def climbBack (l r : Nat) (p : Part) : Part :=
  let ms := mates p l
  let p := countFailure l 8 p
  forEach ms (fun m q =>
    let x := lane q m
    hunt m r { cfg := x.cfg, climb := true, failed := setBit x.failed (r + 1) } q) p

/-- No FRAMED within 2 ms at the main-path rate or 1 ms at a climb rate (R283, R284, R290). A bring-up that a sleep
request has interrupted does not fail (R291). -/
def huntTimeout (l : Nat) (p : Part) : Part :=
  let x := lane p l
  if rxSt p l = laneHunt ∧ x.retry = none ∧ (x.trained = true ∨ txSt p l ≠ txSleep) then
    let p := advanceRp (x.since + (if x.climb then 1 else 2) * msRp) p
    match x.prev with
    | some r => climbBack l r p
    | none => failBringUp [l] l (if x.climb then 8 else if x.cfg.pol ≠ 0 ∧ x.opposite ∧ !x.right then 2 else 1) p
  else p

/-- HUNT_TIMEOUT (R284). -/
def execHuntTimeout (l : Fin 28) (s : State) : Outcome := run (huntTimeout l.val) s

/-- Loss of signal: FAR-ASLEEP within 4 groups of a header with SLP = 1, and otherwise a sync loss (R284). -/
def signalLost (l : Nat) (p : Part) : Part :=
  if rxSt p l = laneFramed ∨ rxSt p l = laneReady then
    if ((lane p l).slp.map fun n => decide (n < 4)).getD false then
      let p := setRxSt l laneFarAsleep (setLane l { lane p l with groups := [] } p)
      match linkOf p l with
      | some k => if linkSt p k = stService ∨ linkSt p k = stSleepTx then leaveTo k stSleepRx p else p
      | none => p
    else syncLoss l p
  else p

/-- LOSS_OF_SIGNAL (R284). -/
def execLossOfSignal (l : Fin 28) (s : State) : Outcome := run (signalLost l.val) s

/-- A lane that slept hunts with what it kept, and its link deskews anew; or it begins bring-up again where it had not
completed it (R291, R293). -/
def wakeLane (l : Nat) (p : Part) : Part :=
  if (lane p l).trained then
    let p := match linkOf p l with | some k => setLink k { link p k with deskewed := false } p | none => p
    setRxSt l laneHunt (setLane l { (lane p l).fresh p.clk.rp with wake := true } p)
  else startLane (linkFor p l) l p

/-- SIGNAL_RETURN (R293). -/
def execSignalReturn (l : Fin 28) (s : State) : Outcome :=
  run (fun p => if rxSt p l = laneFarAsleep then wakeLane l.val p else p) s

/-- MAIN_PATH_RETRY (R287): 10 ms after a failure in mode 1. -/
def mainRetry (l : Nat) (p : Part) : Part :=
  match (lane p l).retry with
  | some t =>
    let p := advanceRp (t + 10 * msRp) p
    forEach (mates p l) (fun m q => if (lane q m).retry.isSome then startLane (linkOf q m) m q else q) p
  | none => p

/-- MAIN_PATH_RETRY (R287). -/
def execMainPathRetry (l : Fin 28) (s : State) : Outcome := run (mainRetry l.val) s

/-! ### The equaliser (R269) -/

/-- The product of eye width and height at a code. -/
def eyeArea (eyes : List (Nat × Nat)) (c : Nat) : Nat := let e := eyes.getD c (0, 0); e.1 * e.2

/-- The codes of a list with the largest product. -/
def bestCodes (eyes : List (Nat × Nat)) (cs : List Nat) : List Nat :=
  let m := cs.foldl (fun a c => max a (eyeArea eyes c)) 0
  cs.filter fun c => eyeArea eyes c == m

/-- The codes of the first pass: 0, 4, 8 up to 36. -/
def coarseCodes : List Nat := (List.range 10).map (4 * ·)

/-- The scan: the best coarse code, then the codes within 3 of it; among equal products the one kept is a free value
(R269). -/
def scanCode (eyes : List (Nat × Nat)) (p : Part) : Nat × Part :=
  let pick := fun (cs : List Nat) (q : Part) =>
    if cs.length ≤ 1 then (cs.headD 0, q) else let d := drawFree q; (cs.getD (d.1 % cs.length) 0, d.2)
  let (b, p) := pick (bestCodes eyes coarseCodes) p
  pick (bestCodes eyes (b :: (List.range 37).filter fun c => c != b && decide (c ≤ b + 3 ∧ b ≤ c + 3))) p

/-- A follower's lanes are READY: framed, deskewed, their equalisers chosen, done acknowledged, and all of them on LREF with LT
clear (R284, R289). -/
def followerDone (k : Nat) (p : Part) : Part :=
  if 16 ≤ k ∧ allIn p k laneFramed = true ∧ (link p k).deskewed = true ∧
      ((link p k).lanes.all fun m => (lane p m).step == 3 && (lane p m).eqDone && !(lane p m).trained && rd p (0x5020 + m) 4 == 0) = true then
    completeLink k p
  else p

/-- The equaliser's code is chosen: by the scan, or the fixed one (R269). `eyes` is what a measurement of each code
from 0 to 36 finds. -/
def equaliser (l : Nat) (eyes : List (Nat × Nat)) (p : Part) : Part :=
  let x := lane p l
  if rxSt p l = laneFramed ∧ !x.eqDone ∧ (!x.trained ∨ x.joining) then
    let (c, p) := if x.cfg.eqMode = 1 then (x.cfg.eqCode, p) else scanCode eyes p
    let e := eyes.getD c (0, 0)
    let p := wr (0x5020 + l) 0xA (e.2 % 256) (wr (0x5020 + l) 9 (e.1 % 64) (wr (0x5020 + l) 8 c p))
    let p := setLane l { lane p l with eqDone := true } { p with eqAt := tput none p.eqAt (8 * l + rd p (0x5020 + l) 3) (some c) }
    match linkOf p l with | some k => followerDone k p | none => p
  else p

/-- EQUALISER_SCAN_DONE (R269). -/
def execEqualiserScanDone (l : Fin 28) (eyes : List (Nat × Nat)) (s : State) : Outcome := run (equaliser l.val eyes) s

/-! ### Training (R286 to R289) -/

/-- A lane may take a step of bring-up from training words: it is FRAMED, not yet trained, sends, is in a link, and the far
end has the other role (R521). -/
def trains (p : Part) (l : Nat) (t : Training) : Bool :=
  rxSt p l == laneFramed && !(lane p l).trained && txSt p l == txSend && (linkOf p l).isSome && t.follower != follower p l

/-- Both eye reports of a lane meet its climb thresholds (R287, R288). -/
def eyesOk (p : Part) (l : Nat) : Bool :=
  let c := (lane p l).cfg
  let f := fun s => rd p (0x5020 + l) s
  decide (c.eyeWidth ≤ f 9 ∧ c.eyeHeight ≤ f 0xA ∧ c.eyeWidth ≤ f 0xC ∧ c.eyeHeight ≤ f 0xD)

/-- The leader's next step on all lanes of its link. -/
def sendStep (k step rate : Nat) (p : Part) : Part :=
  forEach (link p k).lanes (fun l q => setLane l { lane q l with step, proposed := rate } q) p

/-- The leader compares the announcements: done or a failure on the main path, a proposal or done on the climb
(R287, R288). -/
def decideStep (k : Nat) (p : Part) : Part :=
  let ls := (link p k).lanes
  let l := ls.headD 0
  let r := rd p (0x5020 + l) 3
  if ls.any fun m => (lane p m).climb then
    let up := decide (r < 4) && ls.all fun m =>
      let x := lane p m
      bit x.farRates (r + 1) && decide (r + 1 ≤ x.cfg.hi ∧ r + 1 ≤ x.farHigh) && !bit x.failed (r + 1) && eyesOk p m
    if up then sendStep k 1 (r + 1) p else sendStep k 3 r p
  else if !(ls.all fun m => (lane p m).cfg.hi == r && (lane p m).farHigh == r) then failBringUp ls l 6 p
  else if !(ls.all (eyesOk p)) then failBringUp ls l 7 p
  else sendStep k 3 r p

/-- An announcement is received (R287): when every lane of a leader's link has one, and its equalisers and deskew are
done, the leader decides. -/
def announced (l : Nat) (t : Training) (p : Part) : Part :=
  if trains p l t && t.step == 0 then
    let p := farEye l t.eyeWidth t.eyeHeight p
    let p := setLane l { lane p l with far := true, farHigh := t.highest, farRates := t.rates } p
    match linkOf p l with
    | some k =>
      if k < 16 ∧ (link p k).deskewed = true ∧ allIn p k laneFramed = true ∧
          ((link p k).lanes.all fun m => (lane p m).far && (lane p m).eqDone && (lane p m).step == 0) = true then decideStep k p else p
    | none => p
  else p

/-- What a command does with the training words it carries (R286). -/
def withTraining (ws : List Nat) (f : Training → Part → Part) (p : Part) : Part :=
  match trainingFields ws with
  | some t => f t p
  | none => p

/-- TRAINING_ANNOUNCE (R287). -/
def execTrainingAnnounce (l : Fin 28) (ws : List Nat) (s : State) : Outcome := run (withTraining ws (announced l.val)) s

/-- A follower acknowledges a proposal (R288). -/
def proposed (l : Nat) (t : Training) (p : Part) : Part :=
  if trains p l t && t.step == 1 && follower p l then setLane l { lane p l with step := 1, proposed := t.proposed, prev := none } p else p

/-- TRAINING_PROPOSE (R288). -/
def execTrainingPropose (l : Fin 28) (ws : List Nat) (s : State) : Outcome := run (withTraining ws (proposed l.val)) s

/-- The leader receives the acknowledge of its proposal, and sends switch with a sequence 16 groups ahead (R288). How many training
groups have left since the last marker group is a free value (R272, log 110). -/
def acknowledged (l : Nat) (t : Training) (p : Part) : Part :=
  let x := lane p l
  if trains p l t && t.ack && t.step == 1 && !follower p l && x.step == 1 then
    match linkOf p l with
    | some k =>
      let (d, p) := drawFree p
      let c := (link p k).txSet + d % (1024 - (link p k).txSet % 1024)
      let p := setLink k { link p k with txSet := c, txPos := 0 } p
      forEach (link p k).lanes (fun m q => setLane m { lane q m with step := 2, switchSeq := (c + 16) % 4096 } q) p
    | none => p
  else p

/-- TRAINING_ACKNOWLEDGE (R288). -/
def execTrainingAcknowledge (l : Fin 28) (ws : List Nat) (s : State) : Outcome := run (withTraining ws (acknowledged l.val)) s

/-- The lanes of a link retune to the proposed rate after the switch sequence, and their counters restart (R272, R288). -/
def retune (k rate : Nat) (p : Part) : Part :=
  let p := forEach (link p k).lanes (fun m q =>
    let x := lane q m
    hunt m rate { cfg := x.cfg, climb := true, failed := x.failed, prev := some (rd q (0x5020 + m) 3) } q) p
  setLink k { link p k with deskewed := false } p

/-- The switch step: a follower has received it, or a leader has sent it through its sequence; both retune (R288). -/
def switched (l : Nat) (t : Training) (p : Part) : Part :=
  match linkOf p l with
  | some k =>
    if follower p l then
      if trains p l t && t.step == 2 then retune k t.proposed p else p
    else if rxSt p l = laneFramed ∧ (lane p l).step = 2 then retune k (lane p l).proposed p else p
  | none => p

/-- TRAINING_SWITCH (R288). -/
def execTrainingSwitch (l : Fin 28) (ws : List Nat) (s : State) : Outcome := run (withTraining ws (switched l.val)) s

/-- CLIMB_SWITCH_TIMEOUT (R288): not FRAMED within 1 ms of the switch. -/
def execClimbSwitchTimeout (l : Fin 28) (s : State) : Outcome :=
  run (fun p => match (lane p l).prev with
    | some r => if rxSt p l = laneHunt ∧ txSt p l ≠ txSleep then climbBack l r (advanceRp ((lane p l).since + msRp) p) else p
    | none => p) s

/-- A done step: a follower acknowledges it and slews to LREF, or stays loop-timed where the hold is set; a leader whose
hold is set has its acknowledge (R289, R326). -/
def doneStep (l : Nat) (t : Training) (p : Part) : Part :=
  match linkOf p l with
  | some k =>
    if trains p l t && t.step == 3 && (follower p l || (t.ack && (lane p l).step == 3)) then
      let hold := (link p k).hold
      let p := setLane l { lane p l with step := 3, prev := none } p
      if hold then (if linkSt p k = stTrain then setLinkSt k stLooptimed p else p)
      else if follower p l then wr (0x5020 + l) 4 2 p else p
    else p
  | none => p

/-- TRAINING_DONE (R289). -/
def execTrainingDone (l : Fin 28) (ws : List Nat) (s : State) : Outcome := run (withTraining ws (doneStep l.val)) s

/-- A follower's transmitter has slewed to LREF and clears LT; when every lane of its link has, they are READY (R289). -/
def slewed (l : Nat) (p : Part) : Part :=
  if rd p (0x5020 + l) 4 = 2 then
    let p := wr (0x5020 + l) 4 0 p
    match linkOf p l with | some k => followerDone k p | none => p
  else p

/-- SLEW_COMPLETE (R289). -/
def execSlewComplete (l : Fin 28) (s : State) : Outcome := run (slewed l.val) s

/-! ### Sleep (R292, R293, R329) -/

/-- An abandonment for each view's fragment in progress, sent in the last four groups (R303, R329). -/
def sendAbandons (k : Nat) (p : Part) : Part :=
  let vs := (List.range 4).filter fun v => match (out p v).sending with | some s => s.link == k | none => false
  if vs.isEmpty then p else setLink k { link p k with sent := vs.map fun v => fw (2 ^ 16 + v * 2 ^ 14 + 2 ^ 12 + 2 ^ 10) } p

/-- The link of lanes that sleep leaves SERVICE (R326, R329). -/
def linkSleeps (l st : Nat) (p : Part) : Part :=
  match linkOf p l with
  | some k => if linkSt p k = stService ∨ linkSt p k = stSleepTx then leaveTo k st (onlyIf (st == stSleepTx) (sendAbandons k) p) else p
  | none => p

/-- Both directions of a link are awake and its lanes READY: the handshake begins again (R326). -/
def linkAwake (l : Nat) (p : Part) : Part :=
  match linkOf p l with
  | some k =>
    if (linkSt p k = stSleepTx ∨ linkSt p k = stSleepRx) ∧ allIn p k laneReady = true ∧ ((link p k).lanes.all fun m => txSt p m == txSend) = true then
      beginHandshake k (replayRestart k p)
    else p
  | none => p

/-- A lane's place in its link, and the lane's width code, as its transmitter sends them (R271, R278). -/
def txIndex (p : Part) (l : Nat) : Nat := match linkOf p l with | some k => (link p k).lanes.idxOf l | none => 0
def txWidth (p : Part) (l : Nat) : Nat := match linkOf p l with | some k => widthCode (link p k).lanes.length | none => 0

/-- The header of a group that a lane sends, with the group's counter (R271, R272, R285). -/
def sentHeader (p : Part) (l ctr : Nat) (slp : Bool) : GroupHeader :=
  { idx := txIndex p l, width := txWidth p l, kind := if ctr % 1024 = 0 then 1 else if (lane p l).trained then 0 else 2, slp,
    lt := rd p (0x5020 + l) 4 != 0, seq := ctr % 4096 }

/-- A transmitter goes to sleep: one that sends first sends four groups with SLP = 1 (R292). Their time is not counted (log 4). -/
def sleepTx (ls : List Nat) (p : Part) : Part :=
  let first := fun (q : Part) l => txCounter q l + (match linkOf q l with | some k => if (link q k).txPos = 0 then 0 else 1 | none => 0)
  let p := forEach ls (fun l q => if txSt q l = txSend then
      setLane l { lane q l with heads := (List.range 4).map fun i => (sentHeader q l (first q l + i) true).unit } q else q) p
  let ends := (ls.filter fun l => txSt p l == txSend).map fun l => (l, first p l + 4)
  let p := forEach ends (fun e => setCounter e.1 e.2) p
  forEach ls (fun l q => if txSt q l = txSend ∨ txSt q l = txSilent then setTxSt l txSleep q else q) p

/-- A sleep request takes effect on every lane of its link: the OR of the requests of all of them (R292). -/
def sleepActs (l : Nat) (p : Part) : Part :=
  if underTest p l || ethernet p l then p
  else
    let m := (spareOf p l).getD l
    let ls := sleepers p m
    let tx := asleep p m 0
    let rx := asleep p m 1
    let p := if tx ∧ (ls.any fun n => txSt p n == txSend || txSt p n == txSilent) = true then
        sleepTx ls (linkSleeps m stSleepTx p)
      else p
    let p := if rx ∧ (ls.any fun n => rxSt p n != laneDown && rxSt p n != laneBypassed && rxSt p n != laneSleepRx) = true then
        let p := linkSleeps m stSleepRx p
        forEach ls (fun n q => if rxSt q n = laneDown ∨ rxSt q n = laneBypassed then q else setRxSt n laneSleepRx (setLane n { lane q n with groups := [], retry := none } q)) p
      else p
    let p := if !tx then forEach ls (fun n q =>
        if txSt q n ≠ txSleep then q
        else if (lane q n).trained ∨ rxSt q n = laneDown then startTx n q
        else startLane (linkFor q n) n q) p else p
    let p := if !rx then forEach ls (fun n q => if rxSt q n = laneSleepRx then wakeLane n q else q) p else p
    linkAwake m p

/-- LANE_SLEEP_REQUEST (R292). -/
def execLaneSleepRequest (rq : Rq) (l : Fin 28) (v : Nat) (s : State) : Outcome :=
  runCtl (ownWrite rq (0x5000 + l) 9 v fun _ => sleepActs l.val) s

/-! ### Spares (R294, R295) -/

/-- A running lane test ends with a status and a cause (R520). -/
def endTest (l status cause : Nat) (p : Part) : Part :=
  if underTest p l then
    noteRate (wr (0xA010 + l) 0xB 0 (wr (0xA010 + l) 7 cause (wr (0xA010 + l) 6 status { p with tests := tput {} p.tests l {} })))
  else p

/-- A lane joins a link that has completed bring-up, in the place of another whose record and rate it takes: it hunts as a lane
that returns to HUNT, and its equaliser code is chosen anew; it sends from LREF (R291, R295; DEDUCED, log 111). -/
def joinLane (l rate idx width : Nat) (x : Lane) (p : Part) : Part :=
  let p := setLane l (({ cfg := x.cfg, trained := true, joining := true, since := p.clk.rp } : Lane).keepSent (lane p l)) p
  let p := wr (0x5020 + l) 7 width (wr (0x5020 + l) 6 idx (wr (0x5020 + l) 4 0 (wr (0x5020 + l) 3 rate p)))
  let p := setRxSt l (if asleep p l 1 then laneSleepRx else laneHunt) p
  if asleep p l 0 then setTxSt l txSleep p else startTx l p

/-- Lane `taker` takes the place of lane `src` in the link that has it, and `src` goes to DOWN (R295). -/
def replaceLane (src taker : Nat) (p : Part) : Part :=
  let x := lane p src
  let at_ := fun s => rd p (0x5020 + src) s
  let (rate, idx, width) := (at_ 3, at_ 6, at_ 7)
  match linkOf p src with
  | none =>
    let p := if underTest p src then p else stopLane src p
    enableActs taker p
  | some k =>
    let p := markOut k p
    let p := if underTest p src then p else stopLane src p
    let p := setLink k { link p k with lanes := (link p k).lanes.map fun l => if l = src then taker else l } p
    let p := forEach (link p k).lanes (fun m q =>
      let q := setLane m { lane q m with groups := [] } q
      if rxSt q m = laneReady then setRxSt m laneFramed q else q) p
    if !laneUsable p taker || underTest p taker then settleLink k p
    else if linkSt p k = stDown ∨ linkSt p k = stBypassed then settleLink k p
    else if x.trained then joinLane taker rate idx width x p
    else forEach (link p k).lanes (fun m q => if m = taker then startLane (some k) m q else repeatBringUp m q)
      (setLink k { link p k with deskewed := false } p)

/-- One half of the sparing map changes: the old mapping is removed and the new one made (R295). -/
def spareChanges (spare old new : Nat) (p : Part) : Part :=
  if old = new then p
  else
    let p := onlyIf (new != 0xFF) (endTest spare 4 4) p
    let p := if old = 0xFF then stopLane spare p else replaceLane spare old p
    if new = 0xFF then p else replaceLane new spare p

/-- The sparing map takes effect (R295). -/
def sparingActs (old : Nat) (p : Part) : Part :=
  let new := rd p 0x5070 1
  spareChanges 0x1B (bits old 15 8) (bits new 15 8) (spareChanges 0x1A (bits old 7 0) (bits new 7 0) p)

/-- SPARING_MAP_WRITE (R295). -/
def execSparingMapWrite (rq : Rq) (v : Nat) (s : State) : Outcome :=
  runCtl (ownWrite rq 0x5070 1 v sparingActs) s

/-! ### The bypass retimer (R296, R297, R504) -/

/-- What engages the retimer, as 5078h.02 reports it. -/
def bypassState (p : Part) : Nat := if p.pow.bypass then 1 else if rd p 0x5078 1 = 1 then 2 else 0

/-- The retimer is engaged: D0 and A0 are BYPASSED, and their links are broken (R296, R520). -/
def engage (p : Part) : Part :=
  let was := rxSt p 0 == laneBypassed
  let p := wr 0x5078 2 (bypassState p) p
  if was then p
  else
    let p := forEach [0, 16] (fun l q => setTxSt l txBypassed (setRxSt l laneBypassed (setLane l {} (endTest l 4 3 q)))) p
    forEach [0, linkA] (fun k q => leaveTo k stBypassed q) p

/-- The retimer is released once nothing engages it: the links of D0 and A0 go to DOWN, and bring-up follows where
their lanes are enabled (R296, R326). -/
def disengage (p : Part) : Part :=
  let p := wr 0x5078 2 (bypassState p) p
  if bypassOn p || rxSt p 0 != laneBypassed then p
  else
    let p := wr 0x5078 5 0xFF (wr 0x5078 4 0xFF (wr 0x5078 3 0 p))
    let p := forEach [0, 16] (fun l q => stopLane l q) p
    let p := forEach [0, linkA] (fun k q => setLinkSt k stDown (setLink k { link q k with lanes := [], deskewed := false, notReady := none, helloAt := none } q)) p
    forEach [0, linkA] settleLink p

/-- BYPASS_N acts in reset too, where nothing but its level is held (R504). -/
def pinRun (f : Part → Part) (s : State) : Outcome := lift (fun p => if p.pow.phase = .inReset then p else f p) s

/-- BYPASS_ENGAGE (R296): BYPASS_N goes low, or 1 is written to 5078h.01. -/
def execBypassEngage (pin : Bool) (rq : Rq) (s : State) : Outcome :=
  if pin then pinRun engage { s with part := { s.part with pow := { s.part.pow with bypass := true } } }
  else runCtl (ownWrite rq 0x5078 1 1 fun _ => engage) s

/-- BYPASS_RELEASE (R296): BYPASS_N goes high, or 0 is written to 5078h.01. -/
def execBypassRelease (pin : Bool) (rq : Rq) (s : State) : Outcome :=
  if pin then pinRun disengage { s with part := { s.part with pow := { s.part.pow with bypass := false } } }
  else runCtl (ownWrite rq 0x5078 1 0 fun _ => disengage) s

/-- RETIMER_LOCK (R297): one direction locks at a rate; `a0ToD0` is the direction from A0 to D0. The retimer works in
reset too. -/
def execRetimerLock (a0ToD0 : Bool) (rate : Fin 5) (s : State) : Outcome :=
  lift (fun p => if bypassOn p then
    wr 0x5078 (if a0ToD0 then 5 else 4) rate.val (wr 0x5078 3 (setBit (rd p 0x5078 3) a0ToD0.toNat) p) else p) s

/-- RETIMER_LOCK_LOSS (R297). -/
def execRetimerLockLoss (a0ToD0 : Bool) (s : State) : Outcome :=
  lift (fun p => if bypassOn p then
    wr 0x5078 (if a0ToD0 then 5 else 4) 0xFF (wr 0x5078 3 (clrBit (rd p 0x5078 3) a0ToD0.toNat) p) else p) s

/-! ### Ethernet mode (R266) -/

/-- A change of mode restarts X0 or X1 (R266, R520). -/
def ethernetActs (x old : Nat) (p : Part) : Part :=
  let l := 0x18 + x
  let new := rd p 0x5080 (x + 1)
  if old = new then p
  else
    let p := if new ≠ 0 then endTest l 4 2 p else p
    let p := wr 0x5080 (x + 3) 0 p
    let p := noteRate (stopLane l p)
    if laneUsable p l then startLane none l p else p

/-- ETHERNET_MODE_WRITE (R266). -/
def execEthernetModeWrite (rq : Rq) (x : Fin 2) (mode : Nat) (s : State) : Outcome :=
  runCtl (ownWrite rq 0x5080 (x + 1) mode fun old => ethernetActs x.val old) s

/-- ETHERNET_LINK_UP (R266). -/
def execEthernetLinkUp (x : Fin 2) (s : State) : Outcome :=
  run (fun p => if ethernet p (0x18 + x) then wr 0x5080 (x + 3) 1 p else p) s

/-- ETHERNET_LINK_DOWN (R266). -/
def execEthernetLinkDown (x : Fin 2) (s : State) : Outcome :=
  run (fun p => if ethernet p (0x18 + x) then wr 0x5080 (x + 3) 0 p else p) s

end Sys2Proof.Machine
end

