-- ==== Sys2Proof/Machine/Links.lean ====
section
/-! DEFINITION. The link protocol, receiving: retrains, group sets and their replay, acknowledgements and credit returns
(R300 to R307, R319 to R325). -/
namespace Sys2Proof.Machine

/-! ### Retrains (R325, R326) -/

/-- A link retrains: RETRAIN is sent in four group sets, SERVICE is left with its losses, and bring-up begins again
(R325, R326, R328). -/
def retrain (k cause : Nat) (p : Part) : Part :=
  let s := linkSt p k
  if s = stDown ∨ s = stBypassed then p
  else
    let p := wr (0x5100 + k) 5 cause (bump (0x5120 + k) 5 p)
    let p := restartLink k p
    let w := 0xF2000 + cause
    let p := setLink k { link p k with sent := [fw w, fw w, fw w, fw w], retrainAt := some p.clk.rp } p
    { p with svc := { p.svc with lastRetrain := some p.clk.rp } }

/-- RETRAIN_RECEIVED (R325). -/
def execRetrainReceived (k : Fin 18) (s : State) : Outcome := run (retrain k.val 6) s

/-- RETRAIN_REQUEST (R325). -/
def execRetrainRequest (rq : Rq) (k : Fin 18) (s : State) : Outcome :=
  runCtl (ownWrite rq (0x5100 + k) 4 1 fun _ => retrain k.val 7) s

/-- ACK_TIMEOUT (R325): sequenced words held for 1 ms without an ACK. -/
def execAckTimeout (k : Fin 18) (s : State) : Outcome :=
  run (fun p => if (link p k).held.isEmpty then p else retrain k.val 3 (advanceRp ((link p k).heldAt + msRp) p)) s

/-- REPLAY_TIMEOUT (R325): 1 ms after a NAK without the matching REPLAY. -/
def execReplayTimeout (k : Fin 18) (s : State) : Outcome :=
  run (fun p => match (link p k).nak with
    | some _ => retrain k.val 4 (advanceRp ((link p k).nakAt + msRp) p)
    | none => p) s

/-- LANE_NOT_READY_TIMEOUT (R325): a lane out of READY for more than 100 µs. -/
def execLaneNotReadyTimeout (k : Fin 18) (s : State) : Outcome :=
  run (fun p => match (link p k).notReady with
    | some t => if linkSt p k = stService ∨ linkSt p k = stTrain ∨ linkSt p k = stIsolated then retrain k.val 5 (advanceRp (t + 100 * usRp + 1) p) else p
    | none => p) s

/-! ### Group sets received (R319 to R323) -/

/-- Words of a packet by its header: all of them, and how many of them are payload or control words that R322 counts;
none where the kind is not used or a reserved field of a sequenced header is not zero (R300, R320). -/
def packetSize (h : Nat) : Option (Nat × Nat) :=
  match bits h 19 16 with
  | 0 => some (1, 0)
  | 1 => some (1 + bits h 9 0, bits h 9 0)
  | 2 => if bits h 8 0 = 0 then some (6, 6) else none
  | 3 => if bits h 7 0 = 0 then some (8, 8) else none
  | 4 => some (1 + 2 * popcount 4 (bits h 15 12), 0)
  | 5 => if bits h 11 5 = 0 then some (1 + bits h 4 0, 1 + bits h 4 0) else none
  | 6 => if bits h 15 0 = 0 then some (15, 15) else none
  | 7 => some (1 + bits h 9 0, bits h 9 0)
  | 15 => some (if bits h 15 12 = 1 then 2 else 1, 0)
  | _ => none

/-- Packets of a header's kind are frame fragments, and are sequenced (R300). -/
def isFragment (h : Nat) : Bool := let k := bits h 19 16; k == 1 || k == 7
def isSequenced (h : Nat) : Bool := let k := bits h 19 16; k == 1 || k == 2 || k == 3 || k == 5 || k == 6 || k == 7

/-- Words of a poison list by its first word (R304). -/
def listWords (w : Nat) : Nat := 1 + bits w 19 10 / 2

/-- What the words of a group set hold (R320): its sequenced words, each with whether R322 counts it; the FILLs in it;
whether a header is defective, and whether its kind is one not used; and where the parse stands at its end. What follows a
header that fails is not read: its boundaries are not known. -/
structure Parsed where
  words : List (Nat × Bool) := []
  fills : Nat := 0
  bad : Bool := false
  unused : Bool := false
  ends : Parse := {}
  deriving DecidableEq, Repr, Inhabited

/-- Parse the units of a group set in order. -/
def parseWords : List Nat → Parse → Parsed
  | [], s => { ends := s }
  | u :: t, s =>
    let w := u % 2 ^ 20
    if s.more ≠ 0 then
      let r := parseWords t { s with more := s.more - 1, counted := s.counted - 1 }
      if s.seqd then { r with words := (u, decide (s.counted ≠ 0)) :: r.words } else r
    else if s.list then
      let r := parseWords t { more := listWords w - 1, seqd := true }
      { r with words := (u, false) :: r.words }
    else if !unitOk u then { bad := true, ends := s }
    else match packetSize w with
      | none => { bad := true, unused := decide (8 ≤ bits w 19 16), ends := s }
      | some (n, c) =>
        let seqd := isSequenced w
        let ctl := seqd && !isFragment w
        let r := parseWords t { more := n - 1, counted := if ctl then c - 1 else c, seqd, list := bits w 19 16 == 7 }
        if seqd then { r with words := (u, ctl) :: r.words }
        else if w = 0 then { r with fills := r.fills + 1 } else r

/-- The words of a set taken as it stands (R323), each with whether R322 counts it: up to the first packet header that
failed. -/
def takeAsIs : List Nat → Parse → List (Nat × Bool)
  | [], _ => []
  | u :: t, s =>
    let w := u % 2 ^ 20
    if s.more ≠ 0 then
      let r := takeAsIs t { s with more := s.more - 1, counted := s.counted - 1 }
      if s.seqd then (u, decide (s.counted ≠ 0)) :: r else r
    else if s.list then (u, false) :: takeAsIs t { more := listWords w - 1, seqd := true }
    else if !unitOk u then []
    else match packetSize w with
      | none => []
      | some (n, c) =>
        let ctl := isSequenced w && !isFragment w
        let r := takeAsIs t { more := n - 1, counted := if ctl then c - 1 else c, seqd := isSequenced w, list := bits w 19 16 == 7 }
        if isSequenced w then (u, ctl) :: r else r

/-- Words delivered from a set, the first `left` counted ones tagged REPLAYED, and one that failed parity POISONED (R322,
R323). -/
def tagWords : List (Nat × Bool) → (left : Nat) → List FWord × Nat
  | [], left => ([], left)
  | (u, c) :: t, left =>
    let r := tagWords t (if c then left - 1 else left)
    ((if unitOk u then { data := BitVec.ofNat 20 u, replayed := c && left != 0 } else poisonWord) :: r.1, r.2)

/-- The lanes of a link in the order of the index each received (R278, R279). -/
def byIndex (p : Part) (k : Nat) : List Nat :=
  (List.range 4).flatMap fun i => (link p k).lanes.filter fun l => rd p (0x5020 + l) 6 == i

/-- A unit that fails parity. -/
def badUnit : Nat := 1

/-- The link words of a group set: word j comes from lane j mod w (R278). -/
def joinLanes (gs : List RxGroup) : List Nat :=
  let n := gs.foldl (fun a g => max a g.units.length) 0
  let n := if n = 0 then 256 else n
  (List.range n).flatMap fun j => gs.map fun g => g.units.getD j badUnit

/-- The ACK and NAK words (R314). -/
def ackWord (seq : Nat) : Nat := 0xF0000 + seq % 4096
def nakWord (attempt seq : Nat) : Nat := 0xF8000 + attempt * 2 ^ 12 + seq % 4096

/-- A set fails: the receiver sends a NAK, and waits for its REPLAY (R322). -/
def sendNak (k g a : Nat) (p : Part) : Part :=
  let p := queueCtl k [nakWord a g] (bump (0x5120 + k) 1 p)
  setLink k { link p k with nak := some (g, a), nakAt := p.clk.rp, redo := none, redoLeft := 0, delivered := [] } p

/-- The eighth failed reception: the set is taken as it stands, from where the parse stood before it, and the link retrains
(R323). -/
def retryBound (k g : Nat) (us : List Nat) (s : Parse) (p : Part) : Part :=
  let ws := takeAsIs us s
  let p := bumpBy (ws.filter fun u => !unitOk u.1).length (0x5120 + k) 4 p
  let d := (tagWords ws (link p k).redoLeft).1
  let p := retrain k 1 (setLink k { link p k with redo := none, redoLeft := 0 } p)
  setLink k { link p k with delivered := d, sent := fw (ackWord g) :: (link p k).sent } p

/-- The elastic buffer passes a set (R281): `drift` words more or fewer came than its clock took. Counts are on the
lane with index 0; an empty or full buffer is a lane fault. -/
def elasticPass (k : Nat) (drift : Int) (fills : Nat) (p : Part) : Part × Bool :=
  let x := link p k
  let c := 0x5040 + (byIndex p k).headD 0
  let n := ((x.elastic : Int) + drift).toNat
  if n = 0 ∨ 64 ≤ n then (setLink k { x with elastic := 32 } (bump c 0xA p), true)
  else if 40 < n then
    let d := min fills (n - 40)
    (setLink k { x with elastic := n - d } (bumpBy d c 9 p), false)
  else if n < 24 then
    let d := min fills (24 - n)
    (setLink k { x with elastic := n + d } (bumpBy d c 8 p), false)
  else (setLink k { x with elastic := n } p, false)

/-- A set's units of one lane go into the lane's receive FIFO (R58, R61). -/
def fillLane (e : Nat × List Nat) (p : Part) : Part :=
  if h : e.1 < 28 then fifoPutAll (.laneRx ⟨e.1, h⟩) (e.2.map fun u => (BitVec.ofNat 21 u, .normal)) p else p

/-- Units of a lane's receive FIFO are read by the core until `left` stay (R58). -/
def drainLane (e : Nat × Nat) (p : Part) : Part :=
  if h : e.1 < 28 then drainTo (.laneRx ⟨e.1, h⟩) e.2 p else p

/-- Units that a lane's receive FIFO has no place for (R58). -/
def refusedBy (p : Part) (e : Nat × List Nat) : Nat :=
  if h : e.1 < 28 then (fifo p (.laneRx ⟨e.1, h⟩)).q.length + e.2.length - 512 else 0

/-- A complete group set is checked (R320): its words go through the lane receive FIFOs, and its sequenced words are delivered and
acknowledged, or the set fails. `unread` units are still in the FIFO of each lane, by lane index, as the set comes; words that a
FIFO has no place for are refused and counted, and their set fails (R58). -/
def groupSet (k : Nat) (drift : Int) (unread : List Nat) (p : Part) : Part :=
  let ls := byIndex p k
  if !allIn p k laneReady || (ls.any fun l => (lane p l).groups.isEmpty) then p
  else
    let gs := ls.filterMap fun l => (lane p l).groups.head?
    let p := forEach ls (fun l q => setLane l { lane q l with groups := (lane q l).groups.tail } q) p
    let p := forEach (ls.zip (unread ++ List.replicate 4 0)) drainLane p
    let into := ls.zip (gs.map (·.units))
    let refused := into.foldl (fun a e => a + refusedBy p e) 0
    let p := bumpBy refused 0x1200 8 p
    let p := onlyIf (refused == 0) (forEach into fillLane) p
    let seq := (gs.head?.map (·.seq)).getD 0
    let us := joinLanes gs
    let x := link p k
    let resync := seq % 16 == 0
    let start := if resync then {} else x.parse
    let r := parseWords us start
    let blind := x.blind && !resync
    let (p, fault) := elasticPass k drift (if blind then 0 else r.fills) p
    let p := onlyIf (r.unused && !blind) (bump (0x5120 + k) 9) p
    let x := link p k
    let want := (x.rxSeq.map fun n => (n + 1) % 4096).getD seq
    let good := !fault && refused == 0 && !r.bad && (gs.all fun g => !g.bad && g.seq == seq) && us.all unitOk && seq == want
    let p := setLink k { x with rxSeq := some seq, parse := if good && !blind then r.ends else {}, blind := blind || !good } p
    let x := link p k
    if x.nak.isSome || (blind && good) then p
    else if good then
      let (d, left) := tagWords r.words x.redoLeft
      let done := x.redo.isSome && left == 0
      let p := onlyIf done (bump (0x5120 + k) 3) p
      let p := setLink k { link p k with delivered := d, redoLeft := left, redo := if done then none else x.redo } p
      if d.isEmpty then p else queueCtl k [ackWord seq] p
    else match x.redo with
      | some (g, a) => if 6 ≤ a then retryBound k g us start p else sendNak k g (a + 1) p
      | none => sendNak k want 0 p

/-- GROUP_SET_RECEIVED (R320). -/
def execGroupSetReceived (k : Fin 18) (drift : Int) (unread : List Nat) (s : State) : Outcome :=
  run (groupSet k.val drift unread) s

/-- NAK_REPEAT (R322). -/
def execNakRepeat (k : Fin 18) (s : State) : Outcome :=
  run (fun p => match (link p k).nak with
    | some (g, a) => queueCtl k.val [nakWord a g] p
    | none => p) s

/-- The matching REPLAY arrives: reception resumes, and the first `n` counted words are tagged REPLAYED (R322). -/
def replayReceived (k attempt seq n : Nat) (p : Part) : Part :=
  let x := link p k
  if x.nak = some (seq, attempt) then
    let p := setLink k { x with nak := none, redo := if n = 0 then none else some (seq, attempt), redoLeft := n, parse := {}, blind := false } p
    onlyIf (decide (n = 0)) (bump (0x5120 + k) 3) p
  else p

/-- REPLAY_RECEIVED (R322). -/
def execReplayReceived (k : Fin 18) (attempt seq n : Nat) (s : State) : Outcome :=
  run (replayReceived k.val attempt (seq % 4096) (n % 2048)) s

/-! ### Acknowledgements (R321, R322) -/

/-- The latest counter, not above the set being sent, with this sequence. -/
def counterOf (x : Link) (seq : Nat) : Nat := x.txSet - (x.txSet + 4096 - seq % 4096) % 4096

/-- A set is held by the sender: sent, and not acknowledged (R321, R325). -/
def setHeld (x : Link) (c seq : Nat) : Bool :=
  c % 4096 == seq && (match x.acked with | some a => decide (a < c) | none => true) && decide (c ≤ x.txSet)

/-- The pieces that a replay sent again of the set it answers: the first ones, up to its count of words (R322). -/
def replayedPieces : (n : Nat) → List Held → List Held × List Held
  | _, [] => ([], [])
  | n, h :: t => if h.words.length ≤ n then (fun r => (h :: r.1, r.2)) (replayedPieces (n - h.words.length) t) else ([], h :: t)

/-- An ACK frees every set up to the one it names; one that names a set of which nothing is held is counted (R321). One that names
a set which was replayed frees the words of it (R323). -/
def ackReceived (k seq : Nat) (p : Part) : Part :=
  let x := link p k
  let c := counterOf x seq
  if x.replayed.map (·.1) = some seq then
    let old := x.held.filter fun h => decide (h.set < x.replayFrom)
    let r := replayedPieces x.replayN (x.held.filter fun h => decide (x.replayFrom ≤ h.set))
    let p := freeCells ((old ++ r.1).flatMap (·.cells)) p
    noteHeld k (setLink k { link p k with held := r.2, heldAt := p.clk.rp } p)
  else if setHeld x c seq && x.held.any fun h => h.set == c then
    let p := freeCells ((x.held.filter fun h => decide (h.set ≤ c)).flatMap (·.cells)) p
    noteHeld k (setLink k { x with held := x.held.filter fun h => decide (c < h.set), acked := some c, heldAt := p.clk.rp, replayed := if x.replayFrom ≤ c then none else x.replayed } p)
  else packetDefect k p

/-- ACK_RECEIVED (R321). -/
def execAckReceived (k : Fin 18) (seq : Nat) (s : State) : Outcome := run (ackReceived k.val (seq % 4096)) s

/-- A NAK stops new sequenced packets until the REPLAY at the next resync set; a repeat is ignored, and a set no longer
held retrains the link (R322, R325). -/
def nakReceived (k attempt seq : Nat) (p : Part) : Part :=
  let x := link p k
  if x.replayed = some (seq, attempt) ∨ x.replay = some (seq, attempt) then p
  else if setHeld x (counterOf x seq) seq ∨ x.replayed.map (·.1) = some seq then setLink k { x with replay := some (seq, attempt) } p
  else retrain k 2 p

/-- NAK_RECEIVED (R322). -/
def execNakReceived (k : Fin 18) (attempt : Fin 7) (seq : Nat) (s : State) : Outcome :=
  run (nakReceived k.val attempt.val (seq % 4096)) s

/-! ### Credit returns (R306, R307) -/

/-- The views named by a mask, ascending. -/
def maskViews (mask : Nat) : List Nat := (List.range 4).filter (bit mask)

/-- A grant that would move G - S to 2^31 or above (R307). -/
def grantBad (p : Part) (k v g : Nat) : Bool := decide (2 ^ 31 ≤ subMod 32 g (credit p k v).charged)

/-- A credit return updates each named view's grant, or is a defect (R307); it travels toward the child only (R300). -/
def creditReturn (k mask : Nat) (grants : List Nat) (p : Part) : Part :=
  let vs := maskViews mask
  if k < 16 || !inService p k then bump (0x5120 + k) 9 p
  else if vs.isEmpty || (vs.mapIdx fun i v => grantBad p k v (grants.getD i 0)).any id then packetDefect k p
  else
    let p := forEach (vs.mapIdx fun i v => (v, grants.getD i 0 % 2 ^ 32)) (fun e q => setCredit k e.1 { credit q k e.1 with grant := e.2 } q) p
    noteCredit k p

/-- CREDIT_RETURN_RECEIVED (R307). -/
def execCreditReturnReceived (k : Fin 18) (mask : Nat) (grants : List Nat) (s : State) : Outcome :=
  run (creditReturn k.val mask grants) s

/-- A credit return for all four views waits to be sent (R307). -/
def dueReturn (k : Nat) (p : Part) : Part :=
  let ws := (4 * 2 ^ 16 + 15 * 2 ^ 12) :: (List.range 4).flatMap fun v => toWords 2 (credit p k v).grant
  setLink k { link p k with ret := some ws } p

/-- CREDIT_RETURN_SEND (R307). -/
def execCreditReturnSend (k : Fin 16) (s : State) : Outcome :=
  run (fun p => if inService p k && isBough p then dueReturn k.val p else p) s

end Sys2Proof.Machine
end

