-- ==== Sys2Proof/Machine/LinkSend.lean ====
section
/-! DEFINITION. The link protocol, sending: where packets are placed, which one is next, how fragments are cut, replay,
marker groups and time probes (R35, R236, R301 to R319, R322). -/
namespace Sys2Proof.Machine

/-! ### Word slots (R272, R315) -/

/-- Link words of a group set of `w` lanes: slots 0 to 3 of a marker group carry none (R272). -/
def setWords (w set : Nat) : Nat := 256 * w - (if set % 1024 = 0 then 4 * w else 0)

/-- The width of a link in use. -/
def linkW (x : Link) : Nat := max 1 x.lanes.length

/-- Link words left in the set being sent, and before the next resync set (R315). -/
def roomInSet (x : Link) : Nat := setWords (linkW x) x.txSet - x.txPos
def roomToResync (x : Link) : Nat :=
  (List.range (15 - x.txSet % 16)).foldl (fun a i => a + setWords (linkW x) (x.txSet + 1 + i)) (roomInSet x)

/-- `n` link words by the set that carries them, from a position on; with the position after them. -/
def splitSets : (fuel : Nat) → (w set pos n : Nat) → List (Nat × Nat) × Nat × Nat
  | 0, _, set, pos, _ => ([], set, pos)
  | f + 1, w, set, pos, n =>
    let room := setWords w set - pos
    if n < room then (if n = 0 then ([], set, pos) else ([(set, n)], set, pos + n))
    else
      let r := splitSets f w (set + 1) 0 (n - room)
      ((set, room) :: r.1, r.2)

/-- Words leave on a link: its position moves on, and they are the last packet sent. -/
def emit (k : Nat) (ws : List FWord) (p : Part) : Part :=
  let x := link p k
  let r := splitSets 64 (linkW x) x.txSet x.txPos ws.length
  setLink k { x with txSet := r.2.1, txPos := r.2.2, sent := ws, sinceFill := x.sinceFill + ws.length } p

/-- A FILL leaves (R313). -/
def emitFill (k : Nat) (p : Part) : Part :=
  let p := emit k [fw 0] p
  setLink k { link p k with sinceFill := 0 } p

/-- A FILL must come before `n` more words: one leaves in every 4,096 link words (R281, R313). -/
def fillDue (x : Link) (n : Nat) : Bool := decide (4095 < x.sinceFill + n)

/-- Sequenced words enter the replay buffer (R319). -/
def hold (k : Nat) (hs : List Held) (p : Part) : Part :=
  let x := link p k
  noteHeld k (setLink k { x with held := x.held ++ hs, heldAt := if x.held.isEmpty then p.clk.rp else x.heldAt } p)

/-- A sequenced control packet is sent and held. -/
def emitControl (k : Nat) (ws : List Nat) (p : Part) : Part :=
  let set := (link p k).txSet
  hold k [{ set, words := ws.map fw, size := ws.length }] (emit k (ws.map fw) p)

/-! ### Frame-fragment packets (R301 to R304) -/

/-- Offsets of the poisoned words of a payload. -/
def poisonOffsets (ws : List FWord) : List Nat := (List.range ws.length).filter fun i => (ws.getD i {}).poison

/-- The poison list of a payload (R304). -/
def pairUp : List Nat → List Nat
  | [] => []
  | [a] => [a * 2 ^ 10 + 0x3FF]
  | a :: b :: t => (a * 2 ^ 10 + b) :: pairUp t
def poisonList (ws : List FWord) : List Nat :=
  match poisonOffsets ws with
  | [] => []
  | a :: t => (((a :: t).length * 2 ^ 10 + a) :: pairUp t)

/-- Words of a poison list of `c` entries (R304). -/
def listSize (c : Nat) : Nat := if c = 0 then 0 else 1 + c / 2

/-- The words of a frame-fragment packet: a poisoned word is sent as 00000h in a packet of kind 7 (R301, R304). -/
def fragmentWords (v : Nat) (first last raw abn : Bool) (pay : List FWord) : List FWord :=
  let l := poisonList pay
  let h := (if l.isEmpty then 1 else 7) * 2 ^ 16 + v * 2 ^ 14 + (if first then 2 ^ 13 else 0) + (if last then 2 ^ 12 else 0) + (if raw then 2 ^ 11 else 0) + (if abn then 2 ^ 10 else 0) + pay.length
  fw h :: (pay.map fun w => if w.poison then fw 0 else w) ++ l.map fw

/-- The largest payload, at most `n` words, that one packet takes before the next resync set (R304, R315). -/
def cutTo (room : Nat) (ws : List FWord) : (n : Nat) → Nat
  | 0 => 0
  | n + 1 =>
    let c := (poisonOffsets (ws.take (n + 1))).length
    if c ≤ 16 ∧ 1 + (n + 1) + listSize c ≤ room then n + 1 else cutTo room ws n

/-- The charge of the next `n` words of a fragment of which `sent` have left (R236, R306). -/
def nextCharge (ws : List FWord) (sent n : Nat) : Nat :=
  let whole := decide (ws.length ≤ sent + n)
  fragmentCharge (ws.take (sent + n)) whole - fragmentCharge (ws.take sent) false

/-- A packed fragment's packet ends before the first segment header that the credit does not cover (R236). -/
def cutCredit (ws : List FWord) (sent credit : Nat) : (n : Nat) → Nat
  | 0 => 0
  | n + 1 => if nextCharge ws sent (n + 1) ≤ credit then n + 1 else cutCredit ws sent credit n

/-- The fragment a view has for a link: the one in progress, or the next one ready, where it leaves by that link
(R216, R302). -/
def nextFragment (p : Part) (k v : Nat) : Option Sending :=
  let o := out p v
  match o.sending with
  | some s => if s.link = k then some s else none
  | none => match o.ready with
    | f :: _ => if uplinkFor p v = some k then some { link := k, frag := f, since := f.since } else none
    | [] => none

/-- The most words of a fragment that placement and the replay buffer take in its next packet (R301, R315, R319). -/
def largestNext (x : Link) (s : Sending) : Nat :=
  let rest := s.frag.words.drop s.sent
  cutTo (min (roomToResync x) (4096 - heldWords x)) rest (min 1023 rest.length)

/-- Of `n` words, those that the credit left covers: a packed fragment is cut before a segment that it does not (R236,
R306). -/
def creditCut (s : Sending) (left n : Nat) : Nat :=
  if 2 ^ 31 ≤ left then 0
  else if s.frag.packed then cutCredit s.frag.words s.sent left n
  else if nextCharge s.frag.words s.sent n ≤ left then n else 0

/-- The payload of a view's next packet on a link; 0 where it has none, its credit does not cover it, or the replay
buffer is full (R306, R315, R316, R319). -/
def nextPayload (p : Part) (k v : Nat) : Nat :=
  match nextFragment p k v with
  | none => 0
  | some s => creditCut s (credit p k v).left (largestNext (link p k) s)

/-- The pieces of a fragment packet by group set: payload words go with the set that carries them. -/
def pieces (v : Nat) (raw : Bool) : (sets : List (Nat × Nat)) → (hdr : Nat) → (pay : List FWord) → (first last : Bool) → (cells : List Nat) → List Held
  | [], _, _, _, _, _ => []
  | (set, n) :: t, hdr, pay, first, last, cells =>
    let m := min (n - hdr) pay.length
    let fin := decide (pay.length ≤ m)
    { set, fragment := true, words := pay.take m, view := v, first, last := last && fin, raw, cells := if last && fin then cells else [], size := n } ::
      (if fin then t.map fun e => { set := e.1, fragment := true, words := [], view := v, raw, size := e.2 } else pieces v raw t (hdr - n) (pay.drop m) (first && m == 0) last cells)

/-- Payload is sent as one frame-fragment packet, and held (R301, R319). -/
def emitFragment (k v : Nat) (first last raw : Bool) (cells : List Nat) (pay : List FWord) (p : Part) : Part :=
  let x := link p k
  let ws := fragmentWords v first last raw false pay
  let sets := (splitSets 64 (linkW x) x.txSet x.txPos ws.length).1
  hold k (pieces v raw sets 1 pay first last cells) (emit k ws p)

/-- A fragment's sending begins: its words are read from event memory (R251, R302). -/
def beginFragment (k v : Nat) (p : Part) : Part :=
  let o := out p v
  match o.sending, nextFragment p k v with
  | none, some s =>
    let (ws, p) := fetch (0x0900 + laneOfLink k) (cellAddrs s.frag.cells s.frag.words.length) s.frag.words p
    setOut v { o with ready := o.ready.tail, sending := some { s with frag := { s.frag with words := ws }, since := p.clk.rp } } p
  | _, _ => p

/-- A view's next packet leaves (R302, R303, R306). A Leaf counts the fragment whose last word is sent first now
(3060h + v.01), and frees its cells once that is acknowledged; a Bough frees them now (R150, R214, R232, R328). -/
def sendFragment (k v n : Nat) (p : Part) : Part :=
  match (out p v).sending with
  | none => p
  | some s =>
    let c := nextCharge s.frag.words s.sent n
    let last := decide (s.frag.words.length ≤ s.sent + n)
    let leaf := !isBough p
    let pay := (s.frag.words.drop s.sent).take n
    let p := emitFragment k v (s.sent == 0) last s.frag.raw (if leaf then s.frag.cells else []) pay p
    let p := noteCredit k (charge k v c p)
    let p := setOut v { out p v with sending := if last then none else some { s with sent := s.sent + n, since := p.clk.rp } } p
    if last then (if leaf then bump (0x3060 + v) 1 p else freeCells s.frag.cells p) else p

/-- An abandonment leaves (R303). -/
def sendAbandon (k v : Nat) (p : Part) : Part :=
  let x := link p k
  let p := setLink k { x with abandon := x.abandon.erase v } p
  let ws := fragmentWords v false true false true []
  hold k [{ set := x.txSet, fragment := true, words := [], view := v, last := true, abn := true, size := 1 }] (emit k ws p)

/-! ### Which packet is next (R35, R316) -/

/-- The link may send: its transmitters send, and its lanes are READY, or the link is loop-timed (R300); nothing leaves by lanes
whose clock is stopped (R60). -/
def maySend (p : Part) (k : Nat) : Bool :=
  let ls := (link p k).lanes
  !ls.isEmpty && (ls.all fun l => txSt p l == txSend) &&
    !((link p k).lanes.any fun l => islandStopped p (laneIsland l)) &&
    (allIn p k laneReady || (linkSt p k == stLooptimed && allIn p k laneFramed) || linkSt p k == stSleepRx)

/-- Management may be sent (R300). -/
def mayManage (p : Part) (k : Nat) : Bool :=
  let s := linkSt p k
  s == stTrain || s == stService || s == stIsolated || s == stLooptimed

/-- The first packet of a queue that fits in the words left of the set. -/
def fitting (room : Nat) (q : List (List Nat)) : Option (List Nat) :=
  match q with
  | w :: _ => if w.length ≤ room then some w else none
  | [] => none

/-- A trigger request and a trigger command as packets (R308, R309). -/
def TrigReq.words (r : TrigReq) : List Nat :=
  [2 * 2 ^ 16 + r.mask * 2 ^ 12 + r.outNo * 2 ^ 9] ++ toWords 4 r.time ++ [r.addr]
def TrigCmd.words (c : TrigCmd) : List Nat :=
  [3 * 2 ^ 16 + c.mask * 2 ^ 12 + c.outNo * 2 ^ 8] ++ toWords 4 c.time ++ toWords 2 c.num ++ [c.addr]

/-- At most one management packet begins in any 256 consecutive group sets (R310). -/
def mgmtOk (x : Link) : Bool := match x.mgmtSet with | some s => decide (s + 256 ≤ x.txSet) | none => true

/-- A view's uplink weight (R35). -/
def weight (p : Part) (v : Nat) : Nat := rd p 0x1110 (v + 5)

/-- Of the views with a packet to send, the one served least for its weight; views of weight 0 come last (R35). -/
def chooseView (p : Part) (k : Nat) : Option Nat :=
  let vs := (List.range 4).filter fun v => decide (0 < nextPayload p k v)
  let some_ := vs.filter fun v => decide (0 < weight p v)
  let least := fun (l : List Nat) => l.foldl (fun (b : Option Nat) v => match b with
    | some w => if tget 0 (link p k).served v < tget 0 (link p k).served w then some v else some w
    | none => some v) none
  match least some_ with
  | some v => some v
  | none => vs.head?

/-- A view has been served `n` words; views with nothing they can send, for want of data or of credit, keep pace: the share they
leave unused is not owed to them afterwards (R35, R36). -/
def noteServed (k v n : Nat) (idle : List Nat) (p : Part) : Part :=
  let x := link p k
  let t := tget 0 x.served v + (if weight p v = 0 then 0 else 5040 * n / weight p v)
  let s := (List.range 4).foldl (fun s u =>
    if u = v then tput 0 s u t else if idle.contains u then tput 0 s u (max (tget 0 s u) t) else s) x.served
  setLink k { x with served := s } p

/-- At a packet boundary the sender takes the first ready packet, subject to credit, placement and the replay buffer
(R315, R316, R319). The first packet after a receiver's entry to SERVICE is its credit return (R306). -/
def firstReady (k : Nat) (p : Part) : Part :=
  let x := link p k
  let st := linkSt p k
  let room := roomInSet x
  let seqOk := x.replay.isNone
  let space := fun n => seqOk && decide (heldWords x + n ≤ 4096) && decide (n ≤ room)
  let serv := st == stService
  if serv && x.firstRet then
    match fitting room x.ret.toList with
    | some w => emit k (w.map fw) (setLink k { x with ret := none, firstRet := false } p)
    | none => emitFill k p
  else
  match fitting room x.ctl with
  | some w => emit k (w.map fw) (setLink k { x with ctl := x.ctl.tail } p)
  | none =>
    match (if serv && space 8 then x.cmds.head? else none) with
    | some c => emitControl k c.words (setLink k { x with cmds := x.cmds.tail } p)
    | none =>
    match (if serv && decide (16 ≤ k) && space 6 then x.reqs.head? else none) with
    | some r => emitControl k r.words (setLink k { x with reqs := x.reqs.tail } p)
    | none =>
    match (if carriesTime p k && !islandStopped p 2 && space 15 then x.probes.head? else none) with
    | some w => emitControl k w (setLink k { x with probes := x.probes.tail } p)
    | none =>
    match (if serv && decide (k < 16) then fitting room x.ret.toList else none) with
    | some w => emit k (w.map fw) (setLink k { x with ret := none } p)
    | none =>
    match (if mayManage p k && mgmtOk x && space (x.mgmt.headD []).length then x.mgmt.head? else none) with
    | some w => emitControl k w (setLink k { x with mgmt := x.mgmt.tail, mgmtSet := some x.txSet } p)
    | none =>
    match (if serv && decide (16 ≤ k) && space 1 then x.abandon.head? else none) with
    | some v => sendAbandon k v p
    | none =>
    match (if serv && decide (16 ≤ k) && seqOk then chooseView p k else none) with
    | some v =>
      let idle := (List.range 4).filter fun u => decide (nextPayload p k u = 0)
      let p := beginFragment k v p
      let n := nextPayload p k v
      if n = 0 then emitFill k p else noteServed k v n idle (sendFragment k v n p)
    | none => emitFill k p

/-- The next packet leaves, or a FILL where the packet would leave 4,096 link words without one (R281, R313, R316). -/
def packetSelect (k : Nat) (p : Part) : Part :=
  if maySend p k then
    let q := firstReady k p
    if fillDue (link p k) (link q k).sent.length then emitFill k p else q
  else p

/-- PACKET_SELECT (R316). -/
def execPacketSelect (k : Fin 18) (s : State) : Outcome := run (packetSelect k.val) s

/-! ### Replay (R322) -/

/-- Words of a fragment piece are sent again, cut where a resync set begins (R315, R322). -/
def resend (k : Nat) (h : Held) : (fuel : Nat) → List FWord → Bool → Part → List FWord → Part × List FWord
  | 0, _, _, p, acc => (p, acc)
  | f + 1, ws, first, p, acc =>
    if ws.isEmpty then (p, acc)
    else
      let n := cutTo (roomToResync (link p k)) ws (min 1023 ws.length)
      if n = 0 then
        let x := link p k
        resend k h f ws first (setLink k { x with txSet := (x.txSet / 16 + 1) * 16, txPos := 0, sinceFill := 0 } p) acc
      else if fillDue (link p k) (n + 10) then
        resend k h f ws first (emitFill k p) (acc ++ [fw 0])
      else
        let last := h.last && decide (ws.length ≤ n)
        let p := emitFragment k h.view first last h.raw (if last then h.cells else []) (ws.take n) p
        resend k h f (ws.drop n) false p (acc ++ (link p k).sent)

/-- One held piece is sent again (R322). -/
def resendHeld (k : Nat) (h : Held) (r : Part × List FWord) : Part × List FWord :=
  let p := r.1
  if h.fragment then
    if h.abn then
      let p := emit k (fragmentWords h.view false true false true []) p
      (hold k [{ h with set := (link p k).txSet }] p, r.2 ++ (link p k).sent)
    else resend k h 16 h.words h.first p r.2
  else
    let x := link p k
    let p := if h.words.length ≤ roomInSet x then p else setLink k { x with txSet := x.txSet + 1, txPos := 0, sinceFill := 0 } p
    let due := fillDue (link p k) h.words.length
    let p := emitControl k (h.words.map wv) (onlyIf due (emitFill k) p)
    (p, r.2 ++ (if due then [fw 0] else []) ++ (link p k).sent)

/-- At the next resync set the sender sends REPLAY, and again every sequenced word held from the first word of set g
on (R322). -/
def replaySend (k : Nat) (p : Part) : Part :=
  let x := link p k
  match x.replay with
  | none => p
  | some (g, a) =>
    if !maySend p k then p
    else
      let again := x.replayed.map (·.1) == some g
      let from_ := if again then x.replayFrom else counterOf x g
      let old := x.held.filter fun h => decide (h.set < from_)
      let new := x.held.filter fun h => !decide (h.set < from_)
      let n := if again then x.replayN else (new.filter fun h => h.set == from_).foldl (fun s h => s + h.words.length) 0
      let start := if x.txPos = 0 ∧ x.txSet % 16 = 0 then x.txSet else (x.txSet / 16 + 1) * 16
      let p := bump (0x5120 + k) 2 p
      let p := setLink k { x with held := old, txSet := start, txPos := 0, sinceFill := if start = x.txSet then x.sinceFill else 0, replay := none, replayed := some (g, a), replayFrom := start, replayN := n } p
      let due := fillDue (link p k) 2
      let p := emit k [fw (0xF1000 + g), fw (a * 2 ^ 17 + n)] (onlyIf due (emitFill k) p)
      let (p, ws) := new.foldl (fun r h => resendHeld k h r) (p, (if due then [fw 0] else []) ++ (link p k).sent)
      noteHeld k (setLink k { link p k with sent := ws } p)

/-- REPLAY_SEND (R322). -/
def execReplaySend (k : Fin 18) (s : State) : Outcome := run (replaySend k.val) s

/-! ### The output credit timeout (R217) -/

/-- When a view's fragment that has begun will have waited too long for further credit; none where credit is not what it waits
for. -/
def abandonDue (p : Part) (v : Nat) : Option Nat :=
  match (out p v).sending with
  | some s =>
    let n := largestNext (link p s.link) s
    if s.sent ≠ 0 ∧ n ≠ 0 ∧ creditCut s (credit p s.link v).left n = 0 then some (s.since + outTimeout p v + 1) else none
  | none => none

/-- When the fragment of a view that has been ready longest will have waited too long for its first word. -/
def dropDue (p : Part) (v : Nat) : Option Nat :=
  let begun := match (out p v).sending with | some s => if s.sent = 0 then [s.frag.since] else [] | none => []
  ((begun ++ (out p v).ready.map (·.since)).min?).map fun x => x + outTimeout p v + 1

/-- The fragment of a view that has been ready longest is dropped whole and counted (R217). -/
def dropOldest (v since : Nat) (p : Part) : Part :=
  let o := out p v
  let p := bump (0x4030 + v) 0xB p
  match o.sending.filter fun s => s.sent == 0 && s.frag.since == since with
  | some s => freeCells s.frag.cells (setOut v { o with sending := none } p)
  | none =>
    match o.ready.find? fun f => f.since == since with
    | some f => freeCells f.cells (setOut v { o with ready := o.ready.erase f } p)
    | none => p

/-- A fragment that has begun is abandoned and counted, and its end is to be sent with the abandonment marking (R217, R303). -/
def abandonSending (v : Nat) (p : Part) : Part :=
  match (out p v).sending with
  | some s =>
    let p := freeCells s.frag.cells (setOut v { out p v with sending := none } (bump (0x4030 + v) 0xC p))
    setLink s.link { link p s.link with abandon := (link p s.link).abandon ++ [v] } p
  | none => p

/-- A fragment has waited too long: the one that is first to have done so is abandoned where it has begun and waits for credit,
and dropped whole where it has not begun (R217). -/
def creditTimeout (v : Nat) (p : Part) : Part :=
  if outTimeout p v = 0 then p
  else match abandonDue p v, dropDue p v with
    | some a, some d => if a ≤ d then abandonSending v (advanceRp a p) else dropOldest v (d - outTimeout p v - 1) (advanceRp d p)
    | some a, none => abandonSending v (advanceRp a p)
    | none, some d => dropOldest v (d - outTimeout p v - 1) (advanceRp d p)
    | none, none => p

/-- OUTPUT_CREDIT_TIMEOUT (R217). -/
def execOutputCreditTimeout (v : Fin 4) (s : State) : Outcome := run (creditTimeout v.val) s

/-! ### Marker groups and time probes (R272, R312) -/

/-- A time probe (R312). -/
def probeWords (x : Link) (ctr stamp : Nat) : List Nat :=
  let (c, t) := x.rxMarks.headD (2 ^ 60 - 1, 0)
  [6 * 2 ^ 16] ++ toWords 3 ctr ++ toWords 4 stamp ++ toWords 3 c ++ toWords 4 t

/-- Slot 3 of the marker groups a lane sends: the eye and the equaliser code of the receiver with the same lane index (R272). -/
def eyeReport (p : Part) (l : Nat) : Nat :=
  let m := match linkOf p l with
    | some k => ((link p k).lanes.find? fun m => rd p (0x5020 + m) 6 == txIndex p l).getD l
    | none => l
  let at_ := fun s => rd p (0x5020 + m) s
  at_ 9 % 2 ^ 6 * 2 ^ 14 + at_ 0xA % 2 ^ 8 * 2 ^ 6 + at_ 8 % 2 ^ 6

/-- A lane sends a marker group: its slots 0 to 3 (R272). -/
def markLane (ctr l : Nat) (p : Part) : Part := setLane l { lane p l with marker := toWords 3 ctr ++ [eyeReport p l] } p

/-- The marker group with counter `ctr` departs on the lanes of a link. On link lane 0 it is stamped, and a probe follows it where
the link carries time; the queue of stamps holds 8, a stamp lost from it is an overrun and leaves its probe unsent (R65, R67,
R272, R312, R345). -/
def markerSent (k ctr tap : Nat) (h : Bool) (p : Part) : Part :=
  let x := link p k
  let l := x.lanes.headD 0
  if x.lanes.isEmpty || linkStopped p k || txSt p l != txSend || ctr % 1024 != 0 || decide (ctr < x.txSet) || (ctr == x.txSet && x.txPos != 0) then p
  else
    let t := quadStamp p l tap h
    let x := { x with txSet := ctr % 2 ^ 60, txPos := 0 }
    let p := forEach x.lanes (markLane ctr) (setLink k x p)
    if islandStopped p 2 then p
    else if !carriesTime p k then setLink k { x with txMarks := ((ctr, t) :: x.txMarks).take 16 } p
    else if x.probes.length < 8 then
      setLink k { x with txMarks := ((ctr, t) :: x.txMarks).take 16, probes := x.probes ++ [probeWords x ctr t] } p
    else overrun 2 p

/-- A lane that is in no link sends a marker group (R272). -/
def markerAlone (l ctr : Nat) (p : Part) : Part :=
  if islandStopped p (laneIsland l) || txSt p l != txSend || ctr % 1024 != 0 || decide (ctr < (lane p l).txCtr) then p
  else markLane ctr l (setLane l { lane p l with txCtr := ctr % 2 ^ 60 } p)

/-- MARKER_GROUP_SENT (R312): by the link that the lane is in, or by the lane alone. -/
def execMarkerGroupSent (l : Fin 28) (dt ctr : Nat) (tap : Fin 64) (h : Bool) (s : State) : Outcome :=
  run (fun p => match linkOf p l with
    | some k => markerSent k ctr tap.val h (advance dt p)
    | none => markerAlone l.val ctr (advance dt p)) s

end Sys2Proof.Machine
end

