-- ==== Sys2Proof/Machine/Handshake.lean ====
section
/-! DEFINITION. The handshake of a link, addresses, and the entry to SERVICE (R25 to R27, R326, R327). -/
namespace Sys2Proof.Machine

/-- A child that has not reported is counted from 1,000 ms after its link entered SERVICE (R439). -/
def noteChild (k : Nat) (p : Part) : Part :=
  if (tget none p.svc.crowns k).isSome then p
  else { p with svc := { p.svc with crownFrom := tput none p.svc.crownFrom k (some p.clk.rp) } }

/-- A link enters SERVICE (R306, R326): its credits restart, and a port's first packet is a credit return. -/
def enterService (k : Nat) (p : Part) : Part :=
  let p := onlyIf (p.upd.armed.contains k) trialBreak (setLinkSt k stService p)
  let p := setLink k { link p k with helloAt := none, retrainAt := none } p
  if k < 16 then (if isBough p then
      let p := dueReturn k (creditRestart k p)
      noteChild k (setLink k { link p k with firstRet := true } p)
    else p)
  else noteCredit k (forEach (List.range 4) (fun v q => setCredit k v {} q) p)

/-! ### Addresses (R25 to R27) -/

/-- The address and tier of a child at a position (R25). -/
def childAddr (p : Part) (pos : Nat) : Nat × Nat :=
  let t := rd p 0x1100 2 + 1
  let sh := 16 - 4 * t
  let a := rd p 0x1100 1
  (a - (bits a (sh + 3) sh) * 2 ^ sh + pos % 16 * 2 ^ sh, t)

/-- The parent refuses: the port goes to ISOLATED, and the refusal is counted with its cause (R27). -/
def refuseChild (k cause : Nat) (p : Part) : Part :=
  let p := queueHand k [3 * 2 ^ 16 + cause * 2 ^ 12] p
  let p := wr 0x1100 0xA cause (bump 0x1100 9 p)
  leaveIsolated k 2 p

/-- ASSIGN to a child at a position (R311). -/
def sendAssign (k pos : Nat) (p : Part) : Part :=
  let a := childAddr p pos
  queueHand k [2 * 2 ^ 16 + a.2 * 2 ^ 12, a.1] p

/-- A new address is passed to every child in SERVICE; a child that would lie below tier 4 is refused (R26). -/
def assignDown (p : Part) : Part :=
  if isBough p then
    forEach (List.range 16) (fun k q => match inService q k, (link q k).pos with
      | true, some pos => if 4 ≤ rd q 0x1100 2 then refuseChild k 1 q else sendAssign k pos q
      | _, _ => q) p
  else p

/-- The part takes an address and a tier (R26). -/
def takeAddress (addr tier source : Nat) (p : Part) : Part :=
  let same := rd p 0x1100 1 == addr && rd p 0x1100 2 == tier
  let p := wr 0x1100 3 source (wr 0x1100 2 tier (wr 0x1100 1 addr p))
  if same then p else assignDown p

/-! ### The leader (R327) -/

/-- The fields of a HELLO (R311). -/
structure Hello where
  side : Nat
  live : Bool
  tier : Nat
  ov : Option Nat
  serial : Nat
  addr : Nat
  deriving DecidableEq, Repr, Inhabited

/-- A HELLO read from its payload words (R311). -/
def helloOf (ws : List Nat) : Option Hello :=
  match ws with
  | [a, b, c, d, e] =>
    if bits a 19 16 = 1 then
      some { side := bits a 15 14, live := bit a 9, tier := bits a 12 10, ov := if bit a 8 then some (bits a 7 4) else none, serial := ofWords [b, c, d], addr := e % 2 ^ 20 }
    else none
  | _ => none

/-- Another port of the part to which the same child is assigned (R26). -/
def otherPort (p : Part) (k serial : Nat) : Option Nat :=
  (List.range 16).find? fun j => j != k && (link p j).pos.isSome && rd p (0x5100 + j) 7 == serial && (linkSt p j == stTrain || linkSt p j == stService)

/-- The leader answers a HELLO: ISOLATE while its port is isolated, nothing without an address, REFUSE with a cause of
R27, or ASSIGN (R327, R506). -/
def answerHello (k : Nat) (h : Hello) (p : Part) : Part :=
  let p := wr (0x5100 + k) 8 h.side (wr (0x5100 + k) 7 h.serial p)
  let p := if linkSt p k = stIsolated ∧ isoCause p k ≠ 1 then setLinkSt k stTrain p else p
  let other := otherPort p k h.serial
  let port := match other with | some j => portOf p j | none => k
  if isolated p port then queueHand k [5 * 2 ^ 16 + 1] (if linkSt p k = stIsolated then p else isolate k 1 p)
  else if rd p 0x1100 3 = 0 ∨ linkSt p k ≠ stTrain then p
  else if h.side = 0 ∨ h.side = 3 then refuseChild k 4 p
  else if 4 ≤ rd p 0x1100 2 then refuseChild k 1 p
  else
    let pos := match other with
      | some j => ((link p j).pos).getD j
      | none => h.ov.getD k
    let a := childAddr p pos
    if h.live && (h.addr != a.1 || h.tier != a.2) then refuseChild k 2 p
    else if (List.range 16).any fun j => j != k && inService p j && (link p j).pos == some pos && rd p (0x5100 + j) 7 != h.serial then refuseChild k 3 p
    else
      let p := setLink k { link p k with pos := some pos, companion := other.map (portOf p) |>.filter (· != k) } p
      sendAssign k pos p

/-- A HELLO reaches a leader (R327): in SERVICE it is a repeat and changes nothing. -/
def helloReceived (k : Nat) (ws : List Nat) (p : Part) : Part :=
  match helloOf ws with
  | some h =>
    if isBough p && allIn p k laneReady && linkSt p k != stService && !(k == 15 && localOn p) then answerHello k h p else p
  | none => p

/-- HELLO_RECEIVED (R327). -/
def execHelloReceived (k : Fin 16) (ws : List Nat) (s : State) : Outcome := run (helloReceived k.val ws) s

/-- The leader receives SERVICE: the link enters SERVICE (R327). -/
def serviceReceived (k : Nat) (p : Part) : Part :=
  if isBough p && linkSt p k == stTrain && allIn p k laneReady && (link p k).pos.isSome then enterService k p else p

/-- SERVICE_RECEIVED (R327). -/
def execServiceReceived (k : Fin 16) (s : State) : Outcome := run (serviceReceived k.val) s

/-! ### The follower (R327) -/

/-- HELLO is repeated: every 256 group sets until it is answered, and every 1 s in ISOLATED with cause 2, 4 or 5
(R326, R327). -/
def helloRepeat (k : Nat) (p : Part) : Part :=
  if k < 16 || !allIn p k laneReady then p
  else if linkSt p k = stTrain then sendHello k p
  else if linkSt p k = stIsolated ∧ (isoCause p k = 2 ∨ isoCause p k = 4 ∨ isoCause p k = 5) then
    beginHandshake k (advanceRp (((link p k).helloAt.getD p.clk.rp) + secRp) p)
  else p

/-- HELLO_REPEAT (R327). -/
def execHelloRepeat (k : Fin 18) (s : State) : Outcome := run (helloRepeat k.val) s

/-- The follower acts on ASSIGN: it takes the address and tier, sends SERVICE and enters SERVICE; an assignment by a
host puts a part that is not grove root in ISOLATED. `port` is the parent port its cable reaches (R25, R26, R327). -/
def assignReceived (k port : Nat) (ws : List Nat) (p : Part) : Part :=
  match ws with
  | [a, b] =>
    if k < 16 || bits a 19 16 != 2 then p
    else if linkSt p k = stTrain ∨ linkSt p k = stService then
      let done := fun (q : Part) => if linkSt q k = stTrain then queueHand k [0x40000] (enterService k q) else q
      if bit a 15 then (if p.pow.root then done p else leaveIsolated k 4 p)
      else
        let tier := bits a 14 12
        let p := done (wr (0x1100) (k - 9) port p)
        takeAddress (b % 2 ^ 20) tier (if p.pow.override < 16 then 2 else 1) p
    else p
  | _ => p

/-- ASSIGN_RECEIVED (R326). -/
def execAssignReceived (k : Fin 18) (port : Fin 16) (ws : List Nat) (s : State) : Outcome :=
  run (assignReceived k.val port.val ws) s

/-- REFUSE_RECEIVED (R327). -/
def execRefuseReceived (k : Fin 18) (s : State) : Outcome :=
  run (fun p => if 16 ≤ k.val ∧ linkSt p k = stTrain ∨ 16 ≤ k.val ∧ linkSt p k = stService then leaveIsolated k 2 p else p) s

/-- ISOLATE is received: bit 0 set isolates the link, clear starts a new handshake (R326, R330). -/
def isolateReceived (k : Nat) (on : Bool) (p : Part) : Part :=
  if k < 16 then p
  else if on then (if linkSt p k = stTrain ∨ linkSt p k = stService then leaveIsolated k 1 p else p)
  else if linkSt p k = stIsolated ∧ isoCause p k = 1 then
    (if allIn p k laneReady then beginHandshake k p else setLinkSt k stTrain p)
  else p

/-- ISOLATE_RECEIVED (R326). -/
def execIsolateReceived (k : Fin 18) (on : Bool) (s : State) : Outcome := run (isolateReceived k.val on) s

/-- No answer to the handshake in 10 ms (R326). -/
def handshakeTimeout (k : Nat) (p : Part) : Part :=
  match (link p k).helloAt with
  | some t => if 16 ≤ k ∧ linkSt p k = stTrain ∧ allIn p k laneReady = true then isolate k 5 (advanceRp (t + 10 * msRp) p) else p
  | none => p

/-- HANDSHAKE_TIMEOUT (R326). -/
def execHandshakeTimeout (k : Fin 18) (s : State) : Outcome := run (handshakeTimeout k.val) s

/-- 100 ms after a retrain without SERVICE; bring-up goes on trying (R326). -/
def trainTimeout (k : Nat) (p : Part) : Part :=
  match (link p k).retrainAt with
  | some t =>
    if linkSt p k = stTrain then
      let p := advanceRp (t + 100 * msRp) p
      isolate k 3 (setLink k { link p k with retrainAt := none } p)
    else p
  | none => p

/-- TRAIN_TIMEOUT (R326). -/
def execTrainTimeout (k : Fin 18) (s : State) : Outcome := run (trainTimeout k.val) s

/-- The hold is cleared: a LOOPTIMED link goes to TRAIN, and its bring-up completes (R289, R326). -/
def holdCleared (k : Nat) (p : Part) : Part :=
  let p := setLink k { link p k with hold := false } (onlyIf (linkSt p k == stLooptimed) (setLinkSt k stTrain) p)
  if 16 ≤ k then
    forEach (link p k).lanes (fun l q =>
      if rxSt q l = laneFramed ∧ (lane q l).step = 3 ∧ rd q (0x5020 + l) 4 = 1 then wr (0x5020 + l) 4 2 q else q) p
  else p

/-- HOLD_LOOPTIMED_CLEAR (R326). -/
def execHoldLooptimedClear (rq : Rq) (k : Fin 18) (s : State) : Outcome :=
  runCtl (ownWrite rq (0x5100 + k) 3 0 fun _ => holdCleared k.val) s

end Sys2Proof.Machine
end

