-- ==== Sys2Proof/Machine/Memory.lean ====
section
/-! DEFINITION. Event memory: reads and writes of blocks, fills, scrubbing, and the withdrawal and return of banks
(R245, R249, R251 to R255, R258, R259). -/
namespace Sys2Proof.Machine

/-! ### Reads and writes (R251 to R253) -/

/-- Deliver words from a bank port. -/
def deliver (ws : List FWord) (p : Part) : Part := { p with mem := { p.mem with out := ws } }

/-- A read access of a block (R242, R251). -/
def memRead (block a : Nat) (both : Bool) (p : Part) : Part :=
  if (regionAt p a).isSome then
    let (ws, p) := rowRead block a both p
    deliver ws p
  else p

/-- MEMORY_READ (R251): one word of a row or both, after the bits upset since. -/
def execMemoryRead (block : Block) (addr : Nat) (both : Bool) (upsets : Upsets) (s : State) : Outcome :=
  run (fun p => memRead (blockCode block) (addr % 2 ^ 24) both (upset upsets p)) s

/-- The port of the bank of an address. -/
def portOfBank (a : Nat) : Block := .bankPort (Fin.ofNat 256 (a / 65536))

/-- A unit presented to a bank port: its parity is checked, and the 21st bit is not stored (R47, R251). -/
def portTakes (a : Nat) (x : Present) (p : Part) : FWord × Part :=
  let p := present (portOfBank a) [x] p
  match p.fab.xfers.getLast? with
  | some y => (if y.tag = .poisoned then poisonWord else { data := BitVec.ofNat 20 y.unit.toNat }, p)
  | none => (poisonWord, p)

/-- A write of a unit or a part of one (R251, R252). -/
def memWrite (a : Nat) (w : MemWrite) (p : Part) : Part :=
  if (regionAt p a).isSome then
    match w with
    | .half h x =>
      let (y, p) := portTakes a x p
      rowWrite (blockCode x.src) a (.half h y) p
    | .word x =>
      let (y, p) := portTakes a x p
      rowWrite (blockCode x.src) a (.word y) p
    | .pair x0 x1 =>
      let (y0, p) := portTakes a x0 p
      let (y1, p) := portTakes a x1 p
      rowWrite (blockCode x0.src) a (.pair y0 y1) p
  else p

/-- MEMORY_WRITE (R252). -/
def execMemoryWrite (addr : Nat) (w : MemWrite) (upsets : Upsets) (s : State) : Outcome :=
  run (fun p => memWrite (addr % 2 ^ 24) w (upset upsets p)) s

/-! ### Scrubbing (R254, R255) -/

/-- A cell of a region is in service: its bank is, or is being withdrawn while the cell is still in use (R259). -/
def cellServes (p : Part) (r c : Nat) : Bool :=
  let n := (geo p r).addr (16 * c) / 16
  !bankOut p (n / 4096) || (bankStanding p (n / 4096) == 1 && (p.mem.cells.contains n || tget 0 p.mem.held r != 0))

/-- The first cell in service at or after `c`, among the next `k`. -/
def nextCell (p : Part) (r : Nat) : (k c : Nat) → Option Nat
  | 0, _ => none
  | k + 1, c => if cellServes p r c then some c else nextCell p r k (c + 1)

/-- The first cell in service of a region at or after `c`. -/
def cellFrom (p : Part) (r c : Nat) : Option Nat := nextCell p r ((geo p r).n - c) c

/-- Where the scrubber of a region stands within its cell. -/
def setScrub (r unit : Nat) (p : Part) : Part :=
  { p with mem := { p.mem with scrubs := tput {} p.mem.scrubs r { unit, last := p.clk.rp } } }

/-- The scrubber of a region is put at its first cell in service. -/
def scrubFirst (r : Nat) (p : Part) : Part := setScrub r 0 (wr (0x7010 + r) 6 ((cellFrom p r 0).getD 0) p)

/-- Scrubbing starts from the first cell, or is REJECTED (R255). -/
def scrubStart (r : Nat) (p : Part) : Part :=
  if regionState p r = stFilled ∧ rd p (0x7010 + r) 3 ≠ 0 then wr (0x7010 + r) 5 1 (scrubFirst r p)
  else wr (0x7010 + r) 5 5 p

/-- SCRUB_START (R255). -/
def execScrubStart (rq : Rq) (r : Fin 16) (s : State) : Outcome :=
  runCtl (ownWrite rq (0x7010 + r) 4 1 fun _ => scrubStart r) s

/-- The commit of a pass at the check of its last unit: the next one starts, unless the rate is 0 (R255). -/
def scrubDone (r : Nat) (p : Part) : Part :=
  let p := wr (0x7010 + r) 7 (now p) (bump (0x7020 + r) 6 p)
  if rd p (0x7010 + r) 3 = 0 then wr (0x7010 + r) 5 2 p else scrubFirst r p

/-- A pass is aborted and scrubbing stops (R255). -/
def scrubAborted (r : Nat) (p : Part) : Part := wr (0x7010 + r) 5 3 (bump (0x7020 + r) 7 p)

/-- The effect of a committed scrub rate: 0 aborts the pass in progress; another rate starts scrubbing of a FILLED
region that had none (R254, R255). -/
def scrubRate (rqs : List Rq) (r : Fin 16) (old : Nat) (p : Part) : Part :=
  if rd p (0x7010 + r) 3 = 0 then
    onlyIf (rd p (0x7010 + r) 5 == 1) (raise (.scrub r) { kind := .abort, rqs }) p
  else if old = 0 ∧ regionState p r = stFilled ∧ rd p (0x7010 + r) 5 ≠ 1 then scrubStart r p
  else p

/-- SCRUB_ABORT (R255): a write of 2 to the request, or of 0 to the rate, acknowledged after the grant (R72). -/
def scrubAbort (rq : Rq) (r : Fin 16) (byRate : Bool) (p : Part) : Part :=
  if byRate then
    let running := rd p (0x7010 + r) 5 == 1
    let q := ownWrite rq (0x7010 + r) 3 0 (scrubRate [rq] r) p
    if running && q.fab.arb != p.fab.arb then { q with svc := { q.svc with answer := p.svc.answer } } else q
  else abortWrite rq (0x7010 + r) 4 2 (.scrub r) (rd p (0x7010 + r) 5) id p

/-- SCRUB_ABORT (R255). -/
def execScrubAbort (rq : Rq) (r : Fin 16) (byRate : Bool) (s : State) : Outcome := runCtl (scrubAbort rq r byRate) s

/-- Units in a cell (R250). -/
def unitsPerCell (code : Nat) : Nat := if code = 0 then 8 else 16

/-- One unit is scrubbed: a correctable one is written back, an uncorrectable one stored in poison form (R254). -/
def scrubOne (r code a : Nat) (p : Part) : Part :=
  let block := 0x700 + a / 65536
  match decodeUnit code a p with
  | (.good _, p) | (.poisoned, p) => p
  | (.fixed w x y ws, p) => logError 1 r w x y block (countCorrected r a y (putWords code false ((unitAddrs code a).zip ws) p))
  | (.bad, p) =>
    let p := putWords code true ((unitAddrs code a).zip (writtenUnit p code a)) p
    uncorrectable 2 r code a block (bump (0x7020 + r) 4 p)

/-- The scrubber moves on from unit `u` of cell `c`, or raises completion after the last unit of the last cell (R255). -/
def scrubNext (r : Fin 16) (code c u : Nat) (p : Part) : Part :=
  if u + 1 < unitsPerCell code then setScrub r (u + 1) p
  else match cellFrom p r (c + 1) with
    | some c => setScrub r 0 (wr (0x7010 + r) 6 c p)
    | none => raiseCompletion (.scrub r) p

/-- The next unit in service is read at the scrub pace; a cell that has left service is skipped (R254, R259). -/
def scrubUnit (r : Fin 16) (upsets : Upsets) (p : Part) : Part :=
  if rd p (0x7010 + r) 5 = 1 ∧ unsettled p (.scrub r) ∧ rd p (0x7010 + r) 3 ≠ 0 then
    let code := codeOf p r
    let x := tget {} p.mem.scrubs r
    let wordsPer := if code = 0 then 2 else 1
    let p := advanceRp (x.last + wordsPer * secRp / rd p (0x7010 + r) 3) p
    match cellFrom p r (rd p (0x7010 + r) 6) with
    | some c =>
      let u := if c = rd p (0x7010 + r) 6 then x.unit else 0
      let a := (geo p r).addr (16 * c + wordsPer * u)
      scrubNext r code c u (scrubOne r code a (upset upsets (wr (0x7010 + r) 6 c p)))
    | none => if (cellFrom p r 0).isSome then raiseCompletion (.scrub r) p else p
  else p

/-- SCRUB_UNIT (R254). -/
def execScrubUnit (r : Fin 16) (upsets : Upsets) (s : State) : Outcome := run (scrubUnit r upsets) s

/-! ### The region table and fills (R245, R249) -/

/-- A committed region table write moves the region state (R245). -/
def regionWritten (r : Nat) (p : Part) : Part :=
  refreshRegions (wr (0x7000 + r) 6 (if (geo p r).n = 0 then 0 else 1) p)

/-- REGION_TABLE_WRITE (R245). -/
def execRegionTableWrite (rq : Rq) (r : Fin 16) (field value : Nat) (s : State) : Outcome :=
  runCtl (fun p => if 1 ≤ field ∧ field ≤ 5 then ownWrite rq (0x7000 + r) field value (fun _ => regionWritten r) p else p) s

/-- A fill is accepted, or REJECTED (R249). -/
def fillStart (r : Nat) (p : Part) : Part :=
  if regionState p r = 0 ∨ regionNamed p r = true ∨ rd p (0x7010 + r) 5 = 1 then wr (0x7010 + r) 2 5 p
  else wr (0x7000 + r) 6 stFilling (wr (0x7010 + r) 2 1 p)

/-- REGION_FILL_START (R249). -/
def execRegionFillStart (rq : Rq) (r : Fin 16) (s : State) : Outcome :=
  runCtl (ownWrite rq (0x7010 + r) 1 1 fun _ => fillStart r) s

/-- Fill an area with zeros. -/
def fillArea (f : Area) (p : Part) : Part :=
  let ws := p.mem.words.filter fun kv => !covers f kv.1
  { p with mem := { p.mem with words := ws, fills := f :: p.mem.fills.filter (· != f) } }

/-- The area of a region's cells in service, under the region's code. -/
def regionArea (p : Part) (r : Nat) : Area :=
  let g := geo p r
  { b0 := g.b0, nb := g.nb, r0 := g.r0, n := g.n, code := codeOf p r, skip := (banksOut p).filter fun b => decide (0 < g.cellsIn b) }

/-- Every word of the region's cells in service is filled, under the region's code (R249). -/
def fillRegion (r : Nat) (p : Part) : Part := fillArea (regionArea p r) p

/-- The boot ROM fills region 0 and copies an image's body into it from word 0 (R246, R484). -/
def loadBody (i : Image) (p : Part) : Part := wr 0x7000 6 stFilled (fillArea { regionArea p 0 with body := i } p)

/-- The fill reaches its last cell (R249); a region with a scrub rate is scrubbed from then on (R254). -/
def fillDone (r : Nat) (p : Part) : Part :=
  if rd p (0x7010 + r) 2 = 1 then
    let p := wr (0x7000 + r) 6 stFilled (wr (0x7010 + r) 2 2 (fillRegion r p))
    onlyIf (rd p (0x7010 + r) 3 != 0) (scrubStart r) p
  else p

/-- REGION_FILL_DONE (R249). -/
def execRegionFillDone (r : Fin 16) (s : State) : Outcome := run (fillDone r) s

/-! ### Banks (R258, R259) -/

/-- A bank operation is running. -/
def bankBusy (p : Part) : Bool := p.mem.test.isSome || (List.range 256).any fun b => bankStanding p b == 1 || bankStanding p b == 3

/-- The bank holds cells of a region in use for the trigger table or the shadows (R258 cause 2). -/
def bankPinned (p : Part) (b : Nat) : Bool :=
  (List.range 16).any fun r => decide (0 < (geo p r).cellsIn b) &&
    (usesOf p r).any fun x => x.2 == useTable || x.2 == useShadows

/-- The cause for which a bank request is REJECTED; 0 for none (R258). -/
def bankCause (p : Part) (b : Nat) (withdraw : Bool) : Nat :=
  if withdraw && b < 4 then 1
  else if withdraw && bankPinned p b then 2
  else if withdraw && decide (leastQueueWords { p with mem := { p.mem with held := [], cells := [] } }
      (if bankOut p b then banksOut p else b :: banksOut p) < creditSum p) then 3
  else if bankStanding p b ≠ (if withdraw then 0 else 2) then 4
  else if bankBusy p then 5
  else 0

/-- A bank request is answered with its status and cause. -/
def bankStatus (st cause : Nat) (p : Part) : Part := wr 0x7046 4 cause (wr 0x7046 3 st p)

/-- The withdrawal ends: the bank is WITHDRAWN (R259). -/
def withdrawEnd (b : Nat) (p : Part) : Part := refreshRegions (bankStatus 2 0 (setBank b 2 p))

/-- Cells of a latency buffer in the bank serve until the boundary (R259). -/
def latencyCells (p : Part) (b r : Nat) : Nat :=
  if regionState p r = stFilled ∧ (usesOf p r).any fun x => x.2 == useLatency then (geo p r).cellsIn b else 0

/-- Some cell of a bank being withdrawn still holds data in use (R259). -/
def bankHolds (p : Part) (b : Nat) : Bool := !p.mem.held.isEmpty || p.mem.cells.any fun c => c / 4096 == b

/-- A withdrawal begins; it ends at once where no cell is in use (R259). -/
def withdrawStart (p : Part) : Part :=
  let b := rd p 0x7046 1
  let c := bankCause p b true
  if c ≠ 0 then bankStatus 5 c p
  else
    let held := (List.range 16).foldl (fun t r => tput 0 t r (latencyCells p b r)) []
    let p := setBank b 1 { p with mem := { p.mem with held } }
    if bankHolds p b then refreshRegions (bankStatus 1 0 p) else withdrawEnd b p

/-- BANK_WITHDRAW (R258). -/
def execBankWithdraw (rq : Rq) (s : State) : Outcome := runCtl (ownWrite rq 0x7046 2 1 fun _ => withdrawStart) s

/-- The last cell in use has been freed (R259). -/
def withdrawDone (p : Part) : Part :=
  match (List.range 256).find? fun b => bankStanding p b == 1 with
  | some b => if bankHolds p b then p else withdrawEnd b p
  | none => p

/-- BANK_WITHDRAW_DONE (R259). -/
def execBankWithdrawDone (s : State) : Outcome := run withdrawDone s

/-- A return begins (R259). -/
def returnStart (p : Part) : Part :=
  let b := rd p 0x7046 1
  let c := bankCause p b false
  if c ≠ 0 then bankStatus 5 c p else setBank b 3 (bankStatus 1 0 p)

/-- BANK_RETURN (R259). -/
def execBankReturn (rq : Rq) (s : State) : Outcome := runCtl (ownWrite rq 0x7046 2 2 fun _ => returnStart) s

/-- The cells of FILLED regions in the bank are filled and go back into service (R259). -/
def returnDone (p : Part) : Part :=
  match (List.range 256).find? fun b => bankStanding p b == 3 with
  | some b =>
    let p := forEach (List.range 16) (fun r q =>
      let g := geo q r
      if regionState q r = stFilled ∧ 0 < g.cellsIn b then
        fillArea { b0 := b, nb := 1, r0 := g.r0, n := g.cellsIn b, code := codeOf q r } q
      else q) p
    refreshRegions (bankStatus 2 0 (setBank b 0 p))
  | none => p

/-- BANK_RETURN_DONE (R259). -/
def execBankReturnDone (s : State) : Outcome := run returnDone s

end Sys2Proof.Machine
end

