-- ==== Sys2Proof/Machine/InService.lean ====
section
/-! DEFINITION. Testing and bypassing in service: port isolation, lane tests, memory self-test and boundary scan (R514 to
R527). -/
namespace Sys2Proof.Machine

/-! ### Port isolation (R514 to R516) -/

/-- A link of the port takes the isolation. -/
def isolateLink (k : Nat) (p : Part) : Part :=
  let s := linkSt p k
  if s = stService then queueHand k [5 * 2 ^ 16 + 1] (leaveIsolated k 1 p)
  else if s = stTrain then isolate k 1 p
  else wr (0x5100 + k) 2 1 p

/-- The other links of the child that a port's link goes to (R26). -/
def siblingLinks (p : Part) (port : Nat) : List Nat :=
  (List.range 16).filter fun j => j != port && ((link p j).companion == some port ||
    (rd p (0x5100 + port) 7 != 0 && rd p (0x5100 + j) 7 == rd p (0x5100 + port) 7))

/-- The port is isolated, with its companion; open slots record it as missing (R514, R515). -/
def isolateActs (port : Nat) (p : Part) : Part :=
  let p := forEach (port :: siblingLinks p port) isolateLink p
  if isBough p then portLost port p else p

/-- A link of the port begins its return (R516). -/
def releaseLink (k : Nat) (p : Part) : Part :=
  if linkSt p k = stIsolated ∧ isoCause p k = 1 then
    (if allIn p k laneReady then beginHandshake k (queueHand k [5 * 2 ^ 16] p) else setLinkSt k stTrain p)
  else if isoCause p k = 1 then wr (0x5100 + k) 2 0 p
  else p

/-- The isolation is cleared, with that of the companion (R515, R516). -/
def releaseActs (port : Nat) (p : Part) : Part := forEach (port :: siblingLinks p port) releaseLink p

/-- A write of a port's isolation acts at its commit; each write of 1 is counted (R514). -/
def isolationWritten (port old : Nat) (p : Part) : Part :=
  let v := rd p 0xA000 (port + 1)
  if v = 1 then
    let p := bump 0xA001 (port + 1) p
    if old = 1 then p else isolateActs port p
  else if old = 1 then releaseActs port p
  else p

/-- PORT_ISOLATE (R514). -/
def execPortIsolate (rq : Rq) (port : Fin 16) (s : State) : Outcome :=
  runCtl (ownWrite rq 0xA000 (port + 1) 1 (isolationWritten port.val)) s

/-- PORT_RELEASE (R516). -/
def execPortRelease (rq : Rq) (port : Fin 16) (s : State) : Outcome :=
  runCtl (ownWrite rq 0xA000 (port + 1) 0 (isolationWritten port.val)) s

/-! ### Lane tests (R517 to R521) -/

def laneTest (p : Part) (l : Nat) : LaneTest := tget {} p.tests l
def setTest (l : Nat) (x : LaneTest) (p : Part) : Part := { p with tests := tput {} p.tests l x }

/-- Status and cause of a lane test. -/
def testStatus (l st cause : Nat) (p : Part) : Part := wr (0xA010 + l) 7 cause (wr (0xA010 + l) 6 st p)

/-- Why a lane test is REJECTED; 0 where it is not (R517). -/
def testCause (p : Part) (l : Nat) : Nat :=
  let busyLink := match linkOf p l with
    | some k => let s := linkSt p k; s == stService || s == stLooptimed || s == stSleepTx || s == stSleepRx
    | none => false
  if busyLink then 1 else if ethernet p l then 2 else if rxSt p l = laneBypassed then 3 else 0

/-- The equaliser code of a test: the one chosen at the last bring-up at its rate, or the fixed one (R518). -/
def testEqualiser (p : Part) (l rate : Nat) : Nat := (tget none p.eqAt (8 * l + rate)).getD (rd p (0x5000 + l) 6)

/-- A lane test is requested: the lane leaves its link, which keeps its state, and the results start afresh (R517 to
R520). -/
def testStart (l : Nat) (p : Part) : Part :=
  let c := testCause p l
  if c ≠ 0 then testStatus l 5 c p
  else
    let mode := rd p (0xA010 + l) 2
    let rate := rd p (0xA010 + l) 4
    let p := stopLane l (match linkOf p l with | some k => markOut k p | none => p)
    let p := setTest l { since := p.clk.rp } (testStatus l 1 0 p)
    let p := wr (0xA010 + l) 0xB (if mode = 3 then 0 else 1) (wr (0xA010 + l) 9 0 (wr (0xA010 + l) 8 0 p))
    let p := wr (0x5020 + l) 8 (testEqualiser p l rate) (wr (0x5020 + l) 3 rate p)
    noteRate (wr (0x5020 + l) 4 (if mode = 3 then 1 else 0) p)

/-- LANE_TEST_START (R517). -/
def execLaneTestStart (rq : Rq) (l : Fin 28) (s : State) : Outcome := runCtl (ownWrite rq (0xA010 + l) 1 1 fun _ => testStart l.val) s

/-- The places in the register whose bits predict the next one: x^a + x^b + 1 (R518). -/
def patternTaps (code : Nat) : Nat × Nat :=
  match code with
  | 0 => (7, 6)
  | 1 => (15, 14)
  | 2 => (23, 18)
  | _ => (31, 28)

/-- The bit that a full register predicts; the register is newest first. -/
def predict (t : Nat × Nat) (reg : List Bool) : Bool := reg.getD (t.1 - 1) false != reg.getD (t.2 - 1) false

/-- A hunting checker takes bits until 64 in a row match its prediction: the register then, and the bits that follow
(R519). -/
def huntBits (t : Nat × Nat) : (reg : List Bool) → (good : Nat) → List Bool → Option (List Bool × List Bool)
  | _, _, [] => none
  | reg, good, b :: bs =>
    if reg.length < t.1 then huntBits t (b :: reg) 0 bs
    else if b = predict t reg then
      let reg := (b :: reg).take t.1
      if good = 63 then some (reg, bs) else huntBits t reg (good + 1) bs
    else huntBits t [b] 0 bs

/-- What a locked checker has counted: its register, the mismatches of its last bits, bits and errors, and whether it has
lost lock. -/
structure Counted where
  reg : List Bool
  hist : List Bool
  bits : Nat := 0
  errs : Nat := 0
  lost : Bool := false

/-- A locked checker runs free over bits until it loses lock: 32 mismatches within 1,024 consecutive bits (R519). -/
def countBits (t : Nat × Nat) : Counted → List Bool → Counted
  | c, [] => c
  | c, b :: bs =>
    let e := predict t c.reg
    let miss := b != e
    let hist := miss :: c.hist
    let c := { reg := (e :: c.reg).take t.1, hist := hist.take 1023, bits := c.bits + 1, errs := if miss then c.errs + 1 else c.errs, lost := miss && decide (32 ≤ (hist.filter id).length) }
    if c.lost then c else countBits t c bs

/-- The largest U40. -/
def maxU40 : Nat := 2 ^ 40 - 1

/-- A locked checker takes bits: they are counted, and it goes back to hunting where it loses lock. -/
def takeBits (l : Nat) (bs : List Bool) (p : Part) : Part :=
  if rd p (0xA010 + l) 0xB = 2 then
    let x := laneTest p l
    let c := countBits (patternTaps (rd p (0xA010 + l) 3)) { reg := x.reg, hist := x.hist } bs
    let p := wr (0xA010 + l) 9 (min maxU40 (rd p (0xA010 + l) 9 + c.errs)) (wr (0xA010 + l) 8 (min maxU40 (rd p (0xA010 + l) 8 + c.bits)) p)
    if c.lost then setTest l { x with reg := [], hist := [] } (wr (0xA010 + l) 0xB 1 (bump (0xA010 + l) 0xA p))
    else setTest l { x with reg := c.reg, hist := c.hist } p
  else p

/-- A hunting checker takes bits, and locks (R519). -/
def checkerLock (l : Nat) (bs : List Bool) (p : Part) : Part :=
  if underTest p l ∧ rd p (0xA010 + l) 0xB = 1 then
    match huntBits (patternTaps (rd p (0xA010 + l) 3)) [] 0 bs with
    | some (reg, rest) => takeBits l rest (setTest l { laneTest p l with reg, hist := [] } (wr (0xA010 + l) 0xB 2 p))
    | none => p
  else p

/-- CHECKER_LOCK (R519): `bs` are the bits received, oldest first. -/
def execCheckerLock (l : Fin 28) (bs : List Bool) (s : State) : Outcome := run (checkerLock l.val bs) s

/-- CHECKER_LOCK_LOSS (R519): `bs` are the bits received since the last command that took some. -/
def execCheckerLockLoss (l : Fin 28) (bs : List Bool) (s : State) : Outcome :=
  run (fun p => if underTest p l then takeBits l.val bs p else p) s

/-- After its test a lane rejoins its link and starts bring-up, and the writes that waited for it apply (R520, R521). -/
def rejoin (l : Nat) (p : Part) : Part :=
  let p := if laneUsable p l then enableActs l p else wr (0x5020 + l) 3 0xFF (wr (0x5020 + l) 4 0 p)
  if rd p (0x5000 + l) 9 ≠ 0 then sleepActs l p else p

/-- A running test ends DONE, its last bits counted (R520). -/
def testDone (l : Nat) (bs : List Bool) (p : Part) : Part :=
  if underTest p l then rejoin l (endTest l 2 0 (takeBits l bs p)) else p

/-- LANE_TEST_STOP (R520). -/
def execLaneTestStop (rq : Rq) (l : Fin 28) (bs : List Bool) (s : State) : Outcome :=
  runCtl (ownWrite rq (0xA010 + l) 1 2 fun _ => testDone l.val bs) s

/-- The test's duration runs out; one of 0 never does (R520). -/
def testDuration (l : Nat) (bs : List Bool) (p : Part) : Part :=
  let ms := rd p (0xA010 + l) 5
  if underTest p l ∧ ms ≠ 0 then testDone l bs (advanceRp ((laneTest p l).since + ms * msRp) p) else p

/-- LANE_TEST_DURATION_END (R520). -/
def execLaneTestDurationEnd (l : Fin 28) (bs : List Bool) (s : State) : Outcome := run (testDuration l.val bs) s

/-! ### Memory self-test (R522 to R524) -/

/-- Status and cause of the self-test. -/
def selfTestStatus (st cause : Nat) (p : Part) : Part := wr 0xA040 4 cause (wr 0xA040 3 st p)

/-- A self-test is requested (R522). -/
def selfTestStart (p : Part) : Part :=
  let b := rd p 0xA040 1
  if bankStanding p b ≠ 2 then selfTestStatus 5 1 p
  else if bankBusy p then selfTestStatus 5 2 p
  else selfTestStatus 1 0 { p with mem := { p.mem with test := some b } }

/-- MEMORY_SELF_TEST_START (R522). -/
def execMemorySelfTestStart (rq : Rq) (s : State) : Outcome := runCtl (ownWrite rq 0xA040 2 1 fun _ => selfTestStart) s

/-- The bank's contents are arbitrary (R524): none of its words is held, and no fill reaches it. -/
def scrambleBank (b : Nat) (p : Part) : Part :=
  let ws := p.mem.words.filter fun kv => kv.1 / 65536 != b
  let fs := p.mem.fills.map fun f => if f.skip.contains b then f else { f with skip := b :: f.skip }
  { p with mem := { p.mem with words := ws, fills := fs } }

/-- The march ends (R523, R524): `fails` are the rows and stored bits that read wrong, in the order found. -/
def selfTestDone (fails : List (Nat × Nat)) (p : Part) : Part :=
  match p.mem.test with
  | some b =>
    let fs := (fails.map fun f => (f.1 % 32768, f.2 % 54)).eraseDups
    let p := scrambleBank b { p with mem := { p.mem with test := none } }
    let p := bump 0xA040 8 (wr 0xA040 5 (min (2 ^ 20 - 1) fs.length) (selfTestStatus 2 0 p))
    match fs.head? with
    | some f => wr 0xA040 7 (f.2 % 27) (wr 0xA040 6 (65536 * b + 2 * f.1 + f.2 / 27) p)
    | none => wr 0xA040 7 0xFF (wr 0xA040 6 0 p)
  | none => p

/-- MEMORY_SELF_TEST_DONE (R524). -/
def execMemorySelfTestDone (fails : List (Nat × Nat)) (s : State) : Outcome := run (selfTestDone fails) s

/-! ### Boundary scan (R525 to R527) -/

/-- A pin that the boundary register covers (R527, R562): every digital pin but those of the test access port, which have no cells
of their own (DEDUCED: IEEE 1149.1, which R525 names), and the transmit and receive pair of every lane. -/
inductive ScanPin where
  | ref | pps | trigIn | trigNb | pfailN | bootSafe | role (i : Fin 2) | bypassN | lref | sbu | sbd | flClk | flCsN | flIo (i : Fin 4)
  | tx (l : Fin 28) | rx (l : Fin 28)
  deriving DecidableEq, Repr

/-- The cells of the boundary register, the one nearest TDO first. DESIGN CHOICE: the order is that of R562; the BSDL file holds the
real one (log 112). -/
def scanPins : List ScanPin :=
  [.ref, .pps, .trigIn, .trigNb, .pfailN, .bootSafe, .role 0, .role 1, .bypassN, .lref, .sbu, .sbd, .flClk, .flCsN] ++
    (List.finRange 4).map .flIo ++ (List.finRange 28).flatMap fun l => [.tx l, .rx l]

/-- Instructions that take control of pins. -/
def pinInstruction (op : Nat) : Bool := decide (3 ≤ op ∧ op ≤ 7)

/-- The instructions that select the boundary register (R525). -/
def selectsBoundary (op : Nat) : Bool := op == 2 || op == 3 || op == 6 || op == 7

/-- What drives a pin: its functional driver, a level from its cell, pulses or a train of that level (IEEE 1149.6), or nothing. -/
inductive PinDrive where
  | functional | level (b : Bool) | pulse (b : Bool) | train (b : Bool) | released
  deriving DecidableEq, Repr

/-- A pin with an output driver. -/
def ScanPin.drives : ScanPin → Bool
  | .sbu | .sbd | .flClk | .flCsN | .flIo _ | .tx _ => true
  | _ => false

/-- The pair belongs to D0 or A0. -/
def ScanPin.retimed : ScanPin → Bool
  | .tx l | .rx l => l == 0 || l == 16
  | _ => false

/-- What drives a pin under the instruction in effect. While the bypass retimer is engaged the cells of D0 and A0 do not drive
(R525 to R527); an instruction of control over pins drives none once a supply is no longer good (R526). -/
def pinDrive (p : Part) (c : ScanPin) : PinDrive :=
  let b := p.pow.hold.getD (scanPins.idxOf c) false
  if !c.drives || !pinInstruction p.pow.jtag || p.pow.bad != 0 || (c.retimed && bypassOn p) then .functional
  else match p.pow.jtag, c with
    | 5, _ => .released
    | 6, .tx _ => .pulse b
    | 7, .tx _ => .train b
    | _, _ => .level b

/-- The identification register (R525). -/
def idCode (p : Part) : Nat :=
  bits (rd p 0 5) 11 8 * 2 ^ 28 + 0x5A25 * 2 ^ 12 + Config.jtagMaker % 2 ^ 11 * 2 + 1

/-- The bits of a number, the lowest first. -/
def bitsUp (n v : Nat) : List Bool := (List.range n).map v.testBit

/-- A data scan under the instruction in effect: its register captures, shifts towards TDO, and a boundary register updates
(R525, R527). -/
def dataScan (x : DrScan) (p : Part) : Part :=
  let op := p.pow.jtag
  if selectsBoundary op then
    let cells := (List.range 74).map fun i => x.pins.getD i false
    let all := cells ++ x.tdi
    let next := all.drop x.tdi.length
    { p with pow := { p.pow with scan := next, hold := next, tdo := all.take x.tdi.length } }
  else
    let reg := if op = 1 then bitsUp 32 (idCode p) else [false]
    { p with pow := { p.pow with tdo := (reg ++ x.tdi).take x.tdi.length } }

/-- An instruction takes effect, as 01h, which the instruction register captured, is shifted out; one of control over pins only in reset with every supply good, and otherwise it acts as
BYPASS and is counted; an opcode of no instruction acts as BYPASS (R525, R526). -/
def jtagUpdate (op : Nat) (p : Part) : Part :=
  let set := fun (v : Nat) (q : Part) => { q with pow := { q.pow with jtag := v, tdo := bitsUp 8 1 } }
  if pinInstruction op then
    (if p.pow.phase = .inReset ∧ p.pow.bad = 0 then set op p else bump 0xA050 2 (set 0xFF p))
  else if op = 1 ∨ op = 2 then set op p
  else set 0xFF p

/-- JTAG_INSTRUCTION_UPDATE (R526), and the data scan that follows it, if one does (R527). -/
def execJtagInstructionUpdate (op : Fin 256) (scan : Option DrScan) (s : State) : Outcome :=
  lift (fun p => match scan with
    | some x => dataScan x (jtagUpdate op.val p)
    | none => jtagUpdate op.val p) s

/-- TEST_LOGIC_RESET (R525): IDCODE is in effect. -/
def execTestLogicReset (s : State) : Outcome := lift (fun p => { p with pow := { p.pow with jtag := 1 } }) s

end Sys2Proof.Machine
end

