-- ==== Sys2Proof/Machine/Reference.lean ====
section
/-! DEFINITION. REF and its presence detector, the ring's reference, the servo's states as REF moves them, and the
headroom windows (R55 to R57, R118 to R121, R142 to R144, R261, R336). -/
namespace Sys2Proof.Machine

/-! ### Servo states (R336, R341) -/

def servoFree : Nat := 0
def servoAcquire : Nat := 1
def servoLocked : Nat := 2
def servoHoldover : Nat := 3

/-- The servo's state (6000h.03). -/
def servoState (p : Part) : Nat := rd p 0x6000 3

/-- The servo enters a state: the counter is locked while it is in LOCKED (R341). -/
def setServo (st : Nat) (p : Part) : Part :=
  let l := p.front.tunl
  let p := { p with front := { p.front with tunl := if st = servoLocked then endSpan (now p) l else openSpan (now p) l } }
  let p := onlyIf (st == servoLocked && servoState p != servoLocked) (fun p => { p with svc := { p.svc with lastUnlocked := some p.clk.rp } }) p
  wr 0x6000 3 st { p with tim := { p.tim with run := 0 } }

/-- The rate word a, and the frequency estimate i. -/
def setRate (a : Int) (p : Part) : Part := wr 0x6000 2 (ofI32 a) { p with clk := { p.clk with rate := a } }
def freqEst (p : Part) : Int := s32 (rd p 0x6000 0xB)
def setFreq (i : Int) (p : Part) : Part := wr 0x6000 0xB (ofI32 i) p

/-- The servo enters HOLDOVER from ACQUIRE or LOCKED: a := i (R336). -/
def holdover (p : Part) : Part :=
  if servoState p = servoAcquire ∨ servoState p = servoLocked then
    setServo servoHoldover (setRate (freqEst p) (bump 0x6001 5 p))
  else p

/-- The source in 6000h.04 is usable (R336, R347, R350, R355). -/
def sourceUsable (p : Part) : Bool :=
  match rd p 0x6000 4 with
  | 1 => !p.tim.lost
  | 2 => rd p 0x6020 5 == 1
  | 3 => rd p (0x6038 + rd p 0x6040 1) 1 == 3
  | _ => false

/-- HOLDOVER ends once the ring is locked to REF and the source is usable (R336). -/
def leaveHoldover (p : Part) : Part :=
  if servoState p = servoHoldover ∧ ringLocked p = true ∧ sourceUsable p = true then setServo servoAcquire p else p

/-! ### REF (R142 to R144) -/

/-- The time between REF edges, and how far an edge may lie from its due time (R142). -/
def refTk : Nat := 32768
def refTol : Nat := 1024

/-- Edges in step that declare REF present (R144). -/
def refRun : Nat := 256

/-- An edge stamped `x` is in step with the one before it. -/
def inStep (last : Option Nat) (x : Nat) : Bool :=
  match last with
  | some y => decide (Int.natAbs (diffMod 80 x (y + refTk)) ≤ refTol)
  | none => false

/-- REF is declared present, and relocking of the ring begins (R144). -/
def refPresent (p : Part) : Part := wr 0x20D0 1 1 (wr 0x20D0 2 3 p)

/-- A REF edge is stamped, and reaches the interval unit where that uses it (R131); a rising one is judged good or stray,
and while REF is missing counts toward its presence (R142, R144). -/
def refEdge (rising : Bool) (tap : Nat) (h : Bool) (p : Part) : Part :=
  let x := auxStamp p .ref tap h
  let p := pinArrive .ref rising x p
  if !rising then p else
  let good := inStep p.ref.last x
  if rd p 0x20D0 1 = 1 then
    if good then { p with ref := { p.ref with last := some x } } else bump 0x2104 3 p
  else
    let n := if good then p.ref.run + 1 else 0
    let p := onlyIf (!good) (bump 0x2104 3) p
    let p := { p with ref := { p.ref with last := some x, run := if refRun ≤ n then 0 else n } }
    if refRun ≤ n then refPresent p else p

/-- REF_EDGE (R142). -/
def execRefEdge (dt : Nat) (rising : Bool) (tap : Fin 64) (h : Bool) (s : State) : Outcome :=
  run (fun p => refEdge rising tap.val h (advance dt p)) s

/-- The calibration that is BUSY as REF goes missing fails with cause 1 (R121). -/
def calRefLost (p : Part) : Part :=
  match calRunning p with
  | some u => if unsettled p (.cal u) then raiseFailure (.cal u) 1 p else p
  | none => p

/-- Stamps that the measurement in progress has used lie at or after T_miss, which was not known then (REFL of R138). -/
def ivRefLost (t : Nat) (p : Part) : Part :=
  if rd p 0x2102 1 = 1 ∧ 0 < p.iv.n ∧ before p.iv.top t = false then { p with iv := { p.iv with flags := p.iv.flags ||| 8 } } else p

/-- REF is declared missing: T_miss is the due time that passed (R118, R119, R121, R143). -/
def refMissing (p : Part) : Part :=
  match p.ref.last with
  | some y =>
    if rd p 0x20D0 1 = 1 then
      let t := (y + refTk) % 2 ^ 80
      let p := advanceTo (t + refTol + 1) p
      let p := wr 0x20D0 4 t (bump 0x20D0 3 (wr 0x20D0 2 1 (wr 0x20D0 1 0 p)))
      let p := { p with ref := { p.ref with run := 0, ending := false, osc := openSpan p.clk.rp p.ref.osc }, front := { p.front with refl := openSpan t p.front.refl } }
      holdover (calRefLost (ivRefLost t p))
    else p
  | none => p

/-- REF_MISSING (R143). -/
def execRefMissing (s : State) : Outcome := run refMissing s

/-- RING_OSC_LOCK (R118): the ring locks to the internal oscillator. -/
def execRingOscLock (s : State) : Outcome := run (fun p => if rd p 0x20D0 2 = 1 then wr 0x20D0 2 2 p else p) s

/-- The ring relocks to REF: REFL ends at the next boundary, the latches are requested once after reset, and HOLDOVER
may end (R120, R132, R336, R343). -/
def ringRefRelock (p : Part) : Part :=
  if rd p 0x20D0 2 = 3 ∧ rd p 0x20D0 1 = 1 then
    let p := wr 0x20D0 2 0 { p with ref := { p.ref with ending := true, osc := endSpan p.clk.rp p.ref.osc } }
    let p := if p.cal.auxDone then p
      else calAuto (.aux :: (List.finRange 7).map .quad) { p with cal := { p.cal with auxDone := true } }
    leaveHoldover p
  else p

/-- RING_REF_RELOCK (R120). -/
def execRingRefRelock (s : State) : Outcome := run ringRefRelock s

/-! ### Headroom (R55 to R57, R261) -/

/-- The largest Q20.8 value. -/
def q20Max : Nat := 2 ^ 28 - 1

/-- raw(H_eff) from raw(H) and L (R56). -/
def effHeadroom (rawH l : Nat) : Nat := if l = 0 then q20Max else min (rawH * 14336 / l) q20Max

/-- The end of a 1 ms window: the replica's reading, the headroom figures, and the busiest bank with its share of the
window in per mille (R55 to R57, R261). -/
def headroomWindow (rawH busiest busy : Nat) (p : Part) : Part :=
  let p := advanceRp ((p.clk.rp / msRp + 1) * msRp) p
  let h := min rawH q20Max
  let e := effHeadroom h (rd p 0x1200 6)
  let p := wr 0x1200 3 (min e (rd p 0x1200 3)) (wr 0x1200 2 e (wr 0x1200 1 h p))
  let p := onlyIf (decide (e < rd p 0x1200 4)) (bump 0x1200 5) p
  let o := min busy 1000
  let p := wr 0x7060 3 o (wr 0x7060 2 (busiest % 256) p)
  onlyIf (decide (950 ≤ o)) (bump 0x7060 1) p

/-- HEADROOM_WINDOW_END (R55). -/
def execHeadroomWindowEnd (rawH : Nat) (busiest busy : Nat) (s : State) : Outcome := run (headroomWindow rawH busiest busy) s

end Sys2Proof.Machine
end

