-- ==== Sys2Proof/Machine/Convert.lean ====
section
/-! DEFINITION. Housekeeping converters: the decimation chain, calibration arithmetic, the converter states, and
excitation changes (R363 to R373, R385 to R395). -/
namespace Sys2Proof.Machine

/-! ### The chain (R388 to R390, R392) -/

/-- The sums of the last `n` samples at each sample from the nth on, shifted right by `k` bits (R388). -/
def movingSum (n k : Nat) : (run : Int) → (old new : List Int) → List Int
  | _, _, [] => []
  | run, old, x :: t =>
    let run := run + x
    match old with
    | o :: old => run / (2 ^ k : Nat) :: movingSum n k (run - o) old t
    | [] => run / (2 ^ k : Nat) :: movingSum n k run [] t

/-- One stage: outputs from its nth input on (R389). -/
def stageOut (n k : Nat) (xs : List Int) : List Int :=
  movingSum n k ((xs.take (n - 1)).foldl (· + ·) 0) xs (xs.drop (n - 1))

/-- The stages in order, from stage `i` (R389). -/
def runStages (c : ChainCfg) : (i : Nat) → List Nat → List Int → List Int
  | _, [], xs => xs
  | i, n :: t, xs => runStages c (i + 1) t (stageOut n (shiftOf c i) xs)

/-- The samples of a span from its modulator bits, oldest first: +1 or −1, and 0 before sample 1 (R389). -/
def spanSamples (n : Nat) (bs : List Bool) : List Int :=
  let l := bs.drop (bs.length - n)
  List.replicate (n - l.length) 0 ++ l.map fun b => if b then 1 else -1

/-- y of R389: what the last stage gives at sample kR. -/
def chainOut (c : ChainCfg) (bs : List Bool) : Int :=
  ((runStages c 0 (lengthsOf c) (spanSamples (spanLen c) bs)).getLast?).getD 0

/-- xn of R389: the normalised value, halves up. -/
def normalised (c : ChainCfg) (y : Int) : Int :=
  let pr := (lengthsOf c).foldl (· * ·) 1
  let s := (List.range (lengthsOf c).length).foldl (fun a i => a + shiftOf c i) 0
  (655360 * y * (2 ^ s : Nat) + (pr / 2 : Nat)) / pr

/-- Full scale. -/
def fullScale : Int := 524287
def clampX (x : Int) : Int := max (-fullScale) (min fullScale x)

/-- x of R389: calibrated with o and e, and clamped. -/
def calibrated (xn o e : Int) : Int := clampX (((xn - o) * (2 ^ 20 + e) + 2 ^ 19) / 2 ^ 20)

/-! ### Converters (R385 to R387) -/

/-- A converter, its state, and setting them. -/
def conv (p : Part) (m : Nat) : Conv := tget {} p.hk.convs m
def setConv (m : Nat) (x : Conv) (p : Part) : Part := { p with hk := { p.hk with convs := tput {} p.hk.convs m x } }
def convSt (p : Part) (m : Nat) : Nat := rd p (0x8058 + m) 4
def setConvSt (m st : Nat) (p : Part) : Part := wr (0x8058 + m) 4 st p
def cvStopped : Nat := 0
def cvArmed : Nat := 1
def cvRunning : Nat := 2
def cvBlanked : Nat := 3
def cvInjecting : Nat := 4
def cvCalibrating : Nat := 5

/-- The sample grid: a sample each 1,250 ring periods (R385); the first sample at or after ring period `r`. -/
def samplePeriod : Nat := 1250
def gridUp (r : Nat) : Nat := ceilDiv r samplePeriod * samplePeriod

/-- A synchronising reset at ring period `r`: the chain takes its settings (R386, R391). -/
def syncReset (m r : Nat) (p : Part) : Part :=
  setConv m { conv p m with reset := some r, k := 0, chain := chainSet p m, settle := none, low := 0 } p

/-- Microseconds in ring periods. -/
def usOf (n : Nat) : Nat := n * usRp

/-- Settling times in µs (R370). -/
def settleLevel (level : Nat) : Nat :=
  if level < 50 then 5000 else if level < 200 then 1000 else if level < 500 then 400 else 200
def settleRoute : Nat := 200
def settleInput : Nat := 50
def settleBurnout : Nat := 5000
def settleRange : Nat := 20

/-- A loop whose source is the converter holds its code, unless it is in FAULT or OFF (R379). -/
def loopsHold (m : Nat) (p : Part) : Part :=
  forEach (List.range 2) (fun j q =>
    let st := rd q (0x8048 + j) 1
    if rd q (0x8040 + j) 2 = m ∧ (st = 1 ∨ st = 2) then wr (0x8048 + j) 1 3 q else q) p

/-- A change of the converter's front end that settles in `us`: its chain stops, its results are blanked, and the next
one owes a tag. A change while blanked restarts the blanking from that change; of changes at one instant the longest
settling counts (R367, R370, R371, R387). -/
def blank (m us : Nat) (exc rng : Bool) (p : Part) : Part :=
  let x := conv p m
  let together := if x.changed = p.clk.rp then x.settle.getD 0 else 0
  let until_ := max (p.clk.rp + usOf us) together
  let x := { x with exc := x.exc || exc, rng := x.rng || rng, changed := p.clk.rp }
  let st := convSt p m
  if st = cvRunning ∨ st = cvBlanked then setConvSt m cvBlanked (setConv m { x with reset := none, settle := some until_, low := 0 } p)
  else if st = cvInjecting then setConv m { x with reset := none, settle := some until_ } p
  else if st = cvArmed ∧ (x.reset.isSome ∨ x.settle.isSome) then setConv m { x with reset := none, settle := some until_, low := 0 } p
  else setConv m x p

/-- The main inputs are restored as an input selection change (R387, R401, R406). -/
def restoreMain (m : Nat) (p : Part) : Part :=
  let x := conv p m
  let p := setConv m { x with job := .main, settle := none } p
  blank m settleInput true false (setConvSt m cvBlanked p)

/-- An excitation change by a write or a flip: lead results before it are not used any more; the flags of a lead result
that was not used stay on the main results until the next (R370, R373). -/
def excChange (m us : Nat) (p : Part) : Part :=
  blank m us true false (setConv m { conv p m with lead := none } p)

/-- The converters a mask names. -/
def maskConvs (mask : Nat) : List Nat := (List.range 4).filter (bit mask)

/-- Converters of a pair's mask see an excitation change. -/
def pairChange (mask us : Nat) (p : Part) : Part := forEach (maskConvs mask) (fun m q => excChange m us q) p

/-- The range in force steps to `r`: a change of the front end (R365, R367). -/
def rangeStep (m r : Nat) (p : Part) : Part :=
  blank m settleRange false true (bump (0x8000 + m) 0xD (wr (0x8000 + m) 0xB r p))

/-! ### Injected conversions and calibrations (R399 to R406) -/

/-- Injected and calibration status. -/
def injSt (p : Part) (m : Nat) : Nat := rd p (0x805C + m) 5
def hkCalSt (p : Part) (m : Nat) : Nat := rd p (0x8060 + m) 2
def setInj (m st cause : Nat) (p : Part) : Part := wr (0x805C + m) 6 cause (wr (0x805C + m) 5 st p)
def setHkCal (m st cause : Nat) (p : Part) : Part := wr (0x8060 + m) 3 cause (wr (0x8060 + m) 2 st p)

/-- A calibration begins: the inputs leave the sensor pins (R405). -/
def hkCalBegin (m : Nat) (p : Part) : Part :=
  setConvSt m cvCalibrating (setConv m { conv p m with job := .main, reset := none, settle := none, calAt := p.clk.rp, newCal := none } p)

/-- A calibration ends FAILED or ABORTED: the table stays, and the main inputs are restored where it had begun (R406). -/
def hkCalEnd (m st cause : Nat) (p : Part) : Part :=
  let p := setConv m { conv p m with newCal := none } (setHkCal m st cause p)
  if convSt p m = cvCalibrating then restoreMain m p else p

/-- The calibration's grant of completion: the new table is active, and the main inputs are restored where the converter
has not been stopped since (R387, R406). -/
def hkCalDone (m : Nat) (p : Part) : Part :=
  match (conv p m).newCal with
  | some t =>
    let p := setConv m { conv p m with cal := t, newCal := none } p
    let p := bump (0x8060 + m) 5 (wr (0x8060 + m) 4 (now p) (setHkCal m 2 0 p))
    if convSt p m = cvCalibrating then restoreMain m p else p
  | none => p

/-- An injected conversion ends: a calibration that waited for it begins at once; otherwise the main inputs are
restored where it had begun (R401, R404). -/
def injEnd (m st cause : Nat) (p : Part) : Part :=
  let begun := convSt p m == cvInjecting
  let p := setInj m st cause p
  if hkCalSt p m = 6 then hkCalBegin m (setConv m { conv p m with exc := true } (setHkCal m 1 0 p))
  else if begun then restoreMain m p else p

/-- A committed change of chain settings: the operations pending on the converter end, and it is blanked (R391, R402,
R406). -/
def chainChanged (m : Fin 4) (p : Part) : Part :=
  let p := onlyIf (hkCalSt p m == 6) (setHkCal m 5 3) p
  let p := onlyIf (injSt p m == 1) (injEnd m 4 3) p
  let p := onlyIf (hkCalSt p m == 1) (raiseFailure (.hkCal m) 3) p
  loopsHold m (blank m settleInput true false p)

/-! ### Committed writes of chapters 13 and 14 -/

/-- The pins the sources of a pair drive. -/
def drives (p : Part) (n : Nat) : List Nat := [rd p (0x8010 + n) 2, rd p (0x8010 + n) 3]

/-- Compliance bits of sources that drive nothing are clear (R368). -/
def tidyCompliance (n : Nat) (p : Part) : Part :=
  let c := rd p (0x8010 + n) 7
  let off := rd p (0x8010 + n) 1 == 0
  let swap := rd p (0x8010 + n) 6 == 1
  let pin := fun (b : Bool) => rd p (0x8010 + n) (if b != swap then 3 else 2)
  let c := if off || pin false == 0xFF then clrBit c 0 else c
  let c := if off || pin true == 0xFF then clrBit c 1 else c
  wr (0x8010 + n) 7 c p

/-- A pair's orientation is set; a flip is a routing change (R369, R370). -/
def orient (n o : Nat) (p : Part) : Part :=
  if rd p (0x8010 + n) 6 = o then p
  else pairChange (rd p (0x8010 + n) 5) settleRoute (tidyCompliance n (wr (0x8010 + n) 6 o p))

/-- An entry of a pair has been written (R368 to R370). -/
def pairWritten (n sub old : Nat) (p : Part) : Part :=
  let v := rd p (0x8010 + n) sub
  let mask := rd p (0x8010 + n) 5
  if v = old then p
  else if sub = 1 then pairChange mask (settleLevel v) (tidyCompliance n p)
  else if sub = 2 ∨ sub = 3 then pairChange mask settleRoute (tidyCompliance n p)
  else if sub = 4 then (if v < 2 then orient n v p else p)
  else if sub = 5 then pairChange (v ^^^ old) settleRoute p
  else p

/-- An entry of a converter's inputs has been written (R365, R370, R372). -/
def inputWritten (m sub old : Nat) (p : Part) : Part :=
  let v := rd p (0x8000 + m) sub
  if v = old then p
  else if sub = 1 ∨ sub = 2 then loopsHold m (excChange m settleInput p)
  else if sub = 3 then
    let p := setConv m { conv p m with job := if (conv p m).job = .lead then .main else (conv p m).job, mains := 0 } p
    loopsHold m (excChange m settleInput p)
  else if sub = 9 then loopsHold m (excChange m settleBurnout p)
  else if sub = 7 ∨ sub = 8 then
    (if rd p (0x8000 + m) 7 = 0 ∧ rd p (0x8000 + m) 0xB ≠ rd p (0x8000 + m) 8 then
      loopsHold m (rangeStep m (rd p (0x8000 + m) 8) p) else p)
  else p

/-- EXCITATION_CHANGE (R370): a write of an entry whose change is one. -/
def execExcitationChange (rq : Rq) (idx sub value : Nat) (s : State) : Outcome :=
  runCtl (fun p =>
    if 0x8010 ≤ idx ∧ idx ≤ 0x8013 ∧ 1 ≤ sub ∧ sub ≤ 5 then
      ownWrite rq idx sub value (pairWritten (idx - 0x8010) sub) p
    else if 0x8000 ≤ idx ∧ idx ≤ 0x8003 ∧ (sub = 1 ∨ sub = 2 ∨ sub = 3 ∨ sub = 9) then
      ownWrite rq idx sub value (inputWritten (idx - 0x8000) sub) p
    else p) s

/-- A committed write of a chain setting, of the value it had too, is a change of the front end (R391). -/
def chainWritten (m : Fin 4) (sub : Nat) (p : Part) : Part := if 5 < sub then p else chainChanged m p

/-- CHAIN_SETTINGS_WRITE (R391). -/
def execChainSettingsWrite (rq : Rq) (m : Fin 4) (sub value : Nat) (s : State) : Outcome :=
  runCtl (fun p => if 1 ≤ sub ∧ sub ≤ 6 then ownWrite rq (0x8050 + m) sub value (fun _ => chainWritten m sub) p else p) s

/-- The settling time has elapsed: a synchronising reset at the next sample (R387, R401). -/
def settled (m : Nat) (p : Part) : Part :=
  let x := conv p m
  let st := convSt p m
  match x.settle with
  | some r =>
    if st = cvBlanked ∨ st = cvInjecting ∨ st = cvArmed then
      let p := advanceRp (gridUp r) p
      let p := syncReset m (gridUp r) p
      if st = cvBlanked then setConvSt m cvRunning p else p
    else p
  | none => p

/-- CONVERTER_SETTLED (R387). -/
def execConverterSettled (m : Fin 4) (s : State) : Outcome := run (settled m.val) s

/-! ### Starting and stopping (R387) -/

/-- A start request is REJECTED: an empty mask, or a converter that calibrates or injects. -/
def startRejected (p : Part) : Bool :=
  let mask := rd p 0x8054 1
  mask == 0 || (maskConvs mask).any fun m => convSt p m == cvCalibrating || convSt p m == cvInjecting

/-- The start event: a synchronising reset of the converters that wait for it or run; the others keep blanking. -/
def startEvent (ms : List Nat) (p : Part) : Part :=
  let r := p.clk.rp
  let p := forEach ms (fun m q =>
    let st := convSt q m
    if st = cvArmed ∧ (conv q m).settle.isSome then setConvSt m cvBlanked q
    else if st = cvStopped ∨ st = cvArmed ∨ st = cvRunning then setConvSt m cvRunning (syncReset m r q)
    else q) p
  wr 0x8054 5 (now p) (wr 0x8054 6 2 p)

/-- Start now: the event is the first sample after the commit. -/
def startNow (p : Part) : Part :=
  if startRejected p then wr 0x8054 6 5 p
  else
    let p := advanceRp (gridUp (p.clk.rp + 1)) p
    startEvent (maskConvs (rd p 0x8054 1)) p

/-- CONVERTER_START_NOW (R387). -/
def execConverterStartNow (rq : Rq) (s : State) : Outcome := runCtl (ownWrite rq 0x8054 2 1 fun _ => startNow) s

/-- Start at compare: the converters of the mask are armed, or the request is REJECTED. -/
def startAtCompare (p : Part) : Part :=
  if startRejected p || before (rd p 0x8054 3) (now p) then wr 0x8054 6 5 p
  else
    let mask := rd p 0x8054 1
    let p := forEach (maskConvs mask) (fun m q =>
      if convSt q m = cvStopped ∨ convSt q m = cvRunning then setConvSt m cvArmed q else q) p
    wr 0x8054 6 1 { p with hk := { p.hk with armed := mask } }

/-- CONVERTER_START_AT_COMPARE (R387). -/
def execConverterStartAtCompare (rq : Rq) (s : State) : Outcome :=
  runCtl (ownWrite rq 0x8054 2 2 fun _ => startAtCompare) s

/-- The first sample at or after the compare time. -/
def compareEvent (p : Part) : Part :=
  if rd p 0x8054 6 = 1 then
    let p := advanceTo (rd p 0x8054 3) p
    let p := advanceRp (gridUp p.clk.rp) p
    let ms := maskConvs p.hk.armed
    startEvent ms { p with hk := { p.hk with armed := 0 } }
  else p

/-- CONVERTER_START_EVENT (R387). -/
def execConverterStartEvent (s : State) : Outcome := run compareEvent s

/-- One converter stops: its injected conversion and its calibration end (R402, R406). -/
def stopOne (m : Fin 4) (p : Part) : Part :=
  if convSt p m = cvStopped then p
  else
    let p := onlyIf (hkCalSt p m == 6) (setHkCal m 5 3) p
    let p := onlyIf (injSt p m == 1) (setInj m 4 3) p
    let p := onlyIf (hkCalSt p m == 1) (raiseFailure (.hkCal m) 3) p
    setConvSt m cvStopped (setConv m { conv p m with reset := none, settle := none, k := 0, job := .main } p)

/-- Stop: every converter of the mask; an armed start with none left fails. -/
def stopMask (p : Part) : Part :=
  let mask := rd p 0x8054 1
  let p := forEach ((List.finRange 4).filter fun (m : Fin 4) => bit mask m.val) stopOne p
  let left := (maskConvs p.hk.armed).filter fun m => !bit mask m
  if rd p 0x8054 6 = 1 ∧ left = [] then wr 0x8054 6 4 { p with hk := { p.hk with armed := 0 } }
  else { p with hk := { p.hk with armed := p.hk.armed - (p.hk.armed &&& mask) } }

/-- CONVERTER_STOP (R387). -/
def execConverterStop (rq : Rq) (s : State) : Outcome := runCtl (ownWrite rq 0x8054 2 3 fun _ => stopMask) s

/-! ### Requests (R399, R404) -/

/-- An injected conversion is requested. -/
def injRequest (m : Nat) (p : Part) : Part :=
  let st := convSt p m
  if st = cvStopped ∨ st = cvArmed then setInj m 5 1 p
  else if hkCalSt p m = 1 ∨ hkCalSt p m = 6 then setInj m 5 2 p
  else setInj m 1 0 p

/-- INJECTED_REQUEST (R399). -/
def execInjectedRequest (rq : Rq) (m : Fin 4) (s : State) : Outcome :=
  runCtl (ownWrite rq (0x805C + m) 1 1 fun _ => injRequest m) s

/-- A calibration is requested. -/
def hkCalRequest (m : Nat) (p : Part) : Part :=
  let st := convSt p m
  if st = cvStopped ∨ st = cvArmed then setHkCal m 5 4 p
  else if injSt p m = 1 then setHkCal m 6 0 p
  else setHkCal m 1 0 p

/-- HK_CALIBRATION_REQUEST (R404): one refused while another is pending is counted in 8068h + m.04. -/
def execHkCalibrationRequest (rq : Rq) (m : Fin 4) (s : State) : Outcome :=
  runCtl (ownWrite rq (0x8060 + m) 1 1 fun _ => hkCalRequest m) s

/-- HK_CALIBRATION_ABORT (R406). -/
def execHkCalibrationAbort (rq : Rq) (m : Fin 4) (s : State) : Outcome :=
  runCtl (fun p => abortWrite rq (0x8060 + m) 1 2 (.hkCal m) (hkCalSt p m) (setHkCal m 3 0) p) s

/-- The ring period at which a calibration's last measurement ends (R405). -/
def hkCalEndAt (x : Conv) (c : ChainCfg) : Nat :=
  (List.range 16).foldl (fun t _ => gridUp (t + usOf settleInput) + ((firstValid c + 15) * c.r - 1) * samplePeriod) x.calAt

/-- Sixteen results' sum. -/
def sum16 (l : List Int) : Int := (l.take 16).foldl (· + ·) 0

/-- o_r and e_r of a range from its offset and gain results (R405); no gain where the source is not seen. -/
def hkTerms (off gain : List Int) : Int × Int :=
  let o := roundDiv (sum16 off) 16
  let d := sum16 gain - 16 * o
  (o, if d ≤ 0 then 2 ^ 20 else roundDiv (2 ^ 20 * 262144 * 16) d.toNat - 2 ^ 20)

/-- The table that a calibration's results give. -/
def hkTable (rs : List (List Int)) : List Int :=
  (List.range 8).flatMap fun r => let t := hkTerms (rs.getD (2 * r) []) (rs.getD (2 * r + 1) []); [t.1, t.2]

/-- The last measurement of a calibration ends: the new table waits for its grant, or the calibration fails (R406).
`rs` holds the results of the sixteen measurements in order, with calibration terms 0. -/
def hkCalComplete (m : Fin 4) (rs : List (List Int)) (p : Part) : Part :=
  let x := conv p m
  if convSt p m = cvCalibrating ∧ hkCalSt p m = 1 ∧ unsettled p (.hkCal m) = true then
    let p := advanceRp (hkCalEndAt x (chainSet p m)) p
    let t := hkTable (rs.map fun l => l.map clampX)
    let big := fun (i : Nat) (lim : Nat) => (List.range 8).any fun r => decide (lim < (t.getD (2 * r + i) 0).natAbs)
    if big 0 8192 then raiseFailure (.hkCal m) 1 p
    else if big 1 52428 then raiseFailure (.hkCal m) 2 p
    else raiseCompletion (.hkCal m) (setConv m { x with newCal := some t } p)
  else p

/-- HK_CALIBRATION_COMPLETE (R406). -/
def execHkCalibrationComplete (m : Fin 4) (results : List (List Int)) (s : State) : Outcome :=
  run (hkCalComplete m results) s

end Sys2Proof.Machine
end

