-- ==== Sys2Proof/Machine/Housekeep.lean ====
section
/-! DEFINITION. Results of the housekeeping converters, autoranging, lead compensation, open-wire flags, compliance and
the loop outputs (R364 to R382, R395 to R402). -/
namespace Sys2Proof.Machine

/-! ### Loop outputs (R377 to R382) -/

/-- A loop output, and setting it. -/
def loopOut (p : Part) (j : Nat) : LoopOut := tget {} p.hk.loops j
def setLoop (j : Nat) (x : LoopOut) (p : Part) : Part := { p with hk := { p.hk with loops := tput {} p.hk.loops j x } }
def loopSt (p : Part) (j : Nat) : Nat := rd p (0x8048 + j) 1
def loopCause (p : Part) (j : Nat) : Nat := rd p (0x8048 + j) 2
def loopSource (p : Part) (j : Nat) : Nat := rd p (0x8040 + j) 2

/-- State, cause and code of a loop. -/
def driveLoop (j st cause code : Nat) (p : Part) : Part :=
  wr (0x8040 + j) 9 code (wr (0x8048 + j) 2 cause (wr (0x8048 + j) 1 st p))

/-- The fault level (R379). -/
def faultLevel (p : Part) (j : Nat) : Nat := if rd p (0x8040 + j) 5 = 1 then rd p (0x8040 + j) 6 else 9000

/-- FAULT with a cause; an entry into it is counted (R379). -/
def loopFault (j cause : Nat) (p : Part) : Part :=
  let p := onlyIf (loopSt p j != 4) (bump (0x8040 + j) 0xB) p
  driveLoop j 4 cause (if cause = 4 then 0 else faultLevel p j) p

/-- The loop keeps its code in HOLD (R379). -/
def loopHold (j : Nat) (p : Part) : Part := driveLoop j 3 0 (rd p (0x8040 + j) 9) p

/-- The code of R378: rounded to nearest, halves up, and clamped. -/
def loopCode (p : Part) (j : Nat) (v : Int) : Int :=
  let lo := s32 (rd p (0x8040 + j) 3)
  let hi := s32 (rd p (0x8040 + j) 4)
  let num := 40000 * (v - lo)
  let den := hi - lo
  let (num, den) := if den < 0 then (-num, -den) else (num, den)
  10000 + (2 * num + den) / (2 * den)

/-- The loop shows a scaled value, in NORMAL or SATURATED (R378). -/
def loopShow (j : Nat) (v : Int) (p : Part) : Part :=
  let c := loopCode p j v
  let k := (max 9500 (min 51250 c)).toNat
  driveLoop j (if c < 9500 ∨ 51250 < c then 2 else 1) 0 k p

/-- A clipped result: 9,500 or 51,250 by its sign, exchanged on a falling loop (R379). -/
def loopClip (j : Nat) (x : Int) (p : Part) : Part :=
  let falling := decide (s32 (rd p (0x8040 + j) 4) < s32 (rd p (0x8040 + j) 3))
  driveLoop j 2 0 (if decide (0 < x) != falling then 51250 else 9500) p

/-- The loop takes a result of its source: the first row of R379 that it meets. In FAULT for cause 1 or 2 only an OPEN
result or a clean one acts. -/
def loopTake (j : Nat) (x v : Int) (open_ suspect clip : Bool) (p : Part) : Part :=
  let st := loopSt p j
  if st = 0 ∨ (st = 4 ∧ loopCause p j = 4) then p
  else
    let p := setLoop j { loopOut p j with last := p.clk.rp } p
    if open_ then loopFault j 1 p
    else if suspect then (if st = 4 then p else loopHold j p)
    else if clip then (if st = 4 then p else loopClip j x p)
    else loopShow j v p

/-- The code that shows the health level (R380). -/
def loopHealth (j level : Nat) (p : Part) : Part :=
  if level = 0 then driveLoop j 1 0 50000 p
  else if level = 1 then driveLoop j 1 0 30000 p
  else loopFault j 3 p

/-- Loops that show the health level follow it (R380). -/
def healthLoops (p : Part) : Part :=
  forEach (List.range 2) (fun j q =>
    if loopSource q j = 4 ∧ loopSt q j ≠ 0 ∧ ¬(loopSt q j = 4 ∧ loopCause q j = 4) then loopHealth j (rd q 0x1000 1) q
    else q) p

/-- The loop starts (R382): an enabled one drives the fault level until its source delivers, or shows its source. -/
def loopStart (j : Nat) (p : Part) : Part :=
  let p := setLoop j { last := p.clk.rp, checked := (loopOut p j).checked } p
  if rd p (0x8040 + j) 1 = 0 then driveLoop j 0 0 0 p
  else if loopSource p j = 5 then driveLoop j 1 0 (rd p (0x8040 + j) 7) p
  else if loopSource p j = 4 then loopHealth j (rd p 0x1000 1) p
  else loopFault j 2 p

/-- An entry of a loop has been written (R379, R380, R382). -/
def loopWritten (j sub old : Nat) (p : Part) : Part :=
  let v := rd p (0x8040 + j) sub
  let dead := loopSt p j == 0 || (loopSt p j == 4 && loopCause p j == 4)
  if v = old then p
  else if sub = 1 then loopStart j p
  else if dead then p
  else if sub = 2 then
    let p := setLoop j { loopOut p j with last := p.clk.rp } p
    if v = 5 then driveLoop j 1 0 (rd p (0x8040 + j) 7) p
    else if v = 4 then loopHealth j (rd p 0x1000 1) p
    else if loopSt p j = 4 then driveLoop j 4 2 (faultLevel p j) p
    else loopHold j p
  else if sub = 5 ∨ sub = 6 then (if loopSt p j = 4 then driveLoop j 4 (loopCause p j) (faultLevel p j) p else p)
  else if sub = 7 then (if loopSource p j = 5 then driveLoop j 1 0 v p else p)
  else p

/-- No result for the source timeout (R379). -/
def sourceTimeout (j : Nat) (p : Part) : Part :=
  let st := loopSt p j
  if 4 ≤ loopSource p j ∨ st = 0 ∨ (st = 4 ∧ (loopCause p j = 2 ∨ loopCause p j = 4)) then p
  else loopFault j 2 (advanceRp ((loopOut p j).last + rd p (0x8040 + j) 8 * msRp) p)

/-- LOOP_SOURCE_TIMEOUT (R379). -/
def execLoopSourceTimeout (j : Fin 2) (s : State) : Outcome := run (sourceTimeout j.val) s

/-- The check of a loop's current, each millisecond (R377, R381). -/
def currentCheck (j measured : Nat) (p : Part) : Part :=
  let x := loopOut p j
  let p := advanceRp (x.checked + msRp) p
  let x := { x with checked := p.clk.rp }
  let p := wr (0x8048 + j) 3 measured p
  let code := rd p (0x8040 + j) 9
  if code = 0 then setLoop j { x with below := 0, above := 0, within := 0 } p
  else
    let near := decide (measured ≤ code + 750 ∧ code ≤ measured + 750)
    let x := { x with below := if measured + 750 < code then x.below + 1 else 0, above := if code + 1250 < measured then x.above + 1 else 0, within := if near then x.within + 1 else 0 }
    let p := setLoop j x p
    let p := onlyIf (decide (10 ≤ x.below) && rd p (0x8048 + j) 4 == 0) (fun p => bump (0x8040 + j) 0xA (wr (0x8048 + j) 4 1 p)) p
    let p := onlyIf (decide (10 ≤ x.within)) (wr (0x8048 + j) 4 0) p
    onlyIf (decide (10 ≤ x.above)) (fun p => loopFault j 4 (setLoop j { x with below := 0, above := 0, within := 0 } p)) p

/-- LOOP_CURRENT_CHECK (R381). -/
def execLoopCurrentCheck (j : Fin 2) (measured : Nat) (s : State) : Outcome := run (currentCheck j.val (measured % 65536)) s

/-! ### Open wires and compliance (R368, R374 to R376) -/

/-- The pin a detector watches: the positive or negative input the converter is connected to. -/
def watchedPin (p : Part) (m : Nat) (high : Bool) : Nat :=
  match (conv p m).job with
  | .main => rd p (0x8000 + m) (if high then 1 else 2)
  | .lead => rd p (0x8000 + m) (if high then 4 else 5)
  | .injected => (conv p m).injSet.getD (if high then 0 else 1) 0

/-- A trip of this detector has not been released. -/
def tripOpen (p : Part) (m : Nat) (high : Bool) : Bool :=
  (conv p m).trips.any fun t => t.high == high && t.stop.isNone

/-- A detector trips (R375, R376). -/
def wireTrip (dt m : Nat) (high : Bool) (p : Part) : Part :=
  let p := advance dt p
  if bit (rd p (0x8000 + m) 0xA) (if high then 0 else 1) && decide (watchedPin p m high ≤ 0x1F) &&
      convSt p m != cvCalibrating && !tripOpen p m high then
    let p := setConv m { conv p m with trips := (conv p m).trips ++ [{ high, start := p.clk.rp }] } p
    onlyIf (rd p 0x8020 (m + 1) == 0) (wr 0x8020 (m + 1) 1) p
  else p

/-- OPEN_WIRE_TRIP (R375). -/
def execOpenWireTrip (dt : Nat) (m : Fin 4) (high : Bool) (s : State) : Outcome := run (wireTrip dt m.val high) s

/-- The pin has been within its limit for 1 ms: the release time is the start of that millisecond (R375). -/
def wireRelease (dt m : Nat) (high : Bool) (p : Part) : Part :=
  let p := advance dt p
  if tripOpen p m high then
    let ts := (conv p m).trips.map fun t =>
      if t.high == high && t.stop.isNone then { t with stop := some (max t.start (p.clk.rp - msRp)) } else t
    let p := setConv m { conv p m with trips := ts } p
    onlyIf (rd p 0x8020 (m + 1) == 2 && ts.all fun t => t.stop.isSome) (wr 0x8020 (m + 1) 1) p
  else p

/-- OPEN_WIRE_RELEASE (R375). -/
def execOpenWireRelease (dt : Nat) (m : Fin 4) (high : Bool) (s : State) : Outcome := run (wireRelease dt m.val high) s

/-- The pin a source of a pair drives (R369). -/
def drivenPin (p : Part) (n : Nat) (b : Bool) : Nat := rd p (0x8010 + n) (if b != (rd p (0x8010 + n) 6 == 1) then 3 else 2)

/-- A source cannot hold its current (R368). -/
def complianceLost (n : Nat) (b : Bool) (p : Part) : Part :=
  let i := if b then 1 else 0
  if rd p (0x8010 + n) 1 ≠ 0 ∧ drivenPin p n b ≠ 0xFF ∧ !bit (rd p (0x8010 + n) 7) i ∧ p.pow.phase ≠ .powerFail then
    bump (0x8010 + n) 8 (wr (0x8010 + n) 7 (setBit (rd p (0x8010 + n) 7) i) p)
  else p

/-- COMPLIANCE_LOSS (R368). -/
def execComplianceLoss (n : Fin 4) (b : Bool) (s : State) : Outcome := run (complianceLost n.val b) s

/-- COMPLIANCE_REGAINED (R368). -/
def execComplianceRegained (n : Fin 4) (b : Bool) (s : State) : Outcome :=
  run (fun p => wr (0x8010 + n) 7 (clrBit (rd p (0x8010 + n) 7) (if b then 1 else 0)) p) s

/-! ### Results (R364 to R373, R376, R395 to R402) -/

/-- A result's span in ring periods: its first sample's instant, and one sample period after its last (R392). -/
def spanFrom (x : Conv) (k : Nat) : Nat := x.reset.getD 0 + (k * x.chain.r - spanLen x.chain) * samplePeriod
def spanTo (x : Conv) (k : Nat) : Nat := x.reset.getD 0 + k * x.chain.r * samplePeriod

/-- The result the chain forms next: those before k1 only where settling results are delivered (R393). -/
def nextK (p : Part) (m : Nat) : Nat :=
  let x := conv p m
  if x.job = .main ∧ rd p (0x8050 + m) 6 = 1 then x.k + 1 else max (x.k + 1) (firstValid x.chain)

/-- The span contains the trip or the release (R376). -/
def tripInSpan (a b : Nat) (t : Trip) : Bool :=
  decide (a ≤ t.start ∧ t.start < b) || (match t.stop with | some r => decide (a ≤ r ∧ r < b) | none => false)

/-- The whole span lies after the trip and before the release (R376). -/
def spanOpen (a b : Nat) (t : Trip) : Bool :=
  decide (t.start < a) && (match t.stop with | some r => decide (b ≤ r) | none => true)

/-- What a formed result is: its place, raw value and the flags of its span. -/
structure Formed where
  k : Nat
  x : Int
  range : Nat
  clip : Bool
  suspect : Bool
  open_ : Bool
  iosc : Bool

/-- The calibration terms o_r and e_r in use. -/
def calTerms (x : Conv) (r : Nat) : Int × Int := (x.cal.getD (2 * r) 0, x.cal.getD (2 * r + 1) 0)

/-- The range a result is taken at. -/
def resultRange (p : Part) (m : Nat) : Nat :=
  match (conv p m).job with
  | .main => rd p (0x8000 + m) 0xB
  | .lead => rd p (0x8000 + m) 0xC
  | .injected => (conv p m).injSet.getD 2 0

/-- Some sample of the span [a, b) was taken while the oscillator ran the ring in `o` (R385). -/
def sampledIn (a b : Nat) (o : Span) : Bool :=
  let s := a + ceilDiv (o.start - a) samplePeriod * samplePeriod
  decide (s < b) && (match o.stop with | some e => decide (s < e) | none => true)

/-- The chain forms a result from the modulator's bits, of which the last kR are samples since the reset (R364, R386,
R389); `clip` is the sign of a voltage beyond the full
scale of range 0. -/
def form (m : Nat) (bs : List Bool) (clip : Option Bool) (p : Part) : Formed :=
  let x := conv p m
  let k := nextK p m
  let r := resultRange p m
  let t := calTerms x r
  let v := match clip with
    | some pos => if pos then fullScale else -fullScale
    | none => calibrated (normalised x.chain (chainOut x.chain (bs.drop (bs.length - k * x.chain.r)))) t.1 t.2
  let a := spanFrom x k
  let b := spanTo x k
  { k, x := v, range := r, clip := clip.isSome,
    suspect := x.trips.any (tripInSpan a b),
    open_ := x.trips.any (spanOpen a b),
    iosc := p.ref.osc.any (sampledIn a b) }

/-- The first OPEN result of each trip is counted, and trips released before the span are over (R376). -/
def noteTrips (m : Nat) (f : Formed) (p : Part) : Part :=
  let x := conv p m
  let a := spanFrom x f.k
  let b := spanTo x f.k
  let fresh := x.trips.filter fun t => spanOpen a b t && !t.counted
  let ts := (x.trips.filter fun t => match t.stop with | some r => decide (a ≤ r) | none => true).map fun t =>
    if spanOpen a b t then { t with counted := true } else t
  bumpBy fresh.length (0x8000 + m) 0xE (setConv m { x with trips := ts } p)

/-- The converter's standing after a result (R376). -/
def standing (m : Nat) (suspect open_ : Bool) (p : Part) : Part :=
  wr 0x8020 (m + 1) (if open_ then 2 else if suspect then 1 else if (conv p m).trips.isEmpty then 0 else 1) p

/-- R373: the main result less the lead result, in the main range. -/
def compensated (xm : Int) (rm : Nat) (xl : Int) (rl : Nat) : Int :=
  clampX (xm - (xl * (2 ^ rm : Nat) + (2 ^ rl / 2 : Nat)) / (2 ^ rl : Nat))

/-- Some pair that serves the converter is swapped (R369). -/
def swapped (p : Part) (m : Nat) : Bool :=
  (List.range 4).any fun n => bit (rd p (0x8010 + n) 5) m && rd p (0x8010 + n) 6 == 1

/-- A flag at its place in the record. -/
def flagAt (b : Bool) (i : Nat) : Nat := if b then 2 ^ i else 0

/-- The record's value, range, and the flags a result has of itself (R396). -/
def recordBits (x : Int) (range : Nat) (first settling exc rng clip swap lead suspect open_ inj iosc : Bool) : Nat :=
  ofSigned 20 x * 2 ^ 60 + range % 8 * 2 ^ 57 + flagAt first 54 + flagAt settling 53 + flagAt exc 52 + flagAt rng 51 + flagAt clip 50 +
    flagAt swap 49 + flagAt lead 48 + flagAt suspect 47 + flagAt open_ 46 + flagAt inj 45 + flagAt iosc 44

/-- A delivery writes the record whole, with READY, OVERRUN and the next sequence, and the span-end time (R396 to
R398); main and injected results are counted in 8068h + m.01. -/
def deliverResult (m rec : Nat) (settling : Bool) (p : Part) : Part :=
  let unread := bit (rd p (0x8058 + m) 1) 56
  let seq := (rd p (0x8058 + m) 3 + 1) % 2 ^ 20
  let p := onlyIf unread (bump (0x8068 + m) 2) p
  let p := wr (0x8058 + m) 1 (rec + 2 ^ 56 + flagAt unread 55 + seq * 2 ^ 20) p
  onlyIf (!settling) (bump (0x8068 + m) 1) (wr (0x8058 + m) 3 seq (wr (0x8058 + m) 2 (now p) p))

/-- Loops take a main result (R378, R379). -/
def loopsTake (m : Nat) (x v : Int) (open_ suspect clip : Bool) (p : Part) : Part :=
  forEach (List.range 2) (fun j q => if loopSource q j = m then loopTake j x v open_ suspect clip q else q) p

/-- Autoranging on a main result (R365, R366). -/
def autorange (m : Nat) (xm : Int) (p : Part) : Part :=
  let x := conv p m
  let r := rd p (0x8000 + m) 0xB
  if rd p (0x8000 + m) 7 ≠ 1 ∨ rd p 0x8020 (m + 1) ≠ 0 then setConv m { x with low := 0 } p
  else if 471860 ≤ xm.natAbs ∧ 0 < r then rangeStep m (r - 1) (setConv m { x with low := 0 } p)
  else if xm.natAbs ≤ 104857 ∧ r < 7 then
    (if x.low = 3 then rangeStep m (r + 1) (setConv m { x with low := 0 } p) else setConv m { x with low := x.low + 1 } p)
  else setConv m { x with low := 0 } p

/-- Alternating pairs whose lowest-numbered converter this is flip (R369). -/
def alternate (m : Nat) (p : Part) : Part :=
  forEach (List.range 4) (fun n q =>
    if rd q (0x8010 + n) 4 = 2 ∧ (maskConvs (rd q (0x8010 + n) 5)).head? = some m then orient n (1 - rd q (0x8010 + n) 6) q
    else q) p

/-- An injected conversion begins: it connects the pair at the range that its entries hold now (R401). DEDUCED (log
114): a write of these entries after its beginning is for the next conversion. -/
def injBegin (m : Nat) (p : Part) : Part :=
  let set := [2, 3, 4].map fun i => rd p (0x805C + m) i
  let p := setConv m { conv p m with job := .injected, injSet := set } (setConvSt m cvInjecting p)
  blank m settleInput false false p

/-- The converter turns to its lead pair (R372). -/
def leadBegin (m : Nat) (p : Part) : Part :=
  blank m settleInput true false (setConv m { conv p m with job := .lead, mains := 0 } p)

/-- What follows a main result: an injected conversion or a calibration that waited, or else the lead measurement that
is due (R372, R400, R404). -/
def afterMain (m : Nat) (p : Part) : Part :=
  let free := convSt p m == cvRunning || convSt p m == cvBlanked
  let n := (conv p m).mains + 1
  let p := setConv m { conv p m with mains := n } p
  if free && injSt p m == 1 then injBegin m p
  else if free && hkCalSt p m == 1 && unsettled p (.hkCal (Fin.ofNat 4 m)) then hkCalBegin m p
  else if rd p (0x8000 + m) 3 = 1 ∧ rd p (0x8000 + m) 6 ≤ n then leadBegin m p
  else p

/-- A main or settling result (R365 to R373, R393 to R398). -/
def mainResult (m : Nat) (f : Formed) (p : Part) : Part :=
  let x := conv p m
  let k1 := firstValid x.chain
  let settling := decide (f.k < k1)
  let first := decide (f.k = k1)
  let three := rd p (0x8000 + m) 3 == 1 && !settling
  let extra := if three then x.leadFlags else 0
  let clip := f.clip || bit extra 0
  let suspect := f.suspect || bit extra 1
  let open_ := f.open_ || bit extra 2
  let lead := three && x.lead.isSome
  let v := match x.lead with
    | some l => if three then compensated f.x f.range l.1 l.2 else f.x
    | none => f.x
  let p := deliverResult m (recordBits v f.range first settling (first && x.exc) (first && x.rng) clip (swapped p m) lead suspect open_ false f.iosc) settling p
  let p := onlyIf first (fun p => setConv m { conv p m with exc := false, rng := false } p) p
  let p := standing m suspect open_ p
  if settling then p
  else afterMain m (alternate m (autorange m f.x (loopsTake m v (v * (2 ^ (7 - f.range) : Nat)) open_ suspect clip p)))

/-- A lead result: it is reported, counted, and used unless it is flagged (R372, R373). -/
def leadResult (m : Nat) (f : Formed) (p : Part) : Part :=
  let p := bump (0x8000 + m) 0x10 (wr (0x8000 + m) 0xF (ofSigned 20 f.x) p)
  let flags := (if f.clip then 1 else 0) + (if f.suspect then 2 else 0) + (if f.open_ then 4 else 0)
  let x := conv p m
  let x := if flags = 0 then { x with lead := some (f.x, f.range), leadFlags := 0 } else { x with leadFlags := flags }
  blank m settleInput true false (setConv m { x with job := .main } p)

/-- The injected result: it is FIRST, and carries the tags of the changes since the last result (R371, R394, R401). -/
def injResult (m : Nat) (f : Formed) (p : Part) : Part :=
  let x := conv p m
  let p := deliverResult m (recordBits f.x f.range true false x.exc x.rng f.clip (swapped p m) false f.suspect f.open_ true f.iosc) false p
  let p := setConv m { conv p m with exc := false, rng := false } p
  injEnd m 2 0 (standing m f.suspect f.open_ p)

/-- A converter's chain forms its next result and delivers it (R396). -/
def resultDelivery (m : Nat) (bs : List Bool) (clip : Option Bool) (p : Part) : Part :=
  let st := convSt p m
  let x := conv p m
  if x.reset.isSome && (st == cvRunning || st == cvArmed || st == cvInjecting) then
    let f := form m bs clip p
    let p := advanceRp (spanTo x f.k - samplePeriod) p
    let p := noteTrips m f (setConv m { x with k := f.k } p)
    match x.job with
    | .main => mainResult m f p
    | .lead => leadResult m f p
    | .injected => injResult m f p
  else p

/-- RESULT_DELIVERY (R396). -/
def execResultDelivery (m : Fin 4) (mod : List Bool) (clip : Option Bool) (s : State) : Outcome :=
  run (resultDelivery m.val mod clip) s

/-- A read of the result record clears READY; a read with READY clear is counted (R397). -/
def recordRead (m : Nat) (p : Part) : Part :=
  let r := rd p (0x8058 + m) 1
  if bit r 56 then wr (0x8058 + m) 1 (clrBit r 56) p else bump (0x8068 + m) 3 p

end Sys2Proof.Machine
end

