-- ==== Sys2Proof/Machine/Transom.lean ====
section
/-! DEFINITION. The transom: installation, confirmation and reversion of a trigger table, and the moves of the
trigger table and the dictionary shadows between regions (R259, R491 to R495). -/
namespace Sys2Proof.Machine

/-- Set where the transom stands. -/
def setTransom (x : Transom) (p : Part) : Part := { p with acq := { p.acq with trans := x } }

/-- The transom is BUSY. -/
def transomBusy (p : Part) : Bool := rd p 0x9021 2 == 1

/-- The table that takes effect at the next boundary. -/
def tableNext (image : List Nat) (p : Part) : Part := { p with acq := { p.acq with pendTab := some image } }

/-- The transom's status and cause. -/
def transomStatus (st cause : Nat) (p : Part) : Part := wr 0x9021 4 0 (wr 0x9021 3 cause (wr 0x9021 2 st p))

/-- An installation begins (R491, R492): the ROM default table takes effect at the next boundary. -/
def transomBegin (image : List Nat) (p : Part) : Part :=
  setTransom { p.acq.trans with stage := .committed, image } (tableNext [] (transomStatus 1 0 p))

/-- The installation ends with a status and a cause. -/
def transomEnd (st cause : Nat) (p : Part) : Part :=
  setTransom { p.acq.trans with stage := .none, image := [] } (transomStatus st cause p)

/-- A failed installation: the ROM default table takes effect at the next boundary (R493). -/
def transomFailed (cause : Nat) (p : Part) : Part := tableNext [] (transomEnd 4 cause (bump 0x9021 7 p))

/-- What the outputs have sent by 3032h. -/
def requestsSent (p : Part) : List Nat := (List.range 8).map fun j => rd p 0x3032 (j + 1)

/-- Uncorrectable units counted in the trigger-table region. -/
def tableErrs (p : Part) : Nat := rd p (0x7020 + activeRegion p 0) 3

/-- A boundary `b`, as the last of `n` reached together: a table that waits takes effect, and the confirmation window
counts down (R177, R492, R493). -/
def transomBoundary (b n : Nat) (p : Part) : Part :=
  let left := rd p 0x9021 4
  let p := onlyIf (p.acq.trans.stage == .window) (wr 0x9021 4 (left - n)) p
  match p.acq.pendTab with
  | none => p
  | some image =>
    let p := { p with acq := { p.acq with pendTab := none } }
    match p.acq.trans.stage with
    | .committed => setTransom { p.acq.trans with stage := .writing } (tableEffect [] b p)
    | .readBack =>
      let p := wr 0x9021 4 (image.getD 2 0) (tableEffect image b p)
      setTransom { p.acq.trans with stage := .window, errs := tableErrs p, sent := requestsSent p } p
    | _ => if image.isEmpty && p.acq.tab.image.isEmpty then p else tableEffect image b p

/-- The management controller's block code (R75). -/
def managementCode : Nat := 0x0A00

/-- The addresses of the first `n` words of a region's cells in service. -/
def freshPlaces (p : Part) (r n : Nat) : List Nat := if r < 16 then (List.range n).map (serviceAddr p r) else []

/-- The addresses of the words of the trigger table (0) or of the shadows (1) in the region in use. -/
def placesOf (p : Part) (w : Nat) : List Nat := tget [] p.mem.places w

/-- The words of an image are written at their places. -/
def writeImage (as : List Nat) (ws : List FWord) (p : Part) : Part := writeList managementCode (as.zip ws) p

/-- What was read back is what was written, and no word of it is poisoned (R492, R493). -/
def imageStands (ws : List FWord) (image : List Nat) : Bool :=
  ws.length == image.length && (ws.zip image).all fun x => !x.1.poison && wv x.1 == x.2 % 2 ^ 20

/-- The read-back of the trigger table from its region, and whether it is the image (R492, R493); `ok` says that the words
reached the controller as they were read. -/
def tableStands (ok : Bool) (image : List Nat) (p : Part) : Bool × Part :=
  let r := readList managementCode (placesOf p 0) p
  (ok && imageStands r.1 image, r.2)

/-- The image is written into the region and read back; a read-back that does not match is written again (R492). -/
def transomReadback (ok : Bool) (p : Part) : Part :=
  let x := p.acq.trans
  match x.stage with
  | .writing =>
    if activeRegion p 0 < 16 then
      let (good, p) := tableStands ok x.image (writeImage (placesOf p 0) (x.image.map fw) p)
      if good then setTransom { x with stage := .readBack } (tableNext x.image p) else p
    else p
  | _ => p

/-- TRANSOM_READBACK (R492). -/
def execTransomReadback (ok : Bool) (s : State) : Outcome := run (transomReadback ok) s

/-- Requests emitted in the window, by 3032h (R493). -/
def windowRequests (p : Part) : Nat :=
  ((requestsSent p).zip p.acq.trans.sent).foldl (fun a x => a + (x.1 - x.2)) 0

/-- The cause for which the window ends without confirmation, `good` saying that the read-back is the image; 0 for none
(R493). -/
def windowCause (p : Part) (good : Bool) : Nat :=
  let x := p.acq.trans
  if x.errs < tableErrs p || !good || !imageOk x.image then 3
  else if rd p 0x9021 5 ≠ 0 && decide (x.image.getD 2 0 * rd p 0x9021 5 < windowRequests p) then 4
  else 0

/-- The image is written into the store, copy by copy (R493). -/
def storeTable (image : List Nat) (p : Part) : Part :=
  wr 0x9021 8 (image.getD 1 0) (setTransom { p.acq.trans with copy0 := image, copy1 := image } p)

/-- The store is cleared (R494). -/
def clearStore (p : Part) : Part := wr 0x9021 8 0 (setTransom { p.acq.trans with copy0 := [], copy1 := [] } p)

/-- The boundary that ends the confirmation window: the table is confirmed and stored, or it fails (R493). -/
def transomWindowEnd (ok : Bool) (p : Part) : Part :=
  let x := p.acq.trans
  if x.stage = .window ∧ rd p 0x9021 4 = 0 then
    let (good, p) := tableStands ok x.image p
    let c := windowCause p good
    if c = 0 then storeTable x.image (transomEnd 2 0 (bump 0x9021 6 p)) else transomFailed c p
  else p

/-- TRANSOM_WINDOW_END (R493). -/
def execTransomWindowEnd (ok : Bool) (s : State) : Outcome := run (transomWindowEnd ok) s

/-- A revert: the ROM default table takes effect at the next boundary, and the store is cleared; an installation that is
BUSY fails with cause 5 (R494). -/
def transomRevert (p : Part) : Part :=
  let p := onlyIf (transomBusy p) (transomEnd 4 5) p
  clearStore (tableNext [] p)

/-- TRANSOM_REVERT (R494). -/
def execTransomRevert (rq : Rq) (s : State) : Outcome := runCtl (ownWrite rq 0x9021 1 1 fun _ => transomRevert) s

/-- The store's table: the copy whose words sum to 0 and whose table id is higher; empty for none (R495). -/
def storedTable (p : Part) : List Nat :=
  let good := fun (c : List Nat) => c.length == 573 && sum20 c == 0
  let a := p.acq.trans.copy0
  let b := p.acq.trans.copy1
  if good a && (!good b || decide (b.getD 1 0 ≤ a.getD 1 0)) then a else if good b then b else []

/-! ### Moves between regions (R259) -/

/-- Set the move of the trigger table (0) or the shadows (1). -/
def setMove (w : Nat) (m : Option Move) (p : Part) : Part := { p with mem := { p.mem with moves := tput none p.mem.moves w m } }

/-- A move runs. -/
def moving (p : Part) (w : Nat) : Bool := (tget none p.mem.moves w).isSome

/-- How many words the trigger table and the shadows take (R174, R247). -/
def useLen (w : Nat) : Nat := if w = 0 then 573 else 4096

/-- The present contents of a use: the table in effect; the shadows as their region delivers them, or those in region 0 where
none is named (R259). -/
def contents (w : Nat) (p : Part) : List FWord × Part :=
  if w = 0 then (p.acq.tab.words.map fw, p)
  else if activeRegion p 1 < 16 then readList managementCode (placesOf p 1) p
  else ((List.range 4096).map fun i => fw (Config.shadowWord i), p)

/-- A committed naming: the present contents are copied into the region named; naming the region in use again leaves
nothing to move (R259). -/
def useNamed (w : Nat) (p : Part) : Part :=
  let v := rd p 0x7030 (w + 1)
  if v = activeRegion p w then refreshRegions (setMove w none p)
  else
    let places := freshPlaces p v (useLen w)
    let p := setMove w (some { target := v, since := now p, places }) p
    let (ws, p) := if v < 16 then contents w p else ([], p)
    refreshRegions (writeImage places ws p)

/-- USE_REGION_NAME (R259). -/
def execUseRegionName (rq : Rq) (shadows : Bool) (value : Nat) (s : State) : Outcome :=
  let w := if shadows then 1 else 0
  runCtl (ownWrite rq 0x7030 (w + 1) value fun _ => useNamed w) s

/-- The copy has been written and read back: it is what the old place delivers; where it is not, it is written again (R259). -/
def copyStands (w : Nat) (m : Move) (p : Part) : Bool × Part :=
  if m.target < 16 then
    let (ws, p) := contents w p
    let (us, p) := readList managementCode m.places p
    if us = ws then (true, p) else (false, writeImage m.places ws p)
  else (true, p)

/-- The switch at the first boundary after the copy: the old region is released. With no region named the engine runs
the ROM default table from that boundary, and an installation in progress fails with cause 3 (R247, R259). -/
def useSwitch (w : Nat) (p : Part) : Part :=
  match tget none p.mem.moves w with
  | some m =>
    if p.clk.anyB && before m.since p.clk.lastB then
      let (good, p) := copyStands w m p
      if good then
        let p := setMove w none { p with mem := { p.mem with active := tput 16 p.mem.active w m.target, places := tput [] p.mem.places w m.places } }
        let none_ := w == 0 && decide (16 ≤ m.target)
        let p := onlyIf (none_ && transomBusy p) (fun p => bump 0x9021 7 (transomEnd 4 3 p)) p
        let p := onlyIf (none_ && !p.acq.tab.image.isEmpty) (tableEffect [] p.clk.lastB) p
        refreshRegions p
      else p
    else p
  | none => p

/-- USE_REGION_SWITCH (R259). -/
def execUseRegionSwitch (shadows : Bool) (s : State) : Outcome := run (useSwitch (if shadows then 1 else 0)) s

end Sys2Proof.Machine
end

