-- ==== Sys2Proof/Machine/Frame.lean ====
section
/-! DEFINITION. The frame boundary: committed settings take effect, and what is keyed to a boundary runs
(R82 to R84, R96, R113, R120, R147 to R154, R190, R212, R259, R563). -/
namespace Sys2Proof.Machine

/-- The values of an entry before and after a boundary differ. -/
def differs (a b : Part) (idx sub : Nat) : Bool := eff a idx sub != eff b idx sub

/-! ### Shutters (R96) -/

/-- A comparator stops recording at the boundary `b`; what stopped it before has taken effect (R84). -/
def stopAtBoundary (n t b : Nat) (shut : Bool) (p : Part) : Part :=
  let p := judgeTo n t b (comp p n t).raw.length p
  setComp n t { stopIfDue n t b (comp p n t) with stopAt := some (b, shut) } p

/-- Shutters at a boundary: the stage takes what is disabled and the maps when it reaches the boundary, and comparators
that a map closes stop recording at it (R84, R96). -/
def shuttersAt (old : Part) (b : Nat) (p : Part) : Part :=
  let off := (List.range 16).filter fun g => eff old (0x2040 + g) 1 == 1 && eff p (0x2040 + g) 1 == 0
  let maps := p.front.maps
  if off.isEmpty && maps.isEmpty then p
  else
    let p := forEach maps (fun m q => forEach (List.range 16) (fun i r =>
      let n := 16 * (m.1 / 4) + i
      if bit m.2 i && !(comp r n (m.1 % 4)).closed then stopAtBoundary n (m.1 % 4) b true r else r) q) p
    let acts := p.front.acts ++ [{ at_ := b, off, maps }]
    applyActs acts { p with front := { p.front with maps := [] } }

/-! ### Comparators (R83, R84) -/

/-- A change at the boundary blanks a comparator that records after it (R83). -/
def blankedBy (a b : Part) (n t : Nat) : Bool :=
  let g := n / 16
  let i := 4 * (n % 16) + t + 1
  compOn b n t &&
    (!compOn a n t || differs a b (0x2010 + g) i || differs a b (0x2020 + g) i ||
      bit (eff a 0x2001 (g + 1)) (n % 16) != bit (eff b 0x2001 (g + 1)) (n % 16) ||
      cutOff a n != cutOff b n)

/-- How long blanking lasts (R83). -/
def blankTk : Nat := 327680

/-- From when a comparator that is blanked at `b` is blanked: blanking in progress goes on (R83). -/
def blankFrom (c : Comp) (b : Nat) : Nat :=
  match c.blank with
  | some (a, e) => if b < e then a else b
  | none => b

/-- One comparator at a boundary: it stops where it is disabled or blanked, once what is stamped before the boundary has
been judged (R83, R84, R109). -/
def comparatorAt (old : Part) (n t b : Nat) (p : Part) : Part :=
  let stop := fun (q : Part) => if compOn old n t then stopAtBoundary n t b false q else q
  if blankedBy old p n t then
    let p := stop p
    setComp n t { comp p n t with blank := some (blankFrom (comp p n t) b, b + blankTk) } p
  else if compOn old n t && !compOn p n t then stop p
  else p

/-- The group whose comparators an entry concerns, if one; 16 for all. -/
def groupTouched (k : Nat) : Option Nat :=
  let idx := k / 256
  let sub := k % 256
  if idx = 0x2000 ∨ idx = 0x2001 then some (sub - 1)
  else if idx = 0x2002 then some ((sub - 1) / 4)
  else if 0x2010 ≤ idx ∧ idx ≤ 0x203F then some (idx % 16)
  else if idx = 0x4021 then some 16
  else none

/-- Every comparator of the groups that settings changed (R82 to R84). -/
def comparatorsAt (old : Part) (b : Nat) (p : Part) : Part :=
  let gs := old.effOld.filterMap fun kv => groupTouched kv.1
  forEach ((List.range 16).filter fun g => gs.contains g || gs.contains 16)
    (fun g q => forEach (groupComps g) (fun nt r => comparatorAt old nt.1 nt.2 b r) q) p

/-! ### Groups (R98, R114, R116) -/

/-- A group at a boundary: its calibration follows its enable (R114, R116), and its generator restarts where its settings
changed (R98). -/
def groupAt (old : Part) (b : Nat) (g : Fin 16) (p : Part) : Part :=
  let was := groupOn old g
  let is := groupOn p g
  let u : CalUnit := .group g
  let p := if was && !is then calDisabled g p
    else if !was && is && eff p 0x2083 3 == 1 then calAuto [u] p
    else p
  if (List.range 7).any fun i => differs old p (0x2030 + g) (i + 1) then
    setGrp g { grp p g with genFrom := b, genLast := none } p
  else p

/-! ### Views (R147 to R154, R156, R190) -/

/-- The frame that ends at a boundary. -/
def endingFrame (b : Nat) : Nat := subMod 80 b frameTk / frameTk

/-- The part takes the frame that ends at `b` (R563). -/
def takesEnding (p : Part) (b : Nat) : Bool := p.clk.anyB && (p.clk.lastB + frameTk) % 2 ^ 80 == b

/-- A summary interval ends with the frame that ends at `b` (R151, R154). -/
def intervalEnds (old p : Part) (v b : Nat) : Bool :=
  (b / frameTk) % max 1 (eff old (0x3000 + v) 6) == 0 || differs old p (0x3000 + v) 1 || differs old p (0x3000 + v) 6 ||
    (List.range 18).any fun i => differs old p (0x2060 + v) (i + 1)

/-- A latency buffer restarts empty at a boundary (R156, R259). -/
def restartBuffer (v b : Nat) (p : Part) : Part :=
  wr (0x3010 + v) 5 b (setView v { view p v with lat := [], latAt := 0 } p)

/-- A view at a boundary: the frame that ends, a change of mode, and the frame that opens (R147, R149, R151, R154). -/
def viewAt (old : Part) (b : Nat) (ends opens : Bool) (v : Nat) (p : Part) : Part :=
  let was := viewMode old v
  let is := viewMode p v
  let p := onlyIf (ends && was == 3 && intervalEnds old p v b)
    (fun p => setView v { view p v with frags := onFrag (endingFrame b) (fun f => { f with last := true }) (view p v).frags } p) p
  let p := onlyIf (was == 2 && is != 2) (dropCaptures v) p
  let p := onlyIf (is == 2 && (was != 2 || differs old p (0x3010 + v) 1)) (restartBuffer v b) p
  let p := onlyIf (is == 3 && was != 3) (fun p => setView v { view p v with sumFrom := b } p) p
  onlyIf (opens && frontOn p && (is == 1 || is == 3))
    (fun p => setView v { view p v with frags := (view p v).frags ++ [{ frame := b / frameTk, mode := is, epoch := rd p 0x1110 9 }] } p) p

/-- The event starts of the frame that ends: a Bough's streaming and summary views (R190). -/
def eventStarts (old : Part) (b : Nat) (p : Part) : Part :=
  if isBough p && takesEnding old b then
    forEach (List.range 4) (fun v q =>
      if viewMode old v == 1 || viewMode old v == 3 then eventStart v (endingFrame b) (modeField (viewMode old v)) none q else q) p
  else p

/-! ### Port 15 and latency buffers -/

/-- A change of 4021h.01: the local front end takes the place of port 15 and lane D15 goes out, or the other way round (R212). -/
def localAt (old p : Part) : Part :=
  if localOn p == localOn old then p else enableActs 15 (creditRestart 15 p)

/-- Latency buffers with cells in a bank being withdrawn restart on their remaining cells (R259). -/
def buffersAt (b : Nat) (p : Part) : Part :=
  let rs := (p.mem.held.filter fun kv => (usesOf p kv.1).any fun x => x.2 == useLatency).map (·.1)
  let p := onlyIf (!rs.isEmpty) (fun p => refreshRegions { p with mem := { p.mem with held := p.mem.held.filter fun kv => !rs.contains kv.1 } }) p
  forEach (List.range 4) (fun v q => if rs.contains (eff q (0x3010 + v) 1) then restartBuffer v b q else q) p

/-! ### The boundary -/

/-- REFL ends at the first boundary after relock (R120). -/
def reflAt (b : Nat) (p : Part) : Part :=
  if p.ref.ending then
    let p := { p with ref := { p.ref with ending := false }, front := { p.front with refl := endSpan b p.front.refl } }
    wr 0x20D0 5 b p
  else p

/-- The epoch in force from a boundary (R126). -/
def epochFrom (b : Nat) (p : Part) : Part :=
  let e := rd p 0x1110 9
  if e = ((p.acq.epochs.head?.map (·.2)).getD 0) then p else { p with acq := { p.acq with epochs := (b, e) :: p.acq.epochs } }

/-- System time reaches the boundary `b`, the last of `n` reached together: `ends` says that a frame with ticks counted
ends there, and `opens` that the frame it opens has ticks to come (R82, R338, R563). -/
def boundary (b : Nat) (ends opens : Bool) (n : Nat) (p : Part) : Part :=
  let old := p
  let p := { p with effOld := [], acq := { p.acq with past := if old.effOld.isEmpty then old.acq.past else (b, old.effOld) :: old.acq.past } }
  let changed := !old.effOld.isEmpty
  let p := onlyIf (changed || !p.front.maps.isEmpty) (shuttersAt old b) p
  let p := onlyIf changed (comparatorsAt old b) p
  let p := calBoundary b p
  let p := onlyIf changed (forEach (List.finRange 16) (groupAt old b)) p
  let p := onlyIf (differs old p 0x2083 2) autoRestart p
  let p := reflAt b p
  let p := transomBoundary b n p
  let p := forEach (List.range 4) (viewAt old b ends opens) p
  let p := onlyIf ends (eventStarts old b) p
  let p := onlyIf changed (localAt old) p
  let p := onlyIf (!p.mem.held.isEmpty) (buffersAt b) p
  let p := onlyIf changed (fun p => ivCheckSources (refreshRegions p)) p
  let p := epochFrom b p
  { p with clk := { p.clk with lastB := b, anyB := true } }

/-- The next boundary is reached by counting. -/
def frameBoundary (p : Part) : Part :=
  let b := (p.clk.lastB + frameTk) % 2 ^ 80
  boundary b true true 1 (advanceTo b p)

/-- FRAME_BOUNDARY (R82). -/
def execFrameBoundary (s : State) : Outcome := run frameBoundary s

end Sys2Proof.Machine
end

