-- ==== Sys2Proof/Machine/Time.lean ====
section
/-! DEFINITION. System time: steps, the servo, time transfer over links, and PPS (R333 to R350). -/
namespace Sys2Proof.Machine

/-- Clamp to a bound on either side. -/
def clampTo (m x : Int) : Int := if x < -m then -m else if m < x then m else x

/-- The limit of the rate word (R333), and the hold of a domain switch (R356). -/
def rateLimit : Int := 109951162
def switchHold : Int := 5497

/-- An arithmetic shift right. -/
def asr (x : Int) (k : Nat) : Int := x / (2 ^ k : Nat)

/-- A value saturated to I32. -/
def satI32 (x : Int) : Int := if x < -2147483648 then -2147483648 else if 2147483647 < x then 2147483647 else x

/-! ### Steps (R338, R340) -/

/-- The step is logged and counted (R338, R341). -/
def logStep (t : Nat) (size : Int) (cause : Nat) (p : Part) : Part :=
  let i := rd p 0x6003 1
  let p := { p with clk := { p.clk with steps := ((t, size, cause) :: p.clk.steps).take 8, era := p.clk.era + 1 } }
  bump 0x6001 2 (wr 0x6003 1 (if i = 0xFF then 0 else (i + 1) % 8) p)

/-- The counter moves by `d` tk at the start of a coarse cycle. -/
def moveClock (d : Int) (p : Part) : Part :=
  let fx := (((p.clk.fx : Int) + d * 2 ^ 32) % 2 ^ 112).toNat
  { p with clk := { p.clk with fx, bases := (fx / 2 ^ 32) % 2 ^ 80 :: p.clk.bases.tail } }

/-- Ring periods to the start of the next coarse cycle. -/
def toCoarse (p : Part) : Nat := 8 - p.clk.rp % 8

/-- The boundaries among the times `x` to `y`: the first, and how many. -/
def boundariesIn (x y : Nat) : Nat × Nat :=
  let b := ceilDiv x frameTk * frameTk
  (b, if y < b then 0 else (y - b) / frameTk + 1)

/-- The frame in which a step begins ends the interval of every summary view; where the step stays in the frame, what
is stamped after it belongs to the next interval (R338). -/
def endIntervals (fr : Nat) (cut : Option Nat) (p : Part) : Part :=
  forEach (List.range 4) (fun v q =>
    setView v { view q v with frags := onFrag fr (fun f => if f.mode = 3 then { f with last := true, cut } else f) (view q v).frags } q) p

/-- A compare whose next event was skipped takes the first one not skipped (R338). -/
def skipCompare (c lo hi : Nat) (e : Option Nat) (p : Part) : Option Nat :=
  match e with
  | some t =>
    if subMod 80 t lo < hi - lo then
      let per := rd p 0x2101 (6 + 2 * c)
      if per = 0 then none else some ((t + ceilDiv (subMod 80 hi t) per * per) % 2 ^ 80)
    else some t
  | none => none

/-- Compare events and test pulses whose times are skipped do not occur (R338). -/
def skipEvents (lo hi : Nat) (p : Part) : Part :=
  let p := { p with iv := { p.iv with cmp0 := skipCompare 0 lo hi p.iv.cmp0 p, cmp1 := skipCompare 1 lo hi p.iv.cmp1 p } }
  forEach (List.range 16) (fun g q =>
    match nextPulse q g with
    | some t => if lo ≤ t ∧ t < hi then setGrp g { grp q g with genLast := some (hi - 1) } q else q
    | none => q) p

/-- Boundaries already passed by counting and not yet acted on. -/
def catchUp (t : Nat) (p : Part) : Part :=
  let k := (subMod 80 t p.clk.lastB - 1) / frameTk
  forEach (List.range k) (fun _ q => boundary ((q.clk.lastB + frameTk) % 2 ^ 80) true true 1 q) p

/-- A forward step of `d` tk at the start of the next coarse cycle (R338). -/
def stepForward (d cause : Nat) (p : Part) : Part :=
  let p := advance (toCoarse p) p
  let t := now p
  let p := catchUp t p
  let n := boundariesIn t (t + d)
  let p := endIntervals ((t - 1) / frameTk) (if n.2 = 0 then some (t + d) else none) p
  let p := logStep t d cause (skipEvents t (t + d) (moveClock d p))
  if n.2 = 0 then p
  else if n.2 = 1 then boundary n.1 true true 1 p
  else boundary (n.1 + (n.2 - 1) * frameTk) false true (n.2 - 1) (boundary n.1 true false 1 p)

/-- Spans as they stand after time went back to `t`. -/
def rewindSpans (t : Nat) (l : List Span) : List Span :=
  (l.filter fun s => match s.stop with | some e => decide (e ≤ t) | none => true).map fun s => { s with start := min s.start t }

/-- The edges that an open merge window holds: its leading edge, the leading edges it absorbed with a trailing edge before
each, and, where the output is low, the trailing edge after the last (R85). -/
def windowEdges (c : Comp) : Nat :=
  match c.win with
  | some w => 1 + 2 * w.absorbed + (if c.out then 0 else 1)
  | none => 0

/-- Edges of a comparator stamped at or after `lo` are discarded; with their number (R340). -/
def dropEdges (lo back : Nat) (c : Comp) : Comp × Nat :=
  let keep := fun (l : List Edge) => l.filter fun e => decide (e.stamp < lo)
  let gone := (c.raw.filter fun e => e.live && decide (lo ≤ e.stamp)).length
  let n := gone + (c.pend.length - (keep c.pend).length) + (c.buf.length - (keep c.buf).length) + windowEdges c
  ({ c with out := c.outNow, raw := [], stopAt := none, mute := 0, stageLead := none, win := none, await := none, pend := keep c.pend, buf := keep c.buf, counts := [], blank := c.blank.map fun (a, b) => (a - back, b - back) }, n)

/-- The effects of a backward step from `t` by `d` tk beside the counter's own: edges within 655,360 tk are discarded
and counted, trigger terms and hold-offs restart, and shutter counts restart (R340). What the part keeps by system time
is brought back with it. -/
def backEffects (t d : Nat) (p : Part) : Part :=
  let lo := t - 655360
  let new := t - d
  let p := forEach (p.front.comps.map (·.1)) (fun k q =>
    let c := comp q (k / 4) (k % 4)
    let r := dropEdges lo d c
    bumpBy r.2 0x2053 (k / 64 + 1) (setComp (k / 4) (k % 4) { r.1 with spans := rewindSpans new c.spans } q)) p
  let p := forEach (List.range 16) (fun g q =>
    let x := grp q g
    let late := x.stream.filter fun i => match i with | .edge e => decide (lo ≤ e.stamp) | .mark _ => false
    let keep := x.stream.filter fun i => match i with | .edge e => decide (e.stamp < lo) | .mark _ => false
    bumpBy late.length 0x2053 (g + 1)
      (setGrp g { x with stream := keep, passed := 0, tpSpans := [], genFrom := min x.genFrom new, genLast := none, tab := { x.tab with start := min x.tab.start new } } q)) p
  let f := p.front
  let p := { p with front := { f with acts := f.acts.map (fun (a : ShutAct) => { a with at_ := min a.at_ new }), lossLog := [], blankLog := [], refl := rewindSpans new f.refl, tunl := rewindSpans new f.tunl, uncal := tmap [{ start := 0 }] (rewindSpans new) f.uncal } }
  let a := p.acq
  let p := { p with acq := { a with tab := { a.tab with stamps := [], lastFire := [] }, oldTab := none, tabFrom := min a.tabFrom new, past := [], epochs := (a.epochs.take 1).map fun (e : Nat × Nat) => (min e.1 (new / frameTk * frameTk), e.2) } }
  { p with cal := { p.cal with aux := { p.cal.aux with start := min p.cal.aux.start new }, quads := tmap {} (fun (x : BinTab) => { x with start := min x.start new }) p.cal.quads } }

/-- A backward step of `d` tk at the start of the next coarse cycle (R340). -/
def stepBack (d : Nat) (p : Part) : Part :=
  let p := advance (toCoarse p) p
  let t := now p
  let d := min d t
  let p := logStep t (-(d : Int)) 2 (backEffects t d (moveClock (-(d : Int)) p))
  { p with clk := { p.clk with lastB := (t - d) / frameTk * frameTk } }

/-- A step is applied, and the servo enters ACQUIRE; averaging restarts (R336, R338, R340). -/
def applyStep (d : Int) (cause : Nat) (p : Part) : Part :=
  let p := restartAverage (setServo servoAcquire p)
  if d < 0 then stepBack d.natAbs p else stepForward d.natAbs cause p

/-! ### The servo (R336, R337, R356) -/

/-- The rate word's bounds: those of R333, and while a domain switch is BUSY those around a_s. -/
def boundRate (p : Part) (a : Int) : Int :=
  let a := clampTo rateLimit a
  match p.tim.switchRate with
  | some s => clampTo rateLimit (s + clampTo switchHold (a - s))
  | none => a

/-- The transfer offset moves toward zero; at zero the switch is DONE and its hold ends (R356). -/
def slewOffset (ts : Nat) (p : Part) : Part :=
  if rd p 0x6040 2 = 1 then
    let o := s32 (rd p 0x6040 5)
    let m : Int := ts * 32768 * rd p 0x6040 4 / 10 ^ 11
    let o := if o < 0 then min 0 (o + m) else max 0 (o - m)
    let p := wr 0x6040 5 (ofI32 o) p
    if o = 0 then wr 0x6040 2 2 { p with tim := { p.tim with switchRate := none } } else p
  else p

/-- The proportional and integral update of R337; p is a free value where no ring period has passed. -/
def piUpdate (th : Int) (ts : Nat) (p : Part) : Part :=
  let (f, p) := if ts = 0 then drawFree p else (0, p)
  let x : Int := if ts = 0 then toSigned 64 f else th * 2 ^ 24 / ts
  let i := freqEst p + asr x (rd p 0x6000 6)
  let a := -(asr x (rd p 0x6000 5) + clampTo rateLimit i)
  let beyond := decide (clampTo rateLimit i ≠ i ∨ clampTo rateLimit a ≠ a)
  let p := setRate (boundRate p a) (setFreq (clampTo rateLimit i) p)
  bump 0x6001 1 (onlyIf beyond (bump 0x6001 3) p)

/-- The state after an update: LOCKED after eight within the lock threshold (R336). -/
def lockCount (th : Int) (p : Part) : Part :=
  if servoState p = servoAcquire then
    let n := if th.natAbs ≤ 256 * rd p 0x6000 7 then p.tim.run + 1 else 0
    if 8 ≤ n then setServo servoLocked p else { p with tim := { p.tim with run := n } }
  else p

/-- An update with |θ| beyond the unlock threshold leaves LOCKED (R336). -/
def lockLoss (th : Int) (p : Part) : Part :=
  if servoState p = servoLocked ∧ 256 * rd p 0x6000 8 < th.natAbs then setServo servoAcquire (bump 0x6001 4 p) else p

/-- A measurement is applied (R337, R340, R356). -/
def applyMeas (th : Int) (p : Part) : Part :=
  let ts := p.clk.rp - p.tim.last
  let p := { p with tim := { p.tim with last := p.clk.rp } }
  let switching := rd p 0x6040 2 == 1
  let p := slewOffset ts p
  let th := if switching then th - s32 (rd p 0x6040 5) else th
  let p := wr 0x6000 0xA (ofI32 (satI32 th)) p
  let thr : Int := 256 * rd p 0x6000 9
  if p.tim.reacq then
    applyStep (roundDiv (-th) 256) 2 { p with tim := { p.tim with reacq := false } }
  else
    let p := lockLoss th p
    if th < -thr ∧ rd p 0x6040 2 ≠ 1 then applyStep (roundDiv (-th) 256) 1 p
    else if thr < th then lockCount th (setRate (boundRate p (-rateLimit)) p)
    else lockCount th (piUpdate th ts p)

/-- The servo takes its next measurement: in HOLDOVER it reports it, and may leave; in FREE there is none
(R335 to R337, R358). -/
def servoUpdate (p : Part) : Part :=
  match p.tim.meas with
  | [] => p
  | th :: t =>
    let p := { p with tim := { p.tim with meas := t } }
    if servoState p = servoHoldover then leaveHoldover (wr 0x6000 0xA (ofI32 (satI32 th)) p)
    else if servoState p = servoFree then p
    else applyMeas th p

/-- SERVO_UPDATE (R337). -/
def execServoUpdate (s : State) : Outcome := run servoUpdate s

/-- A measurement waits for the servo, and its source is usable. -/
def measure (th : Int) (p : Part) : Part := { p with tim := { p.tim with meas := p.tim.meas ++ [th], lost := false } }

/-- A committed source (R335, R336). -/
def sourceWritten (old : Nat) (p : Part) : Part :=
  let new := rd p 0x6000 4
  let free := decide (servoState p = servoFree)
  if new = old ∧ !free then p
  else
    let p := onlyIf free (setFreq 0) p
    let p := { p with tim := { p.tim with meas := [], lost := false, lastPaired := if new = 1 then some p.clk.rp else none } }
    noteInUse (setServo (if new = 0 then servoFree else servoAcquire) p)

/-- TIME_SOURCE_WRITE (R335). -/
def execTimeSourceWrite (rq : Rq) (v : Nat) (s : State) : Outcome :=
  runCtl (ownWrite rq 0x6000 4 v sourceWritten) s

/-- A forced acquisition (R340). -/
def reacquire (p : Part) : Part :=
  let p := setServo servoAcquire (setFreq 0 p)
  { p with tim := { p.tim with reacq := true } }

/-- REACQUIRE_REQUEST (R340). -/
def execReacquireRequest (rq : Rq) (s : State) : Outcome := runCtl (ownWrite rq 0x6000 0xC 1 fun _ => reacquire) s

/-! ### Time probes (R342 to R347) -/

/-- α in 1/256 tk, by rate code and lane (R344). -/
def asymmetry (rate lane : Nat) : Int :=
  if lane < 24 then [4672, 3712, 3136, 2816, 2560].getD rate 2560 else [5504, 4288, 3456, 3008, 2688].getD rate 2688

/-- One probe's θ and d, both in 1/512 tk, from its four stamps (R344). -/
def probeOffset (t1 t2 t3 t4 : Nat) (al c : Int) : Int × Int :=
  let f := 256 * diffMod 80 t2 t1
  let b := 256 * diffMod 80 t4 t3
  (f - b - al - c, f + b)

/-- An average is complete: it is a measurement, or its delay has jumped (R346). -/
def averaged (p : Part) : Part :=
  let n := 2 ^ p.tim.avgM
  let th := roundDiv p.tim.avgTh (2 * n)
  let d := roundDiv p.tim.avgD (2 * n)
  let jump := match p.tim.refD with | some r => decide (256 * rd p 0x6010 5 < (d - r).natAbs) | none => false
  let p := restartAverage { p with tim := { p.tim with refD := some d } }
  if jump then bump 0x6010 0xA (bump 0x6001 6 p)
  else measure th (wr 0x6010 7 (min d.toNat (2 ^ 32 - 1)) p)

/-- A probe is paired with the child's own stamps, or not; paired ones are averaged, over as many as the exponent asked for
as the average began (R345, R346, R361). -/
def timeProbe (k : Nat) (ws : List Nat) (p : Part) : Part :=
  if k < 16 ∨ rd p 0x6000 4 ≠ 1 then p
  else
    let x := link p k
    let at_ := fun (l : List (Nat × Nat)) (c : Nat) => (l.find? fun m => m.1 == c).map (·.2)
    let here := ofWords ((ws.drop 1).take 3)
    let there := ofWords ((ws.drop 8).take 3)
    match at_ x.rxMarks here, at_ x.txMarks there with
    | some t2, some t3 =>
      if k = rd p 0x6010 6 ∧ there ≠ 2 ^ 60 - 1 then
        let l := x.lanes.headD 16
        let r := probeOffset (ofWords ((ws.drop 4).take 4)) t2 t3 (ofWords ((ws.drop 11).take 4))
          (asymmetry (rd p (0x5020 + l) 3) l) (s20 (rd p 0x6010 (k - 13)))
        let y := p.tim
        let m := if y.avgN = 0 then rd p 0x6010 2 else y.avgM
        let p := bump 0x6010 8 { p with tim := { y with avgN := y.avgN + 1, avgM := m, avgTh := y.avgTh + r.1, avgD := y.avgD + r.2, lastPaired := some p.clk.rp } }
        if 2 ^ m ≤ p.tim.avgN then averaged p else p
      else bump 0x6010 9 p
    | _, _ => bump 0x6010 9 p

/-- TIME_PROBE_RECEIVED (R345); one that the link's state does not allow, or that holds a poisoned word, is discarded and
counted (R300, R304). -/
def execTimeProbeReceived (k : Fin 18) (pois : Bool) (ws : List Nat) (s : State) : Outcome :=
  run (fun p =>
    if !carriesTime p k then bump (0x5120 + k) 9 p
    else if pois then packetDefect k.val p
    else timeProbe k.val ws p) s

/-- No paired probe for 20 ms, counted from the commit of source 1 where none has come since: the source is lost (R347). A
tier-0 part has no parent, and stays in ACQUIRE (R335). -/
def probeLost (p : Part) : Part :=
  match p.tim.lastPaired with
  | some r =>
    if rd p 0x6000 4 = 1 ∧ rd p 0x1100 2 ≠ 0 then
      let p := advanceRp (r + 20 * msRp) p
      holdover { p with tim := { p.tim with lost := true, lastPaired := none } }
    else p
  | none => p

/-- PROBE_SOURCE_LOST (R347). -/
def execProbeSourceLost (s : State) : Outcome := run probeLost s

/-! ### PPS (R349, R350) -/

/-- A second in ticks (R349). -/
def secTk : Nat := 327680000000

/-- An edge's offset from second `n`, in 1/256 tk (R11, R349). -/
def ppsOffset (p : Part) (x n : Nat) : Int := 256 * diffMod 80 x (n * secTk % 2 ^ 80) - s32 (rd p 0x6020 3)

/-- The second nearest to a stamp. -/
def nearestSecond (p : Part) (x : Nat) : Nat := (roundDiv (256 * (x : Int) - s32 (rd p 0x6020 3)) (256 * secTk)).toNat

/-- A good edge marks second `n` and is measured (R349). -/
def ppsGood (x n : Nat) (p : Part) : Part :=
  let p := { p with tim := { p.tim with ppsWait := none, ppsNext := some (n + 1) } }
  let p := bump 0x6020 6 (wr 0x6020 5 1 (wr 0x6020 2 (n % 2 ^ 40) p))
  if rd p 0x6000 4 = 2 then measure (ppsOffset p x n) p else p

/-- A PPS edge: the first after a second number is written is good; then an edge is judged by its expected time, and
after a loss the nearest second is taken (R349, R350). -/
def ppsEdge (rising : Bool) (tap : Nat) (h : Bool) (p : Part) : Part :=
  if (rd p 0x6020 1 == 0) == rising then
    let x := auxStamp p .pps tap h
    match p.tim.ppsWait, p.tim.ppsNext with
    | some s, _ => ppsGood x s p
    | none, some e =>
      let n := nearestSecond p x
      if rd p 0x6020 5 = 0 then ppsGood x n p
      else if e ≤ n ∧ (ppsOffset p x n).natAbs ≤ 256 * rd p 0x6020 4 then ppsGood x n p
      else bump 0x6020 7 p
    | none, none => p
  else p

/-- PPS_EDGE (R350). -/
def execPpsEdge (dt : Nat) (rising : Bool) (tap : Fin 64) (h : Bool) (s : State) : Outcome :=
  run (fun p => ppsEdge rising tap.val h (advance dt p)) s

/-- Two expected times pass without a good edge (R350). -/
def ppsLoss (p : Part) : Part :=
  match p.tim.ppsNext with
  | some e =>
    if rd p 0x6020 5 = 1 then
      let due := (256 * ((e + 1) * secTk : Nat) + s32 (rd p 0x6020 3)) / 256 + rd p 0x6020 4 + 1
      let p := advanceTo due.toNat p
      let p := bump 0x6020 8 (wr 0x6020 5 0 p)
      if rd p 0x6000 4 = 2 then holdover p else p
    else p
  | none => p

/-- PPS_LOSS (R350). -/
def execPpsLoss (s : State) : Outcome := run ppsLoss s

/-- A PPS second number is written: the next edge is its first, and the entry goes on reading the second of the last good
edge until then (R349, R361). -/
def ppsSecondWritten (old : Nat) (p : Part) : Part :=
  wr 0x6020 2 old { p with tim := { p.tim with ppsWait := some (rd p 0x6020 2), ppsNext := none } }

end Sys2Proof.Machine
end

