-- ==== Sys2Proof/Machine/Ptp.lean ====
section
/-! DEFINITION. PTP at a Trunk: the two instances, their masters and windows, the domain switch, and the other frames
that reach X0 and X1 (R351 to R357). -/
namespace Sys2Proof.Machine

/-- An instance, and setting it. -/
def ptpInst (p : Part) (d : Nat) : Ptp := if d = 0 then p.tim.ptp0 else p.tim.ptp1
def setPtp (d : Nat) (x : Ptp) (p : Part) : Part :=
  { p with tim := if d = 0 then { p.tim with ptp0 := x } else { p.tim with ptp1 := x } }

/-- A setting of an instance (6030h + d), and its port state (6038h + d.01): 0 DISABLED, 1 LISTENING, 2 UNCALIBRATED,
3 SLAVE. -/
def ptpSet (p : Part) (d sub : Nat) : Nat := rd p (0x6030 + d) sub
def ptpState (p : Part) (d : Nat) : Nat := rd p (0x6038 + d) 1
def setPtpState (d st : Nat) (p : Part) : Part :=
  let p := onlyIf (ptpState p d == 3 && st != 3) (fun p => setPtp d { ptpInst p d with left := true } p) p
  wr (0x6038 + d) 1 st p

/-- A change to an instance's settings restarts it; its last estimate stays (R355, R357). -/
def ptpRestart (d : Nat) (p : Part) : Part :=
  let p := setPtpState d (if ptpSet p d 1 = 1 then 1 else 0) p
  setPtp d { left := (ptpInst p d).left, theta := (ptpInst p d).theta } p

/-! ### Timestamps (R343, R352, R353) -/

/-- Transmit and receive corrections of a port's mode, in tk (R352). -/
def txCorrection (p : Part) (x : Nat) : Int := if rd p 0x5080 (x + 1) = 1 then 1152 else 2304
def rxCorrection (p : Part) (x : Nat) : Int := if rd p 0x5080 (x + 1) = 1 then 1536 else 3072

/-- An ingress and an egress timestamp of port x, in 1/256 tk, from the Q6 latch (R352). -/
def ingress (p : Part) (x tap : Nat) (h : Bool) : Int :=
  256 * (quadStamp p (0x18 + x) tap h : Int) - 256 * rxCorrection p x - s20 (rd p 0x6050 (2 * x + 2))
def egress (p : Part) (x tap : Nat) (h : Bool) : Int :=
  256 * (quadStamp p (0x18 + x) tap h : Int) + 256 * txCorrection p x + s20 (rd p 0x6050 (2 * x + 1))

/-- A difference of times in 1/256 tk, modulo that of the counter (R11, R353). -/
def diffT256 (x : Int) : Int := toSigned 88 (x % 2 ^ 88).toNat

/-- PTP seconds and nanoseconds with a correction, to 1/256 tk (R353). -/
def ptpTime (sec ns : Nat) (c : Int) : Int := 256 * secTk * sec + roundDiv ((ns * 65536 + c) * 32) 25

/-- A timestamp in 1/256 tk as PTP seconds, nanoseconds and 2^-16 ns (R353). -/
def toPtp (t : Int) : Nat × Nat × Nat :=
  let k := (t / 256).toNat
  let q := 200 * (k % secTk)
  (k / secTk, q / 65536, q % 65536)

/-! ### The best master (R351) -/

/-- The order of two data sets by the default BMCA: grandmasters by their qualities, the same one by steps removed and
sender (R351). -/
def masterBefore (a b : Master) : Bool :=
  let lex := fun (l : List (Nat × Nat)) => (l.find? fun x => x.1 != x.2).elim false fun x => decide (x.1 < x.2)
  if a.gm = b.gm then lex [(a.steps, b.steps), (a.port, b.port)]
  else lex [(a.prio1, b.prio1), (a.cls, b.cls), (a.acc, b.acc), (a.var, b.var), (a.prio2, b.prio2), (a.gm, b.gm)]

/-- An interval of 2^n seconds in ring periods. -/
def logRp (n : Int) : Nat := if n < 0 then secRp / 2 ^ n.natAbs else secRp * 2 ^ n.toNat

/-- A master qualifies at ring period `r`: two of its Announces came within the last four of its intervals (clause 9.3 of
IEEE 1588, by R351). -/
def qualifies (r : Nat) (m : Master) : Bool :=
  match m.prev with
  | some x => decide (r ≤ x + 4 * logRp m.logInt)
  | none => false

/-- The best of the masters that qualify at ring period `r` (R351). -/
def bestMaster (r : Nat) (l : List Master) : Option Master :=
  (l.filter (qualifies r)).foldl (fun o m => match o with
    | some b => if masterBefore m b then some m else some b
    | none => some m) none

/-- An Announce from a master, and the choice that follows: another master means another window (R351, R355). -/
def ptpAnnounce (d : Nat) (m : PtpMsg) (p : Part) : Part :=
  let x := ptpInst p d
  let old := x.masters.find? fun a => a.port == m.src
  let a : Master := { port := m.src, prio1 := m.prio1, cls := m.cls, acc := m.acc, var := m.var, prio2 := m.prio2, gm := m.gm, steps := m.steps, utc := m.utc, logInt := m.logInt, last := p.clk.rp, prev := old.map (·.last) }
  let ms := a :: x.masters.filter fun b => b.port != m.src
  let p := setPtp d { x with masters := ms } p
  match bestMaster p.clk.rp ms with
  | some b =>
    let p := wr (0x6038 + d) 5 (b.utc % 65536) (wr (0x6038 + d) 2 (b.port / 65536 % 2 ^ 64) p)
    if x.chosen = some b.port then p
    else
      let p := setPtpState d 2 p
      setPtp d { ptpInst p d with chosen := some b.port, wait := none, delay := none, count := 0, msMin := none, exchanges := [], lastSync := p.clk.rp } p
  | none => p

/-! ### Windows (R354 to R356) -/

/-- The other instance's transfer offset is recorded at the new one's window, and the switch is BUSY (R356). -/
def recordTransfer (d : Nat) (th : Int) (p : Part) : Part :=
  match p.tim.switchOld with
  | some (old, was) =>
    let o := satI32 (th - ((ptpInst p old).theta.getD was))
    let p := { p with tim := { p.tim with switchOld := none, switchRate := if o = 0 then none else some p.clk.rate } }
    onlyIf (d != old) (fun p => wr 0x6040 5 (ofI32 o) (wr 0x6040 2 (if o = 0 then 2 else 1) p)) p
  | none => p

/-- A window is complete: the estimate and the mean path delay, the first brings SLAVE, and the selected instance's
windows are the servo's measurements (R354, R355). -/
def windowComplete (d : Nat) (th delay : Int) (p : Part) : Part :=
  let p := wr (0x6038 + d) 4 (min delay.toNat (2 ^ 32 - 1)) (wr (0x6038 + d) 3 (ofI32 (satI32 th)) p)
  let p := bump (0x6038 + d) 8 p
  let p := onlyIf (ptpState p d == 2) (setPtpState d 3) p
  let p := setPtp d { ptpInst p d with theta := some th } p
  if rd p 0x6000 4 = 3 ∧ rd p 0x6040 1 = d then measure th (recordTransfer d th p) else p

/-- The smallest of a list. -/
def minInt : List Int → Option Int
  | [] => none
  | a :: t => match minInt t with | some b => some (min a b) | none => some a

/-- A window ends after W Syncs; with no delay exchange it gives nothing (R354). -/
def windowEnd (d : Nat) (p : Part) : Part :=
  let x := ptpInst p d
  if ptpSet p d 8 ≤ x.count then
    let p := setPtp d { x with count := 0, msMin := none } p
    match x.msMin, minInt x.exchanges with
    | some ms, some sm =>
      if ptpSet p d 4 = 0 then windowComplete d (roundDiv (ms - sm) 2) (roundDiv (ms + sm) 2) p
      else windowComplete d (roundDiv (2 * ms - sm) 2) (roundDiv sm 2) p
    | _, _ => p
  else p

/-- One Sync is used: ms = t2 − t1 − c (R354). -/
def useSync (d : Nat) (ms : Int) (p : Part) : Part :=
  let x := ptpInst p d
  let p := bump (0x6038 + d) 6 (setPtp d { x with wait := none, count := x.count + 1, msMin := some (match x.msMin with | some m => min m ms | none => ms) } p)
  windowEnd d p

/-- A Sync from the master chosen: one-step it is used at once, two-step with its Follow_Up. -/
def ptpSync (d : Nat) (m : PtpMsg) (t2 : Int) (p : Part) : Part :=
  let p := setPtp d { ptpInst p d with lastSync := p.clk.rp, logSync := m.logInt } p
  if m.twoStep then setPtp d { ptpInst p d with wait := some { seq := m.seq, t2, corr := m.corr } } p
  else useSync d (diffT256 (t2 - ptpTime m.sec m.ns m.corr)) p

/-- A Follow_Up completes the Sync it belongs to. -/
def ptpFollowUp (d : Nat) (m : PtpMsg) (p : Part) : Part :=
  match (ptpInst p d).wait with
  | some w => if w.seq = m.seq then useSync d (diffT256 (w.t2 - ptpTime m.sec m.ns (w.corr + m.corr))) p else p
  | none => p

/-- An exchange is complete: its sm, or twice its mean link delay, joins the last W. -/
def addExchange (d : Nat) (v : Int) (p : Part) : Part :=
  let x := ptpInst p d
  setPtp d { x with delay := none, exchanges := (v :: x.exchanges).take (ptpSet p d 8) } p

/-- A Delay_Resp: sm = t4 − t3 − c (R354). -/
def ptpDelayResp (d : Nat) (m : PtpMsg) (p : Part) : Part :=
  match (ptpInst p d).delay with
  | some w => if m.mine && w.seq == m.seq then addExchange d (diffT256 (ptpTime m.sec m.ns (-m.corr) - w.dep)) p else p
  | none => p

/-- A Pdelay_Resp: one-step it carries the turnaround in its correction; two-step its Pdelay_Resp_Follow_Up completes
it. -/
def ptpPdelayResp (d : Nat) (m : PtpMsg) (t4 : Int) (p : Part) : Part :=
  match (ptpInst p d).delay with
  | some w =>
    if m.mine && w.seq == m.seq then
      if m.twoStep then setPtp d { ptpInst p d with delay := some { w with arr := some t4, rcv := ptpTime m.sec m.ns 0, corr := m.corr } } p
      else addExchange d (diffT256 (t4 - w.dep) - ptpTime 0 0 m.corr) p
    else p
  | none => p

/-- The departure of the response completes a two-step peer exchange. -/
def ptpPdelayFollow (d : Nat) (m : PtpMsg) (p : Part) : Part :=
  match (ptpInst p d).delay with
  | some w =>
    match w.arr with
    | some t4 =>
      if m.mine && w.seq == m.seq then
        addExchange d (diffT256 (t4 - w.dep) - (ptpTime m.sec m.ns (w.corr + m.corr) - w.rcv)) p
      else p
    | none => p
  | none => p

/-- A peer's Pdelay_Req is answered, one-step or two-step by 6030h + d.09, with the response leaving at `t3` (R351,
R353). -/
def ptpPdelayReq (d : Nat) (m : PtpMsg) (t2 t3 : Int) (p : Part) : Part :=
  let x := ptpInst p d
  let turn := roundDiv (diffT256 (t3 - t2) * 25) 32
  let (s2, n2, _) := toPtp t2
  let (s3, n3, _) := toPtp t3
  if ptpSet p d 9 = 0 then setPtp d { x with sent := [{ kind := 3, seq := m.seq, corr := m.corr + turn }] } p
  else setPtp d { x with sent := [{ kind := 0xA, seq := m.seq, sec := s3, ns := n3, corr := m.corr }, { kind := 3, seq := m.seq, sec := s2, ns := n2 }] } p

/-- What the part does not support of the messages it receives (R351). -/
def unsupported (m : PtpMsg) : Bool :=
  m.version != 2 || m.kind == .other || (m.kind == .sync && !(decide (-7 ≤ m.logInt) && decide (m.logInt ≤ 4)))

/-- One instance takes a message of its port and domain (R351, R354). -/
def ptpTake (d x : Nat) (m : PtpMsg) (t2 t3 : Int) (p : Part) : Part :=
  if ptpState p d = 0 ∨ ptpSet p d 2 ≠ x ∨ ptpSet p d 3 ≠ m.domain then p
  else if unsupported m || (ptpSet p d 5 == 1) != m.udp then bump (0x6038 + d) 7 p
  else
    let own := (ptpInst p d).chosen == some m.src
    let peer := ptpSet p d 4 == 1
    match m.kind with
    | .announce => if m.steps < 255 then ptpAnnounce d m p else p
    | .sync => if own then ptpSync d m t2 p else p
    | .followUp => if own then ptpFollowUp d m p else p
    | .delayResp => if own && !peer then ptpDelayResp d m p else p
    | .pdelayReq => if peer then ptpPdelayReq d m t2 t3 p else p
    | .pdelayResp => if peer then ptpPdelayResp d m t2 p else p
    | .pdelayRespFollowUp => if peer then ptpPdelayFollow d m p else p
    | .delayReq | .other => p

/-- A PTP message arrives on a port in Ethernet mode; `turn` ring periods later a response could leave (R351). -/
def ptpMessage (x : Nat) (m : PtpMsg) (tap : Nat) (h : Bool) (turn tap2 : Nat) (h2 : Bool) (p : Part) : Part :=
  if rd p 0x5080 (x + 1) = 0 then p
  else
    let t2 := ingress p x tap h
    let t3 := egress (advance turn p) x tap2 h2
    let answers := m.kind == .pdelayReq && (List.range 2).any fun d => ptpState p d != 0 && ptpSet p d 2 == x && ptpSet p d 4 == 1 && ptpSet p d 3 == m.domain
    let p := onlyIf answers (advance turn) p
    ptpTake 1 x m t2 t3 (ptpTake 0 x m t2 t3 p)

/-- PTP_MESSAGE_RECEIVED (R351). -/
def execPtpMessageReceived (dt : Nat) (x : Fin 2) (m : PtpMsg) (tap : Fin 64) (h : Bool) (turn : Nat) (tap2 : Fin 64) (h2 : Bool) (s : State) : Outcome :=
  run (fun p => ptpMessage x.val m tap.val h turn tap2.val h2 (advance dt p)) s

/-- An instance sends a Delay_Req to its master, or a Pdelay_Req, `dt` ring periods after the interval of 6030h + d.07 since
the last one, or, for the first, `dt` from now (R351, R354). -/
def delayRequest (dt d tap : Nat) (h : Bool) (p : Part) : Part :=
  let x := ptpInst p d
  let peer := ptpSet p d 4 == 1
  if ptpState p d != 0 && rd p 0x5080 (ptpSet p d 2 + 1) != 0 && (peer || x.chosen.isSome) then
    let p := advance dt (match x.lastReq with | some r => advanceRp (r + logRp (s20 (ptpSet p d 7))) p | none => p)
    let t := egress p (ptpSet p d 2) tap h
    let n := (x.delaySeq + 1) % 65536
    setPtp d { x with lastReq := some p.clk.rp, delaySeq := n, delay := some { seq := n, dep := t }, sent := [{ kind := if peer then 2 else 1, seq := n }] } p
  else p

/-- PTP_DELAY_REQUEST_SEND (R354). -/
def execPtpDelayRequestSend (dt : Nat) (d : Fin 2) (tap : Fin 64) (h : Bool) (s : State) : Outcome :=
  run (delayRequest dt d.val tap.val h) s

/-- Three intervals without an Announce of the master: LISTENING (R351, R355). -/
def announceTimeout (d : Nat) (p : Part) : Part :=
  let x := ptpInst p d
  match x.masters.find? fun m => x.chosen == some m.port with
  | some m =>
    let p := advanceRp (m.last + 3 * logRp m.logInt) p
    let p := setPtpState d 1 p
    let y := ptpInst p d
    setPtp d { y with masters := y.masters.filter fun a => a.port != m.port, chosen := none, wait := none, delay := none, count := 0, msMin := none, exchanges := [] } p
  | none => p

/-- ANNOUNCE_TIMEOUT (R355). -/
def execAnnounceTimeout (d : Fin 2) (s : State) : Outcome := run (announceTimeout d.val) s

/-- Three Sync intervals without a Sync: UNCALIBRATED (R355). -/
def syncTimeout (d : Nat) (p : Part) : Part :=
  if ptpState p d = 3 then
    let x := ptpInst p d
    let p := advanceRp (x.lastSync + 3 * logRp x.logSync) p
    let p := setPtpState d 2 p
    setPtp d { ptpInst p d with wait := none, count := 0, msMin := none } p
  else p

/-- SYNC_TIMEOUT (R355). -/
def execSyncTimeout (d : Fin 2) (s : State) : Outcome := run (syncTimeout d.val) s

/-! ### Switches between domains (R356, R357) -/

/-- A switch from instance `old` begins: the transfer offset waits for the new instance's window (R356). -/
def beginSwitch (old : Nat) (p : Part) : Part :=
  bump 0x6040 6 { p with tim := { p.tim with switchOld := some (old, (ptpInst p old).theta.getD 0) } }

/-- A committed selection of the other instance (R356). -/
def domainWritten (old : Nat) (p : Part) : Part :=
  if rd p 0x6040 1 = old ∨ rd p 0x6000 4 ≠ 3 then p else beginSwitch old p

/-- DOMAIN_SWITCH_REQUEST (R356). -/
def execDomainSwitchRequest (rq : Rq) (v : Nat) (s : State) : Outcome := runCtl (ownWrite rq 0x6040 1 v domainWritten) s

/-- The selected instance has left SLAVE: the part switches to the other by itself, or holds over (R355, R357). -/
def leftSlave (p : Part) : Part :=
  let d := rd p 0x6040 1
  if (ptpInst p d).left then
    let p := setPtp d { ptpInst p d with left := false } p
    if rd p 0x6000 4 ≠ 3 ∨ ptpState p d = 3 then p
    else if rd p 0x6040 3 = 1 ∧ ptpState p (1 - d) = 3 then beginSwitch d (wr 0x6040 1 (1 - d) p)
    else holdover p
  else p

/-- INSTANCE_LEFT_SLAVE (R357). -/
def execInstanceLeftSlave (s : State) : Outcome := run leftSlave s

/-! ### Other frames (R351) -/

/-- An ARP request for an instance's address is answered; every other frame that is not PTP is discarded and counted. -/
def arpRequest (x : Nat) (arp : Bool) (target asker : Nat) (p : Part) : Part :=
  if rd p 0x5080 (x + 1) = 0 then p
  else if arp && (List.range 2).any fun d => ptpState p d != 0 && ptpSet p d 2 == x && ptpSet p d 5 == 1 && ptpSet p d 6 == target then
    { p with tim := { p.tim with arp := some (x, target, asker) } }
  else bump 0x6050 5 p

/-- ARP_REQUEST (R351). -/
def execArpRequest (x : Fin 2) (arp : Bool) (target asker : Nat) (s : State) : Outcome :=
  run (arpRequest x.val arp target asker) s

end Sys2Proof.Machine
end

