-- ==== Sys2Proof/Machine/Session.lean ====
section
/-! DEFINITION. Sessions and key slots: opening, proving, closing, and keys (R433, R459 to R463, R467, R472). -/
namespace Sys2Proof.Machine

/-! ### Transfers of a session (R431 to R433, R443) -/

/-- An entry of a session's instance of 1420h. -/
def instOf (p : Part) (i sub : Nat) : Nat := tget 0 p.svc.inst (8 * i + sub)
def setInst (i sub v : Nat) (p : Part) : Part := { p with svc := { p.svc with inst := tput 0 p.svc.inst (8 * i + sub) v } }
def transferOf (p : Part) (i : Nat) : Option Transfer := tget none p.svc.transfers i
def setTransfer (i : Nat) (t : Option Transfer) (p : Part) : Part :=
  { p with svc := { p.svc with transfers := tput none p.svc.transfers i t } }
def setSnap (i : Nat) (s : Option Snapshot) (p : Part) : Part := { p with svc := { p.svc with snaps := tput none p.svc.snaps i s } }

/-- The session whose instance a request uses; a command that names no session uses the instance of session 0. -/
def instanceOf (rq : Rq) : Nat := match rq.sess with | some i => i % 8 | none => 0

/-- A transfer ends with a status and a cause. -/
def transferEnd (i st cause : Nat) (p : Part) : Part := setInst i 3 cause (setInst i 2 st (setTransfer i none p))

/-- The operation of a session's transfer. -/
def transferOp (i : Nat) : OpId := .transfer (Fin.ofNat 8 i)

/-- A transfer that runs fails: its failure request is raised (R70, R433). -/
def transferFail (i cause : Nat) (p : Part) : Part :=
  if instOf p i 2 = 1 ∧ unsettled p (transferOp i) = true then raiseFailure (transferOp i) cause p else p

/-- A session's instances are at their defaults (R430, R432). -/
def freshInstance (i : Nat) (p : Part) : Part :=
  let p := { p with svc := { p.svc with windows := tdel p.svc.windows i } }
  setSnap i none (setTransfer i none (forEach [1, 2, 3, 4, 5] (fun s q => setInst i s 0 q) p))

/-! ### Closing (R467) -/

/-- The entries of a session that is closed. -/
def sessionClear (i : Nat) (p : Part) : Part :=
  wr (0x1320 + i) 6 0 (wr (0x1320 + i) 5 0 (wr (0x1320 + i) 4 0 (wr (0x1320 + i) 3 0 (wr (0x1320 + i) 2 0xFF (wr (0x1320 + i) 1 0 p)))))

/-- A session closes: its transfer fails with cause 1; a request in processing is still answered (R467). -/
def closeSession (i : Nat) (p : Part) : Part :=
  if sessSt p i = 0 then p
  else
    let x := session p i
    let p := setSnap i none (onlyIf (sessSt p i == 2) (transferFail i 1) p)
    setSession i (if x.busy.isSome then x else {}) (sessionClear i p)

/-- Every session closes. -/
def closeAllSessions (p : Part) : Part := forEach (List.range 8) closeSession p

/-- SESSION_IDLE_TIMEOUT (R467). -/
def sessionIdle (i : Nat) (p : Part) : Part :=
  if sessSt p i = 2 then
    let p := advanceRp ((session p i).since + rd p 0x1300 3 * secRp) p
    closeSession i (bump 0x1330 6 p)
  else p

def execSessionIdleTimeout (i : Fin 8) (s : State) : Outcome := runCtl (sessionIdle i.val) s

/-- SESSION_CLOSE_WRITE (R467): a write of a session id to 1330h.01. -/
def execSessionCloseWrite (rq : Rq) (i : Fin 8) (s : State) : Outcome :=
  runCtl (ownWrite rq 0x1330 1 i.val fun _ => closeSession i.val) s

/-! ### Opening (R461 to R463) -/

/-- The class of a key slot. -/
def slotClass (p : Part) (s : Nat) : Nat := rd p (0x1310 + s) 3

/-- A session may be allotted: closed, with no request of an earlier holder in processing and no end of its transfer
waiting for its grant. -/
def sessionFree (p : Part) (i : Nat) : Bool :=
  sessSt p i == 0 && (session p i).busy.isNone && (arbOf p (transferOp i)).isEmpty

/-- Classes of the reserve mask, other than one, that hold no open session (R462). -/
def reserved (p : Part) (c : Nat) : Nat :=
  ((List.range 8).filter fun d => decide (1 ≤ d) && bit (rd p 0x1300 4) d && d != c &&
    !((List.range 8).any fun i => sessSt p i == 2 && rd p (0x1320 + i) 3 == d)).length

/-- Why an OPEN is refused; 0 where it is not (R462). -/
def openStatus (p : Part) (s : Nat) : Nat :=
  let free := ((List.range 8).filter (sessionFree p)).length
  if 8 ≤ s ∨ rd p (0x1310 + s) 4 ≠ 1 then 4
  else if (tget none p.svc.locked s).isSome then 6
  else if free = 0 ∨ free - 1 < reserved p (slotClass p s) then 5
  else 0

/-- What the proofs of an opening are made over (R461). -/
def openMessage (p : Part) (s i : Nat) (nh np : List Nat) : List Nat := toOctets 8 (ownSerial p) ++ [s, i] ++ nh ++ np

/-- An OPEN is taken: the lowest free session is challenged with a fresh nonce, or the OPEN is refused (R461, R462). -/
def openTaken (o : Origin) (s : Nat) (nh : List Nat) (p : Part) : Part :=
  let st := openStatus p s
  if st ≠ 0 then sessionError o st 0 (bump 0x1330 3 p)
  else match (List.range 8).find? (sessionFree p) with
    | some i =>
      let (v, p) := drawFree p
      let np := toOctets 16 (v % 2 ^ 128)
      let c := slotClass p s
      let p := setSession i { origin := o, nh, np, since := p.clk.rp } p
      let p := wr (0x1320 + i) 4 o.host (wr (0x1320 + i) 3 c (wr (0x1320 + i) 2 s (wr (0x1320 + i) 1 1 p)))
      answer { o with sess := i } kChallenge ([s, i, c] ++ np) p
    | none => p

/-- An OPEN arrives: it waits its turn with the other requests (R462). -/
def openIn (o : Origin) (s : Nat) (nh : List Nat) (p : Part) : Part :=
  if p.pow.phase = .powerFail then p
  else if svcBusy p then enqueue { rq := { cls := 0 }, idx := s, sub := 0, op := .openSlot nh o, since := p.clk.rp } p
  else openTaken o s nh p

/-- OPEN (R461). -/
def execOpen (o : Origin) (slot : Nat) (nonce : List Nat) (s : State) : Outcome :=
  runCtl (openIn o slot ((nonce.map (· % 256)).take 16)) s

/-- A proof against a slot fails: it is counted, and the fourth in 10 s locks the slot (R461, R463). -/
def proofFailed (s : Nat) (p : Part) : Part :=
  let p := bump (0x1310 + s) 5 p
  let recent := (p.clk.rp :: (tget [] p.svc.badProofs s).filter fun t => decide (p.clk.rp < t + 10 * secRp)).take 4
  if 4 ≤ recent.length then
    bump (0x1310 + s) 6 { p with svc := { p.svc with badProofs := tput [] p.svc.badProofs s [], locked := tput none p.svc.locked s (some p.clk.rp) } }
  else { p with svc := { p.svc with badProofs := tput [] p.svc.badProofs s recent } }

/-- A PROVE is checked: the session opens, or it returns to closed (R461). DESIGN CHOICE (log 115): a PROVE that names another slot
than the OPEN finds no challenge, status 1. -/
def proveIn (o : Origin) (s i : Nat) (proof : List Nat) (p : Part) : Part :=
  if p.pow.phase = .powerFail then p
  else if sessSt p i ≠ 1 ∨ rd p (0x1320 + i) 2 ≠ s then sessionError o 1 0 p
  else
    let x := session p i
    let m := openMessage p s i x.nh x.np
    let k := slotKey p s
    if proof = hmac k (strOpen ++ m) then
      let p := freshInstance i (setSession i { x with origin := o, key := hmac k (strSkey ++ m), since := p.clk.rp, busy := none, last := [] } p)
      let p := bump 0x1330 2 (wr (0x1320 + i) 6 (now p) (wr (0x1320 + i) 5 0 (wr (0x1320 + i) 1 2 p)))
      answer { o with sess := i } kOpened (s :: hmac k (strAcpt ++ m)) p
    else sessionError o 2 0 (proofFailed s (setSession i {} (sessionClear i p)))

/-- PROVE (R461). -/
def execProve (o : Origin) (slot : Nat) (i : Fin 8) (proof : List Nat) (s : State) : Outcome :=
  runCtl (proveIn o slot i.val (proof.map (· % 256))) s

/-- CHALLENGE_TIMEOUT (R461): no PROVE in 1 s. -/
def challengeTimeout (i : Nat) (p : Part) : Part :=
  if sessSt p i = 1 then
    let p := advanceRp ((session p i).since + secRp) p
    setSession i {} (sessionClear i p)
  else p

def execChallengeTimeout (i : Fin 8) (s : State) : Outcome := runCtl (challengeTimeout i.val) s

/-- LOCKOUT_END (R463): 10 s after the lockout. -/
def lockoutEnd (s : Nat) (p : Part) : Part :=
  match tget none p.svc.locked s with
  | some t =>
    let p := advanceRp (t + 10 * secRp) p
    { p with svc := { p.svc with locked := tput none p.svc.locked s none } }
  | none => p

def execLockoutEnd (slot : Fin 8) (s : State) : Outcome := runCtl (lockoutEnd slot.val) s

/-! ### Keys (R460) -/

/-- The key as it is stored: the written value without its wrapping under the writing session's key. -/
def unwrapped (p : Part) (rq : Rq) (v : Nat) : Nat :=
  match rq.sess with
  | some i => if v < 2 ^ 256 then v ^^^ ofOctets (hmac (session p i).key (strWrap ++ toOctets 3 rq.seq)) else v
  | none => v

/-- A key has been written: the slot's state follows, and its sessions close (R460). -/
def keyWritten (s : Nat) (p : Part) : Part :=
  let p := wr (0x1310 + s) 4 (if rd p (0x1310 + s) 1 = 0 then 2 else 1) p
  let p := wr 0 7 ((List.range 8).filter fun j => rd p (0x1310 + j) 4 == 1).length p
  forEach (List.range 8) (fun i q => if sessSt q i = 2 ∧ rd q (0x1320 + i) 2 = s then closeSession i q else q) p

/-- A write of a key: one that waits its turn waits as it was written, and is unwrapped when it is taken (R415, R460). -/
def keyWrite (rq : Rq) (slot value : Nat) (p : Part) : Part :=
  if p.pow.phase = .powerFail then p
  else if svcBusy p || journalState p == 1 then enqueue { rq, idx := 0x1310 + slot, sub := 1, op := .write value, since := p.clk.rp } p
  else ownWrite rq (0x1310 + slot) 1 (unwrapped p rq value) (fun _ => keyWritten slot) p

/-- KEY_WRITE (R460). -/
def execKeyWrite (rq : Rq) (slot : Fin 8) (value : Nat) (s : State) : Outcome := runCtl (keyWrite rq slot.val value) s

end Sys2Proof.Machine
end

