-- ==== Sys2Proof/Machine/Start.lean ====
section
/-! DEFINITION. What a reset keeps, and the start of the firmware: the journal's values, regions, links, housekeeping
and the stored table (R421, R425, R437, R486, R489, R495, R505, R511, R512). -/
namespace Sys2Proof.Machine

/-! ### Writes that a start finds (R421, R425, R437, R489) -/

/-- A write staged when the controller stops is not committed; a WL change counted for it is used without effect
(R421, R425). -/
def abandonStaged (p : Part) : Part :=
  match p.svc.staged with
  | some w =>
    let wl : Bool := match lookup w.idx w.sub with | some r => r.acc == .wl && w.time.isNone | none => false
    { p with svc := { p.svc with staged := none }, pow := { p.pow with wlLost := if wl then some (w.idx, w.sub) else p.pow.wlLost } }
  | none => p

/-- A WL change used without effect is recorded at the next start, with action 5 and class 0 (R425). -/
def recordLost (p : Part) : Part :=
  match p.pow.wlLost with
  | some (idx, sub) =>
    match lookup idx sub with
    | some r =>
      let v := valueWords r (rd p idx sub)
      auditPut { cls := 0 } 5 (wlUsed p idx sub) idx sub v v { p with pow := { p.pow with wlLost := none } }
    | none => p
  | none => p

/-- Scheduled writes that the journal holds: those to Persistent or WL entries (R437, R512). -/
def journalledWrites (p : Part) : List Scheduled :=
  p.svc.scheduled.filter fun w => match lookup w.idx w.sub with | some r => journalled r | none => false

/-- The firmware takes for an entry the journal's latest value at the layout version it defines; where there is none the
entry is reset to its default, which is recorded with action 4 and class 0 (R489). -/
def selectValue (k : Nat) (vals : List (Nat × Nat)) (p : Part) : Part :=
  let idx := k / 256
  let sub := k % 256
  match vals.find? (fun x => x.1 == layoutOf p idx sub), lookup idx sub with
  | some x, _ => wr idx sub x.2 p
  | none, some r =>
    let d := dflt p.pow.role idx sub
    let old := ((vals.head?).map (·.2)).getD d
    bump 0x1400 4 (auditPut { cls := 0 } 4 0 idx sub (valueWords r old) (valueWords r d) (journalPut idx sub d (wr idx sub d p)))
  | none, none => p

/-- Every Persistent value is selected (R489). -/
def selectValues (p : Part) : Part := forEach p.svc.journal (fun x q => selectValue x.1 x.2 q) p

/-! ### What survives a reset (R501, R511, R512) -/

/-- An entry that keeps its value through reset on the die or in the directory: OTP, and what the part itself keeps in
flash; Persistent entries that hosts write come back from the journal at start. -/
def keptEntry (k : Nat) : Bool :=
  match lookup (k / 256) (k % 256) with
  | some r => r.pers == 3 || r.acc == .wl || (r.pers == 2 && r.acc == .ro)
  | none => false

/-- What survives a power failure; the rest is at its reset values (R511, R512). -/
def resetPart (p : Part) : Part :=
  let p := abandonStaged p
  let lock := p.dict.filter fun kv => p.pow.bypass && decide (ekey 0x5078 3 ≤ kv.1 ∧ kv.1 ≤ ekey 0x5078 5)
  { dict := (p.dict.filter fun kv => keptEntry kv.1 && !(decide (ekey 0x5078 3 ≤ kv.1 ∧ kv.1 ≤ ekey 0x5078 5))) |> fun d => lock.foldl (fun t kv => tins t kv.1 kv.2) d,
    free := p.free,
    acq := { trans := { copy0 := p.acq.trans.copy0, copy1 := p.acq.trans.copy1 } },
    svc := { journal := p.svc.journal, audit := p.svc.audit, nextRec := p.svc.nextRec, scheduled := journalledWrites p },
    pow := { p.pow with phase := .inReset, failAt := 0 },
    upd := { slotA := p.upd.slotA, slotB := p.upd.slotB, staged := p.upd.staged, dirSeq := p.upd.dirSeq, rebuild := p.upd.rebuild, check := p.upd.check, trial := p.upd.trial } }

/-! ### Start-up (R505) -/

/-- The journal is replayed: Persistent values are in force, a frame-bound one from the first boundary on; the audit ring
and scheduled writes are back (R421, R489, R505, R510). -/
def replayJournal (p : Part) : Part :=
  let p := selectValues p
  let p := forEach p.svc.journal (fun x q =>
    match lookup (x.1 / 256) (x.1 % 256) with
    | some r =>
      let d := dflt q.pow.role (x.1 / 256) (x.1 % 256)
      if r.frame ∧ rd q (x.1 / 256) (x.1 % 256) ≠ d then { q with effOld := tins q.effOld x.1 d } else q
    | none => q) p
  let p := wr 0x1400 1 ((p.svc.audit.head?.map (·.num)).getD 0) (wr 0x1400 2 ((p.svc.audit.getLast?.map (·.num)).getD 0) p)
  recordLost p

/-- The grove-root entry and the position override take effect; a grove root has its address (R25). -/
def ownPlace (p : Part) : Part :=
  let root := rd p 0x1100 4 == 1
  let ov := rd p 0x1100 5
  let p := { p with pow := { p.pow with root, override := ov } }
  if root then wr 0x1100 3 3 (wr 0x1100 2 0 (wr 0x1100 1 (if ov < 16 then ov * 2 ^ 16 else 0) p)) else p

/-- Regions whose geometry is defined, but for region 0, which holds the firmware, are filled, and all are named for their use
(R249, R259, R505). -/
def fillRegions (p : Part) : Part :=
  let p := forEach (List.range 16) (fun r q => if r = 0 ∨ (geo q r).n = 0 then q else wr (0x7000 + r) 6 stFilled (fillRegion r q)) p
  let a := rd p 0x7030 1
  let b := rd p 0x7030 2
  let places := tput [] (tput [] [] 0 (freshPlaces p a (useLen 0))) 1 (freshPlaces p b (useLen 1))
  let p := { p with mem := { p.mem with active := tput 16 (tput 16 [] 0 a) 1 b, places } }
  forEach (List.finRange 16) (fun r q => if (geo q r).n ≠ 0 ∧ rd q (0x7010 + r) 3 ≠ 0 then scrubStart r q else q) (refreshRegions p)

/-- Enabled lanes begin bring-up; isolations and the bypass are in force (R296, R505, R514). -/
def startLinks (p : Part) : Part :=
  let p := forEach (List.range 16) (fun k q => if rd q 0xA000 (k + 1) = 1 then wr (0x5100 + k) 2 1 q else q) p
  let p := onlyIf (bypassOn p) engage p
  let p := forEach [0, 1] (fun x q => if rd q 0x5080 (x + 1) = 0 then q else ethernetActs x 0 q) p
  forEach (List.range 28) (fun l q => if laneUsable q l then enableActs l q else q) p

/-- Housekeeping starts: fixed ranges, swapped pairs, and the loops (R365, R369, R382). -/
def startHousekeeping (p : Part) : Part :=
  let p := forEach (List.range 4) (fun m q => if rd q (0x8000 + m) 7 = 0 then wr (0x8000 + m) 0xB (rd q (0x8000 + m) 8) q else q) p
  let p := forEach (List.range 4) (fun n q => if rd q (0x8010 + n) 4 = 1 then wr (0x8010 + n) 6 1 q else q) p
  forEach (List.range 2) loopStart p

/-- The stored trigger table goes through the transom (R495). -/
def startTable (p : Part) : Part :=
  let t := storedTable p
  let p := wr 0x9021 8 (t.getD 1 0) p
  if !p.pow.safe ∧ t ≠ [] ∧ rd p 0x7030 1 < 16 then transomBegin t p else p

/-- What follows the replay of the journal at a start (R505). -/
def bringUp (p : Part) : Part :=
  let p := ownPlace p
  let p := noteInUse (setServo (if rd p 0x6000 4 = 0 then servoFree else servoAcquire) p)
  let p := forEach [0, 1] ptpRestart p
  startTable (startHousekeeping (startLinks (fillRegions p)))

/-- The start-up of a part whose firmware has been loaded (R505). -/
def startUp (p : Part) : Part := bringUp (replayJournal p)

/-! ### Recovery mode (R486) -/

/-- A controller restart that finds no slot to load: the rest of the part is held as at reset, region 0 as the boot ROM has filled
it (R484 to R486). -/
def holdAtReset (p : Part) : Part :=
  let r := resetPart p
  let own := p.dict.filter fun kv => offeredKey kv.1 || kv.1 / 256 == 0x1020
  let p := replayJournal { r with mem := { fills := p.mem.fills.take 1 }, clk := { rp := p.clk.rp }, pow := p.pow, svc := p.svc, upd := p.upd }
  { p with dict := own.foldl (fun t kv => tins t kv.1 kv.2) (p.dict.filter fun kv => !(offeredKey kv.1 || kv.1 / 256 == 0x1020)) }

end Sys2Proof.Machine
end

