-- ==== Sys2Proof/Machine/Update.lean ====
section
/-! DEFINITION. Firmware: images, Caric deltas, rebuilding a slot, booting, restarts of the controller, and trials
(R473 to R490). -/
namespace Sys2Proof.Machine

/-! ### Slots (R475, R484) -/

/-- The codes of a slot's state. -/
def slotEmpty : Nat := 0
def slotRebuilding : Nat := 1
def slotValid : Nat := 2
def slotTrial : Nat := 3
def slotConfirmed : Nat := 4
def slotFailed : Nat := 5

/-- The entries of a slot, 9001h for A and 9002h for B, and its state. -/
def slotIdx (s : Nat) : Nat := 0x9001 + s
def slotState (p : Part) (s : Nat) : Nat := rd p (slotIdx s) 1

/-- A directory write: the copy with the lower sequence takes the next one (R475). -/
def dirWrite (p : Part) : Part := { p with upd := { p.upd with dirSeq := p.upd.dirSeq + 1 } }

/-- Set a slot's state in the directory. -/
def setSlotState (s v : Nat) (p : Part) : Part := dirWrite (wr (slotIdx s) 1 v p)

/-- What a slot holds. -/
def slotImage (p : Part) (s : Nat) : Image := if s = 0 then p.upd.slotA else p.upd.slotB
def setSlotImage (s : Nat) (i : Image) (p : Part) : Part :=
  { p with upd := if s = 0 then { p.upd with slotA := i } else { p.upd with slotB := i } }

/-- The slot that runs; FFh in recovery mode. -/
def runningSlot (p : Part) : Nat := rd p 0x9000 9

/-- The last confirmed slot; FFh for none. -/
def confirmedSlot (p : Part) : Nat := rd p 0x9000 0xA

/-! ### Images (R476, R477) -/

/-- Every third octet, from the first: the top four bits of each body word are zero. -/
def bodyOk : List Nat → Bool
  | [] => true
  | a :: _ :: _ :: t => decide (a < 16) && bodyOk t
  | _ => false

/-- A full image is sound (R477). -/
def sound (p : Part) (os : List Nat) : Bool :=
  let b := fieldAt os 14 4
  decide (os.take 6 = [0x55, 0x4C, 0x52, 0x46, 1, 0]) && decide (fieldAt os 6 2 ≤ rd p 0 8) && decide (fieldAt os 8 2 ≤ rd p 0 5) &&
    decide (b % 3 = 0 ∧ 3 ≤ b ∧ b ≤ 589824) && decide (os.length = 128 + b) && ((os.drop 38).take 26).all (· == 0) &&
    bodyOk ((os.drop 64).take b) && Config.vendorSigned (os.take (64 + b)) (os.drop (64 + b))

/-! ### Caric deltas (R478, R479) -/

/-- A delta's header is well formed (R478, R480). -/
def headerOk (os : List Nat) : Bool :=
  let kind := os.getD 5 0xFF
  decide (64 ≤ os.length) && decide (os.take 5 = [0x55, 0x4C, 0x52, 0x43, 1]) && decide (kind < 2) && decide (fieldAt os 6 2 = 0) &&
    (kind == 1 || ((os.drop 8).take 32).all (· == 0)) && decide (131 ≤ fieldAt os 40 4 ∧ fieldAt os 40 4 ≤ 589952) &&
    ((os.drop 48).take 16).all (· == 0)

/-- Where an expansion stops: the sector is full, END, or the delta is malformed. -/
inductive Stop where
  | full | ended | bad
  deriving DecidableEq, Repr, Inhabited

/-- An expansion's stream offset, rest of the command in progress, and the pieces it has appended, newest first. -/
structure Expansion where
  pos : Nat
  rest : Rest
  pieces : List (List Nat) := []
  stop : Stop := .bad

/-- The next command of the stream, or none where it is malformed: its rest and the offset after its fixed operands. -/
def nextCommand (d : List Nat) (kind baseLen room pos : Nat) : Option (Rest × Nat) :=
  let n3 := fieldAt d (pos + 1) 3
  match d[pos]? with
  | some 1 =>
    let off := fieldAt d (pos + 1) 4
    let n := fieldAt d (pos + 5) 3
    if pos + 8 ≤ d.length ∧ kind = 1 ∧ 0 < n ∧ n ≤ room ∧ off + n ≤ baseLen then some (.copy off n, pos + 8) else none
  | some 2 => if pos + 4 + n3 ≤ d.length ∧ 0 < n3 ∧ n3 ≤ room then some (.add n3, pos + 4) else none
  | some 3 => if pos + 5 ≤ d.length ∧ 0 < n3 ∧ n3 ≤ room then some (.run n3 (d.getD (pos + 4) 0), pos + 5) else none
  | _ => none

/-- Expand at most `room` octets of a delta from where it stands (R479). `out` octets are there already. -/
def expand (d base : List Nat) : (fuel room out : Nat) → Expansion → Expansion
  | 0, _, _, x => { x with stop := .bad }
  | fuel + 1, room, out, x =>
    match x.rest with
    | .none =>
      if d[x.pos]? = some 0 then
        { x with pos := x.pos + 1, stop := if out = fieldAt d 40 4 ∧ (d.drop (x.pos + 1)).all (· == 0) = true then .ended else .bad }
      else if room = 0 then { x with stop := .full }
      else match nextCommand d (d.getD 5 0) base.length (fieldAt d 40 4 - out) x.pos with
        | some (r, pos) => expand d base fuel room out { x with rest := r, pos }
        | none => { x with stop := .bad }
    | .copy off n =>
      if room = 0 then { x with stop := .full }
      else
        let k := min n room
        expand d base fuel (room - k) (out + k) { x with rest := if k = n then .none else .copy (off + k) (n - k), pieces := (base.drop off).take k :: x.pieces }
    | .add n =>
      if room = 0 then { x with stop := .full }
      else
        let k := min n room
        expand d base fuel (room - k) (out + k) { x with rest := if k = n then .none else .add (n - k), pos := x.pos + k, pieces := (d.drop x.pos).take k :: x.pieces }
    | .run n v =>
      if room = 0 then { x with stop := .full }
      else
        let k := min n room
        expand d base fuel (room - k) (out + k) { x with rest := if k = n then .none else .run (n - k) v, pieces := List.replicate k v :: x.pieces }

/-- The octets of a flash sector. -/
def sectorLen : Nat := 65536

/-! ### Staging (R480) -/

/-- The octets that U16 elements carry, two each. -/
def elementOctets (ws : List Nat) : List Nat := ws.flatMap (toOctets 2)

/-- A staged value is accepted: 16-bit elements, a well-formed header, and the right element count. -/
def stagingOk (ws : List Nat) : Bool :=
  let os := elementOctets ws
  ws.all (fun w => decide (w < 65536)) && headerOk os && decide (ws.length = ceilDiv (64 + fieldAt os 44 4) 2)

/-- The staging area takes a delta (R480). -/
def stage (ws : List Nat) (p : Part) : Part :=
  let os := elementOctets ws
  let n := 64 + fieldAt os 44 4
  wr 0x9011 2 (os.getD 5 0 + 1) (wr 0x9011 1 n { p with upd := { p.upd with staged := os.take n } })

/-! ### Rebuilding (R481 to R483) -/

/-- The slot that a rebuild writes (R481). -/
def targetSlot (p : Part) : Nat :=
  if runningSlot p < 2 then 1 - runningSlot p
  else if confirmedSlot p < 2 then 1 - confirmedSlot p else 0

/-- Status and cause of a rebuild. -/
def rebuildStatus (st cause : Nat) (p : Part) : Part := wr 0x9000 3 cause (wr 0x9000 2 st p)

/-- Clear what the directory says of a slot's image. -/
def clearSlot (s : Nat) (p : Part) : Part := forEach [2, 3, 4, 5, 6, 7] (wr (slotIdx s) · 0) (setSlotImage s .empty p)

/-- Why a rebuild is REJECTED; 0 where it is not (R481, R482). -/
def rebuildCause (p : Part) : Nat :=
  let d := p.upd.staged
  if d.isEmpty then 1
  else if p.upd.trial then 7
  else if d.getD 5 0 = 1 ∧ (runningSlot p = 0xFF ∨ (d.drop 8).take 32 ≠ sha256 (slotImage p (runningSlot p)).octetList) then 2
  else 0

/-- A rebuild is requested (R481). -/
def rebuildRequest (vendor : Bool) (p : Part) : Part :=
  let c := rebuildCause p
  if c ≠ 0 then rebuildStatus 5 c p
  else
    let t := targetSlot p
    let p := setSlotState t slotRebuilding (clearSlot t (wr 0x9000 4 0 (rebuildStatus 1 0 p)))
    { p with upd := { p.upd with rebuild := some { vendor }, check := none } }

/-- REBUILD_REQUEST (R481). -/
def execRebuildRequest (rq : Rq) (s : State) : Outcome :=
  runCtl (ownWrite rq 0x9000 1 1 fun _ => rebuildRequest (rq.cls == 7)) s

/-- A rebuild ends without its marker: the target is EMPTY (R482). -/
def rebuildEnd (st cause : Nat) (p : Part) : Part :=
  let t := targetSlot p
  let p := setSlotState t slotEmpty (clearSlot t (rebuildStatus st cause p))
  { p with upd := { p.upd with rebuild := none, check := none } }

/-- The valid marker is written: the rebuild is DONE (R475, R482). -/
def rebuildDone (p : Part) : Part :=
  match p.upd.rebuild with
  | some r =>
    let t := targetSlot p
    let i := slotIdx t
    let os := r.out
    let p := wr i 4 (fieldAt os 18 4) (wr i 3 os.length (wr i 2 (fieldAt os 10 4) p))
    let p := wr i 6 (now p) (wr i 5 (ofOctets ((sha256 os).take 10)) p)
    let p := setSlotState t slotValid (setSlotImage t (.octets os) (rebuildStatus 2 0 p))
    { p with upd := { p.upd with rebuild := none, check := none } }
  | none => p

/-- A sector is erased and programmed, and a checkpoint is written; `ok` says that the flash did its part (R479, R482,
R483). -/
def rebuildSector (ok : Bool) (p : Part) : Part :=
  match p.upd.rebuild with
  | some r =>
    if r.ended ∨ p.pow.phase = .powerFail ∨ unsettled p .image = false then p
    else if !ok then raiseFailure .image 5 p
    else
      let d := p.upd.staged
      let base := (slotImage p (runningSlot p)).octetList
      let x := expand d base (2 * d.length + 8) sectorLen r.out.length { pos := r.pos, rest := r.rest }
      if x.stop = .bad then raiseFailure .image 1 p
      else
        let r := { r with pos := x.pos, rest := x.rest, out := r.out ++ x.pieces.reverse.flatten, ended := x.stop == .ended }
        let c : Checkpoint := { digest := sha256 d, pos := r.pos, out := r.out.length, rest := r.rest, ended := r.ended }
        wr 0x9000 4 r.out.length { p with upd := { p.upd with rebuild := some r, check := some c } }
  | none => p

/-- REBUILD_SECTOR (R483). -/
def execRebuildSector (ok : Bool) (s : State) : Outcome := runCtl (rebuildSector ok) s

/-- The target is read back and checked: the rebuild's completion or failure is requested (R70, R482). -/
def rebuildCommit (ok : Bool) (p : Part) : Part :=
  match p.upd.rebuild with
  | some r =>
    if !r.ended ∨ p.pow.phase = .powerFail ∨ unsettled p .image = false then p
    else if !ok then raiseFailure .image 5 p
    else if !sound p r.out then raiseFailure .image 3 p
    else if !r.vendor ∧ fieldAt r.out 10 4 < rd p 0x9000 0xB then raiseFailure .image 4 p
    else raiseCompletion .image p
  | none => p

/-- REBUILD_COMMIT (R482). -/
def execRebuildCommit (ok : Bool) (s : State) : Outcome := runCtl (rebuildCommit ok) s

/-- REBUILD_ABORT (R482). -/
def execRebuildAbort (rq : Rq) (s : State) : Outcome :=
  runCtl (fun p => abortWrite rq 0x9000 1 2 .image (if p.upd.rebuild.isSome then 1 else 0) id p) s

/-! ### Booting and restarts (R484 to R486) -/

/-- A slot can be loaded: its marker stands, and its image reads back sound; bit `s` of `bad` says that it does not. -/
def loadable (p : Part) (bad s : Nat) : Bool :=
  !bit bad s && (slotState p s == slotConfirmed || slotState p s == slotTrial || slotState p s == slotValid)

/-- A slot is loaded into region 0, and its firmware's identity is reported (R484). -/
def loadSlot (s : Nat) (p : Part) : Part :=
  wr 0 9 (rd p (slotIdx s) 4) (wr 0x9000 0xB (rd p (slotIdx s) 2) (wr 0x9000 9 s (loadBody (slotImage p s) p)))

/-- The part goes to recovery mode: health reads 2 (R486). -/
def enterRecovery (p : Part) : Part := wr 0x1000 1 2 (wr 0x9000 0xB 0 (wr 0x9000 9 0xFF (loadBody .empty p)))

/-- The last confirmed slot is loaded; if it is not sound it becomes FAILED, and the other is loaded where it is CONFIRMED
and sound (R484). -/
def loadConfirmed (bad : Nat) (p : Part) : Part :=
  let s := confirmedSlot p
  if s < 2 ∧ loadable p bad s = true then loadSlot s p
  else
    let o := if s < 2 then 1 - s else 0
    let p := if s < 2 then setSlotState s slotFailed p else p
    if slotState p o = slotConfirmed ∧ loadable p bad o = true then loadSlot o p else enterRecovery p

/-- What a controller restart ends: sessions, transfers, relays, upward frames, requests waiting and PTP windows; what it
restarts: loop timeouts, crown reports and the health window (R485). -/
def restartEnds (p : Part) : Part :=
  let p := recordLost (selectValues (abandonStaged (forEach (List.range 8) (transferFail · 1) (closeAllSessions p))))
  let ws := journalledWrites p
  let p := wr 0x1400 8 ws.length { p with svc := { p.svc with waiting := [], scheduled := ws, sessions := [], bus := { sentUp := p.svc.bus.sentUp }, reportAt := p.clk.rp, healthAt := p.clk.rp }, upd := { p.upd with trialAt := p.clk.rp, okFrom := p.clk.rp } }
  let p := forEach [0, 1] ptpRestart p
  forEach (List.range 2) (fun j q => setLoop j { loopOut q j with last := q.clk.rp } q) p

/-- A controller restart with what has been loaded: without a slot the rest of the part is held as at reset, and a part
that was in recovery mode, as `was` says, starts up (R485, R486, R505). -/
def restart (was : Bool) (p : Part) : Part :=
  let p := restartEnds p
  if recovery p then holdAtReset p else onlyIf was bringUp p

/-! ### Trials (R487, R488) -/

/-- Status and cause of a trial. -/
def trialStatus (st cause : Nat) (p : Part) : Part := wr 0x9000 7 cause (wr 0x9000 6 st p)

/-- The slot on trial, and the slot that may be tried. -/
def slotWith (p : Part) (st : Nat) : Option Nat := [1 - min 1 (runningSlot p), min 1 (runningSlot p)].find? fun s => slotState p s == st

/-- A trial fails: its slot is FAILED, the fallback is counted, and the last confirmed slot is loaded (R488). -/
def trialFailed (cause bad : Nat) (p : Part) : Part :=
  let p := match slotWith p slotTrial with | some s => setSlotState s slotFailed p | none => p
  let p := bump 0x9000 0xC (trialStatus 4 cause { p with upd := { p.upd with trial := false } })
  restart (recovery p) (loadConfirmed bad p)

/-- Why a trial is REJECTED; 0 where it is not (R487). -/
def trialCause (p : Part) : Nat :=
  if p.upd.trial then 7 else if p.upd.rebuild.isSome then 2 else if (slotWith p slotValid).isNone then 1 else 0

/-- The response at the end of the upward queue has been sent (R487). -/
def responseSent (p : Part) : Part :=
  match p.svc.bus.up.getLast? with
  | some os => setBus { p.svc.bus with sentUp := os } p
  | none => p

/-- A trial is requested: it is armed, and the controller restarts with the VALID slot, or the trial fails at the load;
`bad` names slots that do not read back sound, `safe` is the level of BOOT_SAFE (R487, R488, R503). -/
def trialRequest (bad : Nat) (safe : Bool) (p : Part) : Part :=
  let c := trialCause p
  if c ≠ 0 then trialStatus 5 c p
  else match slotWith p slotValid with
    | some s =>
      let up := (List.range 18).filter (inService p)
      let p := setSlotState s slotTrial (trialStatus 1 0 { p with upd := { p.upd with trial := true, armed := up } })
      if safe then trialFailed 4 bad p
      else if loadable p bad s then restart (recovery p) (loadSlot s p) else trialFailed 6 bad p
    | none => p

/-- TRIAL_BOOT (R487): the response is sent before the restart. -/
def execTrialBoot (rq : Rq) (bad : Nat) (safe : Bool) (s : State) : Outcome :=
  runCtl (fun p =>
    let q := ownWrite rq 0x9000 1 3 (fun _ q => q) p
    if !svcBusy p && p.pow.phase != .powerFail && checkWrite (renew rq p) rq 0x9000 1 3 == .ok then trialRequest bad safe (responseSent q) else q) s

/-- FALLBACK_REQUEST (R488). -/
def execFallbackRequest (rq : Rq) (bad : Nat) (s : State) : Outcome :=
  runCtl (fun p =>
    let q := ownWrite rq 0x9000 1 4 (fun _ q => q) p
    if !svcBusy p && p.pow.phase != .powerFail && checkWrite (renew rq p) rq 0x9000 1 4 == .ok && p.upd.trial then trialFailed 4 bad q else q) s

/-- The trial status is cleared where no trial runs (R488). -/
def clearTrial (p : Part) : Part := if p.upd.trial then p else trialStatus 0 0 p

/-- CLEAR_TRIAL_STATUS (R488). -/
def execClearTrialStatus (rq : Rq) (s : State) : Outcome := runCtl (ownWrite rq 0x9000 1 5 fun _ => clearTrial) s

/-- The conditions under which the trial firmware confirms itself (R488). -/
def confirmable (p : Part) : Bool :=
  journalState p == 0 && !bit (rd p 0x1000 2) 1 && !bit (rd p 0x1000 2) 6 && !bit (rd p 0x1000 2) 7 && p.upd.armed.all (inService p)

/-- The end of the health window, in ring periods. -/
def windowEndAt (p : Part) : Nat := p.upd.trialAt + rd p 0x9000 5 * secRp

/-- The trial firmware confirms itself: its slot is CONFIRMED and the last confirmed one (R488). -/
def trialConfirm (p : Part) : Part :=
  let q := advanceRp (p.upd.okFrom + 10 * secRp) p
  match slotWith p slotTrial with
  | some s =>
    if p.upd.trial && confirmable p && decide (q.clk.rp ≤ windowEndAt p) && p.pow.phase != .powerFail then
      let q := trialStatus 2 0 { q with upd := { q.upd with trial := false } }
      setSlotState s slotConfirmed (wr 0x9000 0xA s (wr (slotIdx s) 7 (now q) q))
    else p
  | none => p

/-- TRIAL_CONFIRM (R488). -/
def execTrialConfirm (s : State) : Outcome := runCtl trialConfirm s

/-- The health window ends unconfirmed (R488). -/
def healthWindowEnd (bad : Nat) (p : Part) : Part :=
  if p.upd.trial ∧ p.pow.phase ≠ .powerFail then trialFailed 3 bad (advanceRp (windowEndAt p) p) else p

/-- HEALTH_WINDOW_END (R488). -/
def execHealthWindowEnd (bad : Nat) (s : State) : Outcome := runCtl (healthWindowEnd bad) s

/-- ms of the health window remaining (9000h.08). -/
def windowLeft (p : Part) : Nat := if p.upd.trial then (windowEndAt p - p.clk.rp) / msRp else 0

end Sys2Proof.Machine
end

