-- ==== Sys2Proof/Machine/Crown.lean ====
section
/-! DEFINITION. Crown reports, their aggregation, and the part's health (R438 to R442, R470). -/
namespace Sys2Proof.Machine

/-! ### Crown entries (R438 to R440) -/

/-- The crown entries in the order of a report. -/
def crownEntries : List (Nat × Nat) :=
  (List.range 14).map (fun i => (0xB000, i + 1)) ++
    (List.range 4).flatMap fun v => (List.range 5).map fun i => (0xB010 + v, i + 1)

/-- The place of an entry in a report. -/
def crownPlace (idx sub : Nat) : Option Nat := crownEntries.findIdx? fun e => e == (idx, sub)

/-- How a crown entry combines (R439). -/
inductive CrownKind where
  | sum | least | most | mostSigned | age
  deriving DecidableEq, Repr, Inhabited

/-- The kind of a place: a COUNT combines as a SUM. -/
def crownKind (i : Nat) : CrownKind :=
  match i with
  | 2 | 8 => .most
  | 5 => .least
  | 9 => .mostSigned
  | 13 => .age
  | _ => .sum

/-- The words and the largest value of a place's type. -/
def crownWords (i : Nat) : Nat := if [0, 1, 2, 3, 4, 6, 7, 9].contains i then 1 else 2
def crownMax (i : Nat) : Nat := if crownWords i = 1 then 2 ^ 20 - 1 else 2 ^ 32 - 1

/-- The sum of a counter over indices, saturating (R439). -/
def sumOver (n idx sub : Nat) (p : Part) : Nat := min (2 ^ 32 - 1) ((List.range n).foldl (fun a i => a + rd p (idx + i) sub) 0)

/-- The part's own contributions (R439). -/
def ownCrown (p : Part) : List Nat :=
  let one := fun (b : Bool) => if b then 1 else 0
  [1, 0, rd p 0x1000 1, one (rd p 0x1000 1 == 1), one (rd p 0x1000 1 == 2), rd p 0x1200 2, one (rd p 0x20D0 1 == 0),
    one (rd p 0x6000 4 != 0 && servoState p != servoLocked), (s32 (rd p 0x6000 0xA)).natAbs, rd p 0x1000 4,
    sumOver 16 0x7020 3 p, sumOver 18 0x5120 5 p, rd p 0x1220 3, 0] ++
    (List.range 4).flatMap fun v =>
      [rd p (0x4030 + v) 5, rd p (0x4030 + v) 6, rd p (0x3060 + v) 3, rd p (0x3060 + v) 6, rd p (0x4030 + v) 0xB]

/-- A millisecond and the age at which a report is stale, in ticks (R439). -/
def msTk : Nat := 327680000
def staleTk : Nat := 1000 * msTk

/-- A report's age in ticks. -/
def reportAge (p : Part) (r : CrownRep) : Nat := (diffMod 80 (now p) r.time).toNat

/-- The reports that count, by position port. -/
def freshReports (p : Part) : List CrownRep :=
  p.svc.crowns.filterMap fun kv => match kv.2 with
    | some r => if reportAge p r ≤ staleTk then some r else none
    | none => none

/-- Children that count as silent: their report is stale, or they have sent none for 1,000 ms in SERVICE (R439). -/
def silentChildren (p : Part) : Nat :=
  (p.svc.crowns.filter fun kv => match kv.2 with | some r => decide (staleTk < reportAge p r) | none => false).length +
    (p.svc.crownFrom.filter fun kv => match kv.2 with
      | some t => (tget none p.svc.crowns kv.1).isNone && (link p kv.1).companion.isNone && decide (t + secRp ≤ p.clk.rp)
      | none => false).length

/-- Two values of a place combined. -/
def crownJoin (i a b : Nat) : Nat :=
  match crownKind i with
  | .sum => min (crownMax i) (a + b)
  | .least => min a b
  | .most => max a b
  | .mostSigned => if s20 a < s20 b then b else a
  | .age => max a b

/-- What a child's report contributes: its crown age grows by the report's own age. -/
def childCrown (p : Part) (r : CrownRep) : List Nat :=
  (List.range 34).map fun i => if i = 13 then min (2 ^ 32 - 1) (r.vals.getD 13 0 + reportAge p r / msTk) else r.vals.getD i 0

/-- The crown values as they stand (R439). -/
def crownNow (p : Part) : List Nat :=
  let all := (freshReports p).foldl (fun a r => (List.range 34).map fun i => crownJoin i (a.getD i 0) ((childCrown p r).getD i 0)) (ownCrown p)
  let silent := min (2 ^ 20 - 1) (all.getD 1 0 + silentChildren p)
  setAt (setAt all 1 silent) 2 (if silent = 0 then all.getD 2 0 else max 1 (all.getD 2 0))

/-- A crown entry as it reads: its default until the first report is formed. -/
def crownValue (p : Part) (idx sub : Nat) : Nat :=
  match crownPlace idx sub, p.svc.report with
  | some i, some _ => (crownNow p).getD i 0
  | _, _ => dflt p.pow.role idx sub

/-- The uplink a crown report goes by: one in SERVICE or ISOLATED with the mirror on, or none for the bus (R438, R454). -/
def reportPath (p : Part) : Option Nat :=
  if rd p 0x1300 5 = 0 then none
  else [linkA, linkB].find? fun k => linkSt p k == stService || linkSt p k == stIsolated

/-- The CROWN frame of a report (R470). -/
def crownFrame (r : CrownRep) : Frame :=
  let ws := (List.range 34).flatMap fun i => toWords (crownWords i) (r.vals.getD i 0)
  { kind := kCrown, flags := 0x80 + r.tier % 8, addr := r.addr, host := 0, sess := 15, body := toOctets 10 r.time ++ wordOctets ws }

/-- A crown report is formed and sent; a part without an address has no address to send it under. -/
def crownReport (p : Part) : Part :=
  if p.pow.phase = .powerFail then p
  else
    let p := advanceRp (p.svc.reportAt + 100 * msRp) p
    let r : CrownRep := { addr := ownAddr p, tier := ownTier p, time := now p, vals := crownNow p }
    let p := { p with svc := { p.svc with report := some r, reportAt := p.clk.rp } }
    if addressed p then sendUp (reportPath p) (crownFrame r).octets p else p

/-- CROWN_REPORT (R438). -/
def execCrownReport (s : State) : Outcome := run crownReport s

/-- A child's report is kept (R439). -/
def keepReport (k : Nat) (r : CrownRep) (p : Part) : Part :=
  { p with svc := { p.svc with crowns := tput none p.svc.crowns k (some r) } }

/-- The values of a CROWN frame's body. -/
def crownVals : (i : Nat) → (n : Nat) → List Nat → List Nat
  | _, 0, _ => []
  | i, n + 1, os => ofWords (unOct (crownWords i) os) :: crownVals (i + 1) n (os.drop (3 * crownWords i))
where
  /-- Words from octets, three each. -/
  unOct : Nat → List Nat → List Nat
    | 0, _ => []
    | m + 1, os => ofOctets (os.take 3) :: unOct m (os.drop 3)

/-- The child that a reporting part is: its address nibble at the tier below the part's. -/
def childOf (p : Part) (addr tier : Nat) : Option Nat :=
  if addressed p ∧ tier = ownTier p + 1 ∧ tier ≤ 4 ∧ addr / 2 ^ (4 * (5 - tier)) = ownAddr p / 2 ^ (4 * (5 - tier)) then
    some (addr / 2 ^ (4 * (4 - tier)) % 16) else none

/-- The position port of a child (R25, R26). -/
def portAt (p : Part) (n : Nat) : Nat :=
  ((List.range 16).find? fun k => (link p k).pos == some n && (link p k).companion.isNone).getD n

/-- A CROWN frame from a child (R439, R470). -/
def crownTaken (f : Frame) (p : Part) : Part :=
  match childOf p f.addr f.tier with
  | some k =>
    if f.body.length = 190 then
      keepReport (portAt p k) { addr := f.addr, tier := f.tier, time := ofOctets (f.body.take 10), vals := crownVals 0 34 (f.body.drop 10) } p
    else p
  | none => p

/-- CROWN_RECEIVED (R439): the report of the child on position port k. -/
def execCrownReceived (k : Fin 16) (tier addr time : Nat) (vals : List Nat) (s : State) : Outcome :=
  run (fun p => if isBough p then keepReport k { addr, tier, time := time % 2 ^ 80, vals := (List.range 34).map (vals.getD · 0) } p else p) s

/-- A child's report passes 1,000 ms of age, or a child has sent none for 1,000 ms (R439): it counts as silent from here. -/
def crownStale (k : Nat) (p : Part) : Part :=
  match tget none p.svc.crowns k, tget none p.svc.crownFrom k with
  | some r, _ => advanceTo (r.time + staleTk + 1) p
  | none, some t => advanceRp (t + secRp) p
  | none, none => p

/-- CROWN_STALE (R439). -/
def execCrownStale (k : Fin 16) (s : State) : Outcome := run (crownStale k.val) s

/-! ### Health (R442) -/

/-- A moment in the last 10 s. -/
def recent (p : Part) (t : Option Nat) : Bool := match t with | some t => decide (p.clk.rp < t + 10 * secRp) | none => false

/-- The conditions of R442, by bit. -/
def conditions (p : Part) : List Bool :=
  let window := rd p 0x1200 3 != 2 ^ 28 - 1
  let up := inService p linkA || inService p linkB
  [window && decide (rd p 0x1200 2 < rd p 0x1200 4),
    window && decide (rd p 0x1200 2 < 256),
    rd p 0x20D0 1 == 0,
    rd p 0x6000 4 != 0 && (servoState p != servoLocked || recent p p.svc.lastUnlocked),
    (List.range 16).any fun g => groupOn p g && rd p 0x2086 (g + 1) != 1,
    recent p p.svc.lastUncorr,
    p.svc.region0Bad,
    !p.pow.root && !up && decide ((p.svc.lastService.getD 0) + secRp ≤ p.clk.rp),
    recent p p.svc.lastRetrain,
    (List.range 4).any (fun m => rd p 0x8020 (m + 1) == 2) || (List.range 2).any (fun j => loopSt p j == 4 && loopSource p j != 4),
    p.upd.trial || (rd p 0x9000 6 == 4 && [3, 5, 6].contains (rd p 0x9000 7)),
    decide (1300 < s20 (rd p 0x1000 4)),
    journalState p == 2]

/-- The number that a list of bits spells, bit 0 first. -/
def maskOf (bs : List Bool) : Nat := bs.foldr (fun b a => 2 * a + if b then 1 else 0) 0

/-- Conditions of level 2. -/
def failing : Nat := 2 ^ 1 + 2 ^ 6 + 2 ^ 7

/-- The health level of conditions under a mask. -/
def levelOf (c mask : Nat) : Nat :=
  let on := (List.range 20).filter fun i => bit c i && !bit mask i
  if on.any (bit failing) then 2 else if on.isEmpty then 0 else 1

/-- Health is evaluated: conditions, level, the loops that show it, and whether a trial's conditions hold (R442, R488). -/
def healthEvaluation (temp : Nat) (p : Part) : Part :=
  let p := advanceRp (p.svc.healthAt + 100 * msRp) p
  let p := wr 0x1000 4 (temp % 2 ^ 20) { p with svc := { p.svc with healthAt := p.clk.rp } }
  let c := maskOf (conditions p)
  let p := healthLoops (wr 0x1000 1 (levelOf c (rd p 0x1000 3)) (wr 0x1000 2 c p))
  onlyIf (!confirmable p) trialBreak p

/-- HEALTH_EVALUATION (R442): `temp` is the junction temperature in 0.1 °C. -/
def execHealthEvaluation (temp : Nat) (s : State) : Outcome := run (healthEvaluation temp) s

end Sys2Proof.Machine
end

