-- ==== Sys2Proof/Machine/Service.lean ====
section
/-! DEFINITION. What the dictionary returns: values of entries, descriptors, and the values of DOMAIN entries (R409, R410,
R414, R428 to R431, R443). -/
namespace Sys2Proof.Machine

/-! ### Values (R410, R443) -/

/-- ASCII octets of the strings of 0000h. -/
def strVendor : List Nat := [0x41, 0x70, 0x71, 0x75, 0x69, 0x6E, 0x20, 0x44, 0x65, 0x76, 0x69, 0x63, 0x65, 0x73]
def strFamily : List Nat := [0x55, 0x6C, 0x69, 0x65, 0x72, 0x61, 0x65, 0x73, 0x68]

/-- The ordering code as built (R18, R19): ULR256-A-BT, ULR256-H-BT, or ULR256-H-BL for a lot of grade H with its reports. -/
def strOrder (p : Part) : List Nat :=
  let h := rd p 0 4 = 1
  [0x55, 0x4C, 0x52, 0x32, 0x35, 0x36, 0x2D, if h then 0x48 else 0x41, 0x2D, 0x42, if h ∧ p.pow.lot = true then 0x4C else 0x54]

/-- The words of a STR value. -/
def strWords (os : List Nat) : List Nat := os.length :: pairWords os

/-- The comparators of a group and threshold that are closed now (2040h + g.05 to .08): as the stage has left them, and then as the
boundaries that have passed and that the stage has not reached ask (R96). -/
def closedMap (p : Part) (g t : Nat) : Nat :=
  let stage := (List.range 16).foldl (fun a i => if (comp p (16 * g + i) t).closed then setBit a i else a) 0
  p.front.acts.foldl (fun m a =>
    let m := if a.off.contains g then 0 else m
    match a.maps.find? fun e => e.1 == 4 * g + t with | some e => e.2 % 2 ^ 16 | none => m) stage

/-- The standing of a port (4050h + p.01): out of SERVICE, in SERVICE, isolated, the local front end, or the upper port of a bonded
pair or a companion port, which stands under another (R26, R210, R212, R219). -/
def portStanding (p : Part) (k : Nat) : Nat :=
  if k = 15 ∧ localOn p = true then 3
  else if upperBonded p k || (link p k).companion.isSome then 4
  else if isolated p k then 2
  else if inService p k then 1 else 0

/-- ms left before a session times out. -/
def idleLeft (p : Part) (i : Nat) : Nat :=
  if sessSt p i = 2 then ((session p i).since + rd p 0x1300 3 * secRp - p.clk.rp) / msRp else 0

/-- The standing of a bus position (R451, R455). -/
def positionStanding (p : Part) (n : Nat) : Nat :=
  let x := tget {} p.svc.bus.polls n
  if !isBough p || !bit (rd p 0x1300 1) n then 0
  else if p.svc.bus.relays.any fun e => e.origin.ser && e.serial == rd p (0x5100 + n) 7 && e.serial != 0 then 3
  else if 3 ≤ x.miss then 2
  else if x.last.isSome then 1 else 0

/-- The value of an entry that a chapter's structure holds, if one does. -/
def liveValue (p : Part) (rq : Rq) (idx sub : Nat) : Option Nat :=
  if sub = 0 then none
  else if idx = 0x1000 then (if sub = 5 then some (p.clk.rp / msRp) else none)
  else if idx = 0x1302 then some (positionStanding p (sub - 1))
  else if 0x1320 ≤ idx ∧ idx ≤ 0x1327 then (if sub = 7 then some (idleLeft p (idx - 0x1320)) else none)
  else if idx = 0x1330 then (if sub = 7 then some (rq.sess.getD 0) else none)
  else if idx = 0x1400 then (if sub = 8 then some p.svc.scheduled.length else none)
  else if idx = 0x1401 then some (tget 1 p.svc.windows (instanceOf rq))
  else if idx = 0x1420 then some (instOf p (instanceOf rq) sub)
  else if 0x2040 ≤ idx ∧ idx ≤ 0x204F ∧ 5 ≤ sub ∧ sub ≤ 8 then some (closedMap p (idx - 0x2040) (sub - 5))
  else if 0x4050 ≤ idx ∧ idx ≤ 0x405F ∧ sub = 1 then some (portStanding p (idx - 0x4050))
  else if 0x5020 ≤ idx ∧ idx ≤ 0x503B ∧ sub = 0xF then
    (if rxSt p (idx - 0x5020) = laneFramed ∨ rxSt p (idx - 0x5020) = laneReady then some (Config.rateOffset (idx - 0x5020) p.clk.rp % 2 ^ 20) else none)
  else if idx = 0x6000 then (if sub = 1 then some (now p) else none)
  else if idx = 0x8054 then (if sub = 4 then some (if rd p 0x20D0 2 = 0 then 0 else 1) else none)
  else if idx = 0x9000 then (if sub = 8 then some (windowLeft p) else none)
  else if idx = 0xA050 then (if sub = 1 then some p.pow.jtag else if sub = 3 then some (idCode p) else none)
  else if 0xB000 ≤ idx then some (crownValue p idx sub)
  else none

/-- An entry reads as its default where the part's role or a bond makes it inactive (R415, R515). -/
def readsDefault (p : Part) (idx sub : Nat) : Bool :=
  inactive p idx sub ||
    (decide (0x5100 ≤ idx ∧ idx ≤ 0x510F) && upperBonded p (idx - 0x5100)) ||
    (decide (0x5120 ≤ idx ∧ idx ≤ 0x512F) && upperBonded p (idx - 0x5120))

/-- The words a read returns: the whole value at one instant (R418). -/
def readWords (p : Part) (rq : Rq) (r : Row) (idx sub : Nat) : List Nat :=
  if r.ty = .str then strWords (if sub = 1 then strVendor else if sub = 2 then strFamily else strOrder p)
  else
    let v := if readsDefault p idx sub then dflt p.pow.role idx sub else (liveValue p rq idx sub).getD (rd p idx sub)
    valueWords r v

/-- The record of 8058h + m.01 is cleared by its read (R397). -/
def readEffect (idx sub : Nat) (p : Part) : Part :=
  if 0x8058 ≤ idx ∧ idx ≤ 0x805B ∧ sub = 1 then recordRead (idx - 0x8058) p else p

/-- An index of the Vendor's block, of which the manual documents no entry (R12, R413, R441). -/
def vendorIdx (idx : Nat) : Bool := decide (0xF000 ≤ idx ∧ idx < 0x10000)

/-- The checks of a request for an entry of the Vendor's block: which entries there are is a free value, and Vendor sessions alone
have access (R12, R413, R441). -/
def vendorCheck (rq : Rq) (idx sub : Nat) (p : Part) : Resp :=
  if recovery p || !Config.vendorHas idx sub then .noEntry else if rq.cls = 7 then .ok else .denied

/-- A request for an entry of the Vendor's block: a read and a describe return words that are free values. DESIGN CHOICE: a write is
accepted, and no documented effect follows it (log 113). -/
def vendorTake (rq : Rq) (idx sub : Nat) (reads : Bool) (p : Part) : Part :=
  match vendorCheck rq idx sub p with
  | .ok =>
    let ws := if reads then (Config.vendorWords idx sub p.free).map BitVec.toNat else []
    answerOk rq idx sub ws { p with free := p.free + 1 }
  | c => refuse rq idx sub c p

/-- A read is taken (R414, R415). -/
def readTake (rq : Rq) (idx sub : Nat) (p : Part) : Part :=
  if vendorIdx idx then vendorTake rq idx sub true p
  else match checkRead p rq idx sub, lookup idx sub with
  | .ok, some r => answerOk rq idx sub (readWords p rq r idx sub) (readEffect idx sub p)
  | c, _ => refuse rq idx sub c p

/-! ### Descriptors (R409) -/

/-- The access code of an entry. -/
def accessCode (r : Row) (idx : Nat) : Nat :=
  if fixedRo idx ∧ r.acc = .rw then 1 else match r.acc with | .ro => 1 | .rw => 2 | .wo => 3 | .wl => 4

/-- The four words of a descriptor. -/
def descriptor (p : Part) (r : Row) (idx sub : Nat) : List Nat :=
  let b := fun (x : Bool) (i : Nat) => if x then 2 ^ i else 0
  let audited := r.acc != .ro && (journalled r || (r.acc == .wo && r.ty == .domain)) && !(fixedRo idx)
  [r.ty.code * 2 ^ 16 + accessCode r idx * 2 ^ 12 + r.pers * 2 ^ 8 + layoutOf p idx sub,
    r.rd * 2 ^ 12 + r.wr * 2 ^ 4 + b r.owner 3 + b r.frame 2 + b audited 1 + b r.counter 0,
    r.len,
    (if r.ty = .domain then r.elem.code else 0) * 2 ^ 16 + r.limit * 2 ^ 8]

/-- A describe is taken: only an entry that is not defined, or does not name the class, refuses it. -/
def describeTake (rq : Rq) (idx sub : Nat) (p : Part) : Part :=
  if vendorIdx idx then vendorTake rq idx sub true p
  else match entry p idx sub with
  | some r =>
    if mayRead p r idx sub rq.cls || mayWrite p r idx sub rq.cls then answerOk rq idx sub (descriptor p r idx sub) p
    else refuse rq idx sub .denied p
  | none => refuse rq idx sub .noEntry p

/-! ### DOMAIN values -/

/-- The 24 words of an audit record, its check word last (R428). -/
def auditWords (a : AuditRec) : List Nat :=
  let n := a.num
  let n := n * 2 ^ 80 + a.time
  let n := n * 2 ^ 4 + a.cls
  let n := n * 2 ^ 3 + a.slot
  let n := n * 2 ^ 4 + a.action
  let n := n * 2 ^ 2 + a.path
  let n := n * 2 ^ 7 + a.used
  let n := n * 2 ^ 16 + a.idx
  let n := n * 2 ^ 8 + a.sub
  let n := n * 2 ^ 20 + a.len
  let n := n * 2 ^ 20 + a.seq
  let n := n * 2 ^ 128 + a.oldHash
  let n := n * 2 ^ 128 + a.newHash
  let ws := toWords 23 n
  ws ++ [checkWord ws]

/-- A record as a class receives it: a Tenant receives whole those of its own class and those of entries all may read;
of every other one the number and the time (R430). -/
def auditFor (cls : Nat) (a : AuditRec) : AuditRec :=
  let all := match lookup a.idx a.sub with | some r => r.rd == 0xFE | none => false
  if decide (2 ≤ cls ∧ cls ≤ 5) && a.cls != cls && !all then
    { num := a.num, time := a.time, cls := 0, slot := 0, action := 0, path := 0, used := 0, idx := 0, sub := 0, len := 0, seq := 0, oldHash := 0, newHash := 0 }
  else a

/-- The words of the audit window of a request's session (R430). -/
def auditWindow (p : Part) (rq : Rq) : List Nat :=
  let start := tget 1 p.svc.windows (instanceOf rq)
  ((p.svc.audit.filter fun a => decide (start ≤ a.num)).reverse.take 256).flatMap fun a => auditWords (auditFor rq.cls a)

/-- The 129 values of an active bin-edge table (R111). -/
def edgeWords (t : BinTab) : List Nat := (List.range 129).map (edgeOf t.edges)

/-- The 12 words of a step log record (R341). -/
def stepWords (s : Nat × Int × Nat) : List Nat :=
  toWords 12 ((s.1 % 2 ^ 80 * 2 ^ 80 + ofSigned 80 s.2.1) * 2 ^ 80 + s.2.2 * 2 ^ 72)

/-- The step log: record i is where 6003h.01 counts it (R341). -/
def stepImage (p : Part) : List Nat :=
  let newest := rd p 0x6003 1
  (List.range 8).flatMap fun i => match p.clk.steps[(newest + 8 - i) % 8]? with
    | some s => if newest < 8 then stepWords s else List.replicate 12 0
    | none => List.replicate 12 0

/-- The whole value of a DOMAIN entry, in words. -/
def domainImage (p : Part) (rq : Rq) (idx : Nat) : List Nat :=
  if idx = 0x1410 then auditWindow p rq
  else if 0x2090 ≤ idx ∧ idx ≤ 0x209F then edgeWords (grp p (idx - 0x2090)).tab
  else if idx = 0x2109 then edgeWords p.cal.aux
  else if idx = 0x3040 then p.acq.tab.words
  else if idx = 0x6002 then stepImage p
  else if 0x6068 ≤ idx ∧ idx ≤ 0x606E then edgeWords (quadTab p (idx - 0x6068))
  else if idx = 0x7050 then logImage p
  else if 0x8064 ≤ idx ∧ idx ≤ 0x8067 then (conv p (idx - 0x8064)).cal.map (ofSigned 20)
  else []

/-- The checks of a DOMAIN segment's entry in their order: `write` says which way it goes. -/
def checkDomain (p : Part) (rq : Rq) (idx sub : Nat) (write : Bool) : Resp :=
  if vendorIdx idx then (match vendorCheck rq idx sub p with | .ok => .badValue | c => c)
  else match entry p idx sub with
  | none => .noEntry
  | some r =>
    if write && inactive p idx sub then .role
    else if !(mayRead p r idx sub rq.cls || mayWrite p r idx sub rq.cls) then .denied
    else if write && r.acc == .ro then .readOnly
    else if !write && (r.acc == .wo || r.ty == .key) then .writeOnly
    else if !(if write then mayWrite p r idx sub rq.cls else mayRead p r idx sub rq.cls) then .denied
    else if r.ty != .domain then .badValue
    else .ok

/-- The snapshot that serves a segment: the session's, where it is of this entry and not a second old, or a fresh one
(R431). -/
def snapshotFor (p : Part) (rq : Rq) (idx sub : Nat) : List Nat :=
  match tget none p.svc.snaps (instanceOf rq) with
  | some s => if s.idx = idx ∧ s.sub = sub ∧ p.clk.rp < s.last + secRp then s.words else domainImage p rq idx
  | none => domainImage p rq idx

/-- A DOMAIN read segment (R431, R464): its offset and its words; the snapshot is released with its last word. -/
def readSegTake (rq : Rq) (idx sub off n : Nat) (p : Part) : Part :=
  match checkDomain p rq idx sub false with
  | .ok =>
    if n = 0 ∨ 128 < n then refuse rq idx sub .badValue p
    else
      let ws := snapshotFor p rq idx sub
      let keep := if off + n = ws.length then none else some ({ idx, sub, words := ws, last := p.clk.rp } : Snapshot)
      let p := setSnap (instanceOf rq) keep p
      if off + n ≤ ws.length then answerOk rq idx sub (off :: (ws.drop off).take n) p else refuse rq idx sub .transfer p
  | c => refuse rq idx sub c p

/-- SNAPSHOT_TIMEOUT (R431): 1 s without a request. -/
def snapshotTimeout (i : Nat) (p : Part) : Part :=
  match tget none p.svc.snaps i with
  | some s => setSnap i none (advanceRp (s.last + secRp) p)
  | none => p

def execSnapshotTimeout (i : Fin 8) (s : State) : Outcome := runCtl (snapshotTimeout i.val) s

/-! ### DOMAIN writes (R431 to R433) -/

/-- Some session's transfer to the entry runs, or the request's session runs one; a rebuild or an installation refuses a
new value (R432, R480, R491). -/
def beginBusy (p : Part) (rq : Rq) (idx sub : Nat) : Bool :=
  (transferOf p (instanceOf rq)).isSome ||
    ((List.range 8).any fun i => match transferOf p i with | some t => t.idx == idx && t.sub == sub | none => false) ||
    (idx == 0x9010 && rd p 0x9000 2 == 1) || (idx == 0x9020 && (transomBusy p || moving p 0 || moving p 1))

/-- A DOMAIN write begins (R431, R432); an update's entries are written over the service bus only (R473). -/
def writeBeginTake (rq : Rq) (idx sub total : Nat) (p : Part) : Part :=
  match checkDomain p rq idx sub true, lookup idx sub with
  | .ok, some r =>
    if r.len < total then refuse rq idx sub .badValue p
    else if beginBusy p rq idx sub then refuse rq idx sub .busy p
    else if 2 ≤ rq.path then refuse rq idx sub .rule p
    else
      let i := instanceOf rq
      let p := setTransfer i (some { rq, idx, sub, total, last := p.clk.rp, full := total == 0 }) p
      let p := setInst i 5 total (setInst i 4 0 (setInst i 3 0 (setInst i 2 1 (setInst i 1 (idx * 2 ^ 16 + sub * 2 ^ 8) p))))
      answerOk rq idx sub [] p
  | c, _ => refuse rq idx sub c p

/-- A segment of a transfer that runs (R431). -/
def segmentTake (rq : Rq) (t : Transfer) (off : Nat) (ws : List Nat) (p : Part) : Part :=
  let i := instanceOf rq
  let have_ := t.words.length
  let touch := fun (t : Transfer) (p : Part) => setTransfer i (some { t with last := p.clk.rp }) p
  if off = have_ ∧ off + ws.length ≤ t.total then
    let words := t.words ++ ws
    let p := setInst i 4 words.length (touch { t with words, full := words.length == t.total } p)
    answerOk rq t.idx t.sub [words.length] p
  else if off < have_ ∧ off + ws.length ≤ have_ ∧ (t.words.drop off).take ws.length = ws then
    answerOk rq t.idx t.sub [have_] (touch t p)
  else if off < have_ ∧ (t.words.drop off).take ws.length ≠ ws.take (have_ - off) then
    refuse rq t.idx t.sub .transfer (transferFail i 2 p)
  else refuse rq t.idx t.sub .transfer (touch t p)

/-- The transfer of an instance that takes segments: one whose failure waits for its grant does not (R433). -/
def takingTransfer (p : Part) (i : Nat) : Option Transfer :=
  if (arbOf p (transferOp i)).any fun r => match r.kind with | .failure _ => true | _ => false then none else transferOf p i

/-- A DOMAIN write segment, over the service bus (R431, R464, R473). -/
def writeSegTake (rq : Rq) (idx sub off : Nat) (ws : List Nat) (p : Part) : Part :=
  match checkDomain p rq idx sub true with
  | .ok =>
    if ws.isEmpty ∨ 128 < ws.length then refuse rq idx sub .badValue p
    else if 2 ≤ rq.path then refuse rq idx sub .rule p
    else match takingTransfer p (instanceOf rq) with
      | some t => if t.idx = idx ∧ t.sub = sub then segmentTake rq t off (ws.map (· % 2 ^ 20)) p else refuse rq idx sub .transfer p
      | none => refuse rq idx sub .transfer p
  | c => refuse rq idx sub c p

/-- DOMAIN_TRANSFER_TIMEOUT (R433): 1 s without a segment. -/
def transferTimeout (i : Nat) (p : Part) : Part :=
  match transferOf p i with
  | some t => if t.full then p else transferFail i 1 (advanceRp (t.last + secRp) p)
  | none => p

def execDomainTransferTimeout (i : Fin 8) (s : State) : Outcome := runCtl (transferTimeout i.val) s

/-- Why a trigger table is not installed; 0 where it is (R491). -/
def installCause (p : Part) (ws : List Nat) : Nat :=
  if ws.length ≠ 573 ∨ !imageOk ws then 1 else if 16 ≤ rd p 0x7030 1 then 2 else 0

/-- A transfer's failure is granted: a refused trigger table is counted with its cause (R433, R491). -/
def transferFailed (i cause : Nat) (p : Part) : Part :=
  let p := match transferOf p i with
    | some t => onlyIf (cause == 3 && t.idx == 0x9020) (fun p => bump 0x9021 7 (wr 0x9021 3 (installCause p t.words) p)) p
    | none => p
  transferEnd i 4 cause p

/-- The old value of an updatable entry, in words. -/
def oldDomain (p : Part) (idx : Nat) : List Nat := if idx = 0x9020 then p.acq.tab.words else pairWords p.upd.staged

/-- A transfer commits: its audit record of action 3, its value, and its status DONE (R433, R480, R491). -/
def transferDone (i : Nat) (p : Part) : Part :=
  match transferOf p i with
  | some t =>
    let p := bump 0x1400 4 (auditPut t.rq 3 0 t.idx t.sub (oldDomain p t.idx) t.words (journalGood p))
    transferEnd i 2 0 (if t.idx = 0x9020 then transomBegin t.words p else stage t.words p)
  | none => p

/-- The journal could not take a write: it is counted, and the third in a row fails the journal (R422). -/
def journalFailed (p : Part) : Part :=
  let n := p.svc.fails + 1
  let p := bump 0x1400 5 { p with svc := { p.svc with fails := n } }
  if 3 ≤ n then trialBreak (wr 0x1400 7 2 p) else p

/-- The complete value of a transfer to `idx` is checked and committed; `ok` says that the journal took it (R433). -/
def transferCommit (idx i : Nat) (ok : Bool) (p : Part) : Part :=
  match transferOf p i with
  | some t =>
    let fails := raiseFailure (transferOp i)
    let good := if idx = 0x9020 then installCause p t.words == 0 else stagingOk t.words
    if t.idx ≠ idx ∨ !t.full ∨ p.pow.phase = .powerFail ∨ journalState p = 1 ∨ unsettled p (transferOp i) = false then p
    else if !good then fails 3 p
    else if journalState p = 2 then fails 4 p
    else if !ok then fails 4 (journalFailed p)
    else raiseCompletion (transferOp i) p
  | none => p

/-- DOMAIN_TRANSFER_COMMIT (R433, R480). -/
def execDomainTransferCommit (i : Fin 8) (ok : Bool) (s : State) : Outcome := runCtl (transferCommit 0x9010 i.val ok) s

/-- TRANSOM_INSTALL (R491). -/
def execTransomInstall (i : Fin 8) (ok : Bool) (s : State) : Outcome := run (transferCommit 0x9020 i.val ok) s

end Sys2Proof.Machine
end

