-- ==== Sys2Proof/Machine/Commit.lean ====
section
/-! DEFINITION. What a committed write of each entry does, and the dictionary requests: reads, writes, describes, DOMAIN
segments, scheduled writes, and the journal (R415 to R437). -/
namespace Sys2Proof.Machine

/-! ### The actions of committed writes -/

/-- The index of an entry in a block that starts at `base`. -/
def inBlock (idx base n : Nat) : Bool := decide (base ≤ idx ∧ idx < base + n)

/-- Actions of chapters 01 to 06. -/
def actFront (rq : Rq) (idx sub v old : Nat) (p : Part) : Part :=
  match calUnitAt idx sub with
  | some u => calRequestFree u p
  | none =>
    if idx = 0x1200 ∧ sub = 3 then wr 0x1200 3 (rd p 0x1200 2) p
    else if inBlock idx 0x1310 8 ∧ sub = 1 then keyWritten (idx - 0x1310) p
    else if idx = 0x1330 ∧ sub = 1 then closeSession v p
    else if idx = 0x1400 ∧ sub = 6 then wr 0x1400 6 0 p
    else if idx = 0x1401 ∧ sub = 1 then
      wr 0x1401 1 old { p with svc := { p.svc with windows := tput 1 p.svc.windows (instanceOf rq) v } }
    else if inBlock idx 0x2040 16 ∧ 5 ≤ sub ∧ sub ≤ 8 then
      { p with front := { p.front with maps := tput (2 ^ 16) p.front.maps (4 * (idx - 0x2040) + (sub - 5)) v } }
    else if idx = 0x2100 ∧ sub = 1 then ivStart p
    else p

/-- Actions of chapters 07 to 09. -/
def actMemory (idx sub old : Nat) (p : Part) : Part :=
  if inBlock idx 0x4000 4 ∧ sub = 7 then closeAll (idx - 0x4000) p
  else if inBlock idx 0x4010 16 ∧ 1 ≤ sub then creditChanged (idx - 0x4010) (sub - 1) old p
  else if inBlock idx 0x4040 4 ∧ sub = 3 then refreshRegions p
  else if idx = 0x4020 ∧ sub = 5 then wr 0x4020 5 (rd p 0x4020 4) p
  else if inBlock idx 0x7000 16 ∧ 1 ≤ sub ∧ sub ≤ 5 then regionWritten (idx - 0x7000) p
  else if inBlock idx 0x7010 16 ∧ sub = 1 then fillStart (idx - 0x7010) p
  else if inBlock idx 0x7010 16 ∧ sub = 3 then scrubRate [] (Fin.ofNat 16 (idx - 0x7010)) old p
  else if inBlock idx 0x7010 16 ∧ sub = 4 then scrubStart (idx - 0x7010) p
  else if idx = 0x7030 ∧ (sub = 1 ∨ sub = 2) then useNamed (sub - 1) p
  else p

/-- Actions of chapters 10 and 11. -/
def actLink (idx sub v old : Nat) (p : Part) : Part :=
  if inBlock idx 0x5000 28 ∧ sub = 1 then enableActs (idx - 0x5000) p
  else if inBlock idx 0x5000 28 ∧ sub = 9 then sleepActs (idx - 0x5000) p
  else if idx = 0x5070 ∧ sub = 1 then sparingActs old p
  else if idx = 0x5078 ∧ sub = 1 then (if v = 1 then engage p else disengage p)
  else if idx = 0x5080 ∧ 1 ≤ sub then ethernetActs (sub - 1) old p
  else if inBlock idx 0x5100 18 ∧ sub = 3 then (if v = 0 then holdCleared (idx - 0x5100) p else p)
  else if inBlock idx 0x5100 18 ∧ sub = 4 then retrain (idx - 0x5100) 7 p
  else p

/-- Actions of chapter 12. -/
def actTime (idx sub old : Nat) (p : Part) : Part :=
  if idx = 0x6000 ∧ sub = 4 then sourceWritten old p
  else if idx = 0x6000 ∧ sub = 0xC then reacquire p
  else if idx = 0x6010 ∧ sub = 1 then noteInUse p
  else if idx = 0x6020 ∧ sub = 2 then ppsSecondWritten old p
  else if inBlock idx 0x6030 2 ∧ 1 ≤ sub then ptpRestart (idx - 0x6030) p
  else if idx = 0x6040 ∧ sub = 1 then domainWritten old p
  else p

/-- Actions of chapters 13 and 14. -/
def actHk (idx sub v old : Nat) (p : Part) : Part :=
  if inBlock idx 0x8000 4 then inputWritten (idx - 0x8000) sub old p
  else if inBlock idx 0x8010 4 then pairWritten (idx - 0x8010) sub old p
  else if inBlock idx 0x8040 2 then loopWritten (idx - 0x8040) sub old p
  else if inBlock idx 0x8050 4 then chainWritten (Fin.ofNat 4 (idx - 0x8050)) sub p
  else if idx = 0x8054 ∧ sub = 2 then (if v = 1 then startNow p else if v = 2 then startAtCompare p else stopMask p)
  else if inBlock idx 0x805C 4 ∧ sub = 1 then injRequest (idx - 0x805C) p
  else if inBlock idx 0x8060 4 ∧ sub = 1 then hkCalRequest (idx - 0x8060) p
  else p

/-- Actions of chapters 17 and 19. -/
def actLate (rq : Rq) (idx sub v old : Nat) (p : Part) : Part :=
  if idx = 0x9000 ∧ sub = 1 then
    (if v = 1 then rebuildRequest (rq.cls == 7) p
     else if v = 3 then trialRequest 0 p.pow.safe (responseSent p)
     else if v = 4 then (if p.upd.trial then trialFailed 4 0 p else p)
     else clearTrial p)
  else if idx = 0x9021 ∧ sub = 1 then transomRevert p
  else if idx = 0xA000 ∧ 1 ≤ sub then isolationWritten (sub - 1) old p
  else if inBlock idx 0xA010 28 ∧ sub = 1 then (if v = 1 then testStart (idx - 0xA010) p else testDone (idx - 0xA010) [] p)
  else if idx = 0xA040 ∧ sub = 2 then selfTestStart p
  else p

/-- Bank requests (7046h.02). -/
def actBank (idx sub v : Nat) (p : Part) : Part :=
  if idx = 0x7046 ∧ sub = 2 then (if v = 1 then withdrawStart p else returnStart p) else p

/-- What a committed write of an entry does, by the chapter that owns it. -/
def commitAction (rq : Rq) (idx sub v old : Nat) (p : Part) : Part :=
  if idx < 0x4000 then actFront rq idx sub v old p
  else if idx < 0x5000 then actMemory idx sub old p
  else if idx < 0x6000 then actLink idx sub v old p
  else if idx < 0x7000 then
    (match calUnitAt idx sub with | some u => calRequestFree u p | none => actTime idx sub old p)
  else if idx < 0x8000 then actMemory idx sub old (actBank idx sub v p)
  else if idx < 0x9000 then actHk idx sub v old p
  else actLate rq idx sub v old p

/-- An abort that a write asks for: its operation, the operation's status, and what undoes a DEFERRED one (R72). -/
def abortOf (p : Part) (rq : Rq) (idx sub v : Nat) : Option (OpId × Nat × (Part → Part)) :=
  if v ≠ 2 then none
  else match calUnitAt idx sub with
  | some u => some (.cal u, calStatus p u, calUndo u)
  | none =>
    if idx = 0x1420 ∧ sub = 6 then
      let i := instanceOf rq
      some (transferOp i, instOf p i 2, id)
    else if idx = 0x2100 ∧ sub = 1 then some (.interval, rd p 0x2102 1, id)
    else if inBlock idx 0x3000 4 ∧ sub = 7 then
      let v := idx - 0x3000
      some (.capture (Fin.ofNat 4 v), rd p idx 8, captureAborted v)
    else if inBlock idx 0x4040 4 ∧ sub = 4 then
      let v := idx - 0x4040
      some (.job (Fin.ofNat 4 v), rd p idx 5, jobAborted v)
    else if inBlock idx 0x7010 16 ∧ sub = 4 then some (.scrub (Fin.ofNat 16 (idx - 0x7010)), rd p idx 5, id)
    else if inBlock idx 0x8060 4 ∧ sub = 1 then
      let m := idx - 0x8060
      some (.hkCal (Fin.ofNat 4 m), hkCalSt p m, setHkCal m 3 0)
    else if idx = 0x9000 ∧ sub = 1 then some (.image, if p.upd.rebuild.isSome then 1 else 0, id)
    else none

/-! ### Taking a request (R415 to R418) -/

/-- A write is acknowledged: the longest time is kept, in µs (R423). -/
def noteAck (since : Nat) (p : Part) : Part :=
  let us := (p.clk.rp - since) / usRp
  if rd p 0x1400 6 < us then wr 0x1400 6 (min us (2 ^ 32 - 1)) p else p

/-- A write of the journal begins: a WL change is counted in OTP first (R421, R425). -/
def stageWrite (w : Staged) (r : Row) (p : Part) : Part :=
  let p := onlyIf (r.acc == .wl && w.time.isNone) (wlCount w.idx w.sub) p
  { p with svc := { p.svc with staged := some w } }

/-- A write is taken: refused, raised as an abort, staged in the journal, or committed with its action; a restart that it
asks for follows its response (R415, R418, R487). -/
def writeTake (rq : Rq) (idx sub v since : Nat) (p : Part) : Part :=
  if vendorIdx idx then vendorTake rq idx sub false p else
  let v := if inBlock idx 0x1310 8 && sub == 1 then unwrapped p rq v else v
  match abortOf p rq idx sub v with
  | some (op, st, undo) => abortTake rq idx sub v op st undo p
  | none =>
    match checkWrite p rq idx sub v, lookup idx sub with
    | .ok, some r =>
      if journalled r then
        (if journalState p = 2 then refuse rq idx sub .journal p
         else stageWrite { rq, idx, sub, v, action := writeAction r, since } r p)
      else if idx = 0x9000 ∧ (v = 3 ∨ v = 4) then
        commitAction rq idx sub v 0 (answerOk rq idx sub [] (commitNow rq r idx sub v 1 (fun _ => id) p))
      else noteAck since (answerOk rq idx sub [] (commitNow rq r idx sub v 1 (commitAction rq idx sub v) p))
    | c, _ => ownRefusal idx sub c (refuse rq idx sub c p)

/-- The earliest time pending first (R11). -/
def insertScheduled (w : Scheduled) : List Scheduled → List Scheduled
  | [] => [w]
  | x :: t => if before w.time x.time then w :: x :: t else x :: insertScheduled w t

/-- A write is pending until its commit time (R437). -/
def holdScheduled (w : Scheduled) (p : Part) : Part :=
  { p with svc := { p.svc with scheduled := insertScheduled w p.svc.scheduled } }

/-- A scheduled write is checked at its arrival and held; one to a Persistent or WL entry is journalled as pending first, and
acknowledged with that (R437). -/
def scheduleTake (rq : Rq) (idx sub time v since : Nat) (p : Part) : Part :=
  if vendorIdx idx then (match vendorCheck rq idx sub p with | .ok => refuse rq idx sub .badValue p | c => refuse rq idx sub c p)
  else match checkWrite p rq idx sub v, lookup idx sub with
  | .ok, some r =>
    if diffMod 80 time (now p) < 0 ∨ 16 ≤ p.svc.scheduled.length then refuse rq idx sub .schedule p
    else if journalled r && journalState p == 2 then refuse rq idx sub .journal p
    else
      let v := if inBlock idx 0x1310 8 && sub == 1 then unwrapped p rq v else v
      if journalled r then stageWrite { rq, idx, sub, v, action := 6, since, time := some time } r p
      else noteAck since (answerOk rq idx sub [] (holdScheduled { rq, idx, sub, v, time } p))
  | c, _ => ownRefusal idx sub c (refuse rq idx sub c p)

/-- A session's close operation: it is answered, and the session closes (R464, R467). -/
def closeTake (rq : Rq) (idx sub : Nat) (p : Part) : Part :=
  let p := answerOk rq idx sub [] p
  match rq.sess with
  | some i => closeSession i p
  | none => p

/-- A request is taken for processing (R415). -/
def takeRequest (q : Req) (p : Part) : Part :=
  let p := onlyIf (q.idx == 0x2104) ivNow (renew q.rq p)
  match q.op with
  | .read => readTake q.rq q.idx q.sub p
  | .write v => writeTake q.rq q.idx q.sub v q.since p
  | .describe => describeTake q.rq q.idx q.sub p
  | .readSeg off n => readSegTake q.rq q.idx q.sub off n p
  | .writeBegin total => writeBeginTake q.rq q.idx q.sub total p
  | .writeSeg off ws => writeSegTake q.rq q.idx q.sub off ws p
  | .schedule time v => scheduleTake q.rq q.idx q.sub time v q.since p
  | .close => closeTake q.rq q.idx q.sub p
  | .openSlot nonce o => openTaken o q.idx nonce p

/-- A request that waits for compaction to end: a write of a Persistent or WL entry (R423). -/
def waitsForJournal (p : Part) (q : Req) : Bool :=
  journalState p == 1 && (match q.op, lookup q.idx q.sub with
    | .write _, some r => journalled r
    | .schedule _ _, some r => journalled r
    | _, _ => false)

/-- Waiting requests are taken in order while the controller is free (R415). -/
def drain : (fuel : Nat) → Part → Part
  | 0, p => p
  | n + 1, p =>
    match p.svc.staged, p.svc.waiting with
    | none, q :: t => if waitsForJournal p q then p else drain n (takeRequest q { p with svc := { p.svc with waiting := t } })
    | _, _ => p

/-- Take what waits. -/
def drainAll (p : Part) : Part := drain p.svc.waiting.length p

/-- A request arrives: it waits its turn and is taken where the controller is free; in power-fail handling none is taken
(R415, R507). -/
def submit (q : Req) (p : Part) : Part := if p.pow.phase = .powerFail then p else drainAll (enqueue q p)

/-- A request received now. -/
def submitNow (rq : Rq) (idx sub : Nat) (op : ReqOp) (p : Part) : Part := submit { rq, idx, sub, op, since := p.clk.rp } p

/-- DICTIONARY_READ (R415). -/
def execDictionaryRead (rq : Rq) (idx sub : Nat) (s : State) : Outcome := runCtl (submitNow rq idx sub .read) s

/-- RESULT_READ (R397): a read of 8058h + m.01. -/
def execResultRead (rq : Rq) (m : Fin 4) (s : State) : Outcome := runCtl (submitNow rq (0x8058 + m) 1 .read) s

/-- DICTIONARY_WRITE (R415). -/
def execDictionaryWrite (rq : Rq) (idx sub v : Nat) (s : State) : Outcome := runCtl (submitNow rq idx sub (.write v)) s

/-- DESCRIBE (R409). -/
def execDescribe (rq : Rq) (idx sub : Nat) (s : State) : Outcome := runCtl (submitNow rq idx sub .describe) s

/-- DOMAIN_READ_SEGMENT (R431). -/
def execDomainReadSegment (rq : Rq) (idx sub off n : Nat) (s : State) : Outcome := runCtl (submitNow rq idx sub (.readSeg off n)) s

/-- DOMAIN_WRITE_BEGIN (R431). -/
def execDomainWriteBegin (rq : Rq) (idx sub total : Nat) (s : State) : Outcome := runCtl (submitNow rq idx sub (.writeBegin total)) s

/-- DOMAIN_WRITE_SEGMENT (R431). -/
def execDomainWriteSegment (rq : Rq) (idx sub off : Nat) (ws : List Nat) (s : State) : Outcome :=
  runCtl (submitNow rq idx sub (.writeSeg off ws)) s

/-- DOMAIN_TRANSFER_ABORT (R433): a write of 2 to 1420h.06. -/
def execDomainTransferAbort (rq : Rq) (s : State) : Outcome := runCtl (submitNow rq 0x1420 6 (.write 2)) s

/-- SCHEDULED_WRITE (R437). -/
def execScheduledWrite (rq : Rq) (idx sub time v : Nat) (s : State) : Outcome :=
  runCtl (submitNow rq idx sub (.schedule (time % 2 ^ 80) v)) s

/-- CLOSE_SESSION (R467). -/
def execCloseSession (rq : Rq) (s : State) : Outcome := runCtl (submitNow rq 0 0 .close) s

/-- A WL change that did not program its value is used without effect (R425). -/
def loseChange (r : Row) (idx sub : Nat) (p : Part) : Part :=
  if r.acc = .wl then { p with pow := { p.pow with wlLost := some (idx, sub) } } else p

/-! ### Scheduled commits (R437) -/

/-- A scheduled write is checked again at its time, and commits with a record of action 6, or is refused; `ok` says that the
journal takes it, where it goes there. -/
def scheduledDue (ok : Bool) (w : Scheduled) (p : Part) : Part :=
  match abortOf p w.rq w.idx w.sub w.v, checkWrite p w.rq w.idx w.sub w.v, lookup w.idx w.sub with
  | some (op, st, undo), .ok, _ =>
    if st = 1 then raise op { kind := .abort } p else if st = 6 then undo p else bump 0x1230 1 p
  | none, .ok, some r =>
    if journalled r && journalState p == 2 then noteRefusal w.rq w.idx w.sub .journal p
    else if journalled r && !ok then
      noteRefusal w.rq w.idx w.sub .journal (journalFailed (loseChange r w.idx w.sub (onlyIf (r.acc == .wl) (wlCount w.idx w.sub) p)))
    else commitWith false w.rq r w.idx w.sub w.v 6 (commitAction w.rq w.idx w.sub w.v) p
  | _, c, _ => ownRefusal w.idx w.sub c (noteRefusal w.rq w.idx w.sub c p)

/-- The earliest pending write reaches its time; during compaction a journalled one waits. -/
def scheduledCommit (ok : Bool) (p : Part) : Part :=
  match p.svc.scheduled with
  | w :: t =>
    let waits := journalState p == 1 && (match lookup w.idx w.sub with | some r => journalled r | none => false)
    if p.pow.phase = .powerFail ∨ waits = true then p
    else scheduledDue ok w (advanceTo w.time { p with svc := { p.svc with scheduled := t } })
  | [] => p

/-- SCHEDULED_COMMIT (R437): `ok` and `retryOk` say that the journal takes the write, at its place or at a second one (R422). -/
def execScheduledCommit (ok retryOk : Bool) (s : State) : Outcome := runCtl (scheduledCommit (ok || retryOk)) s

/-! ### The journal (R421 to R425) -/

/-- The staged write's commit mark is programmed and verified, at its place or at a second one: it commits and is
acknowledged, or is answered JOURNAL (R421, R422). In power-fail handling its acknowledgement is not sent (R507). -/
def journalCommit (ok retryOk : Bool) (p : Part) : Part :=
  match p.svc.staged with
  | some w =>
    if journalState p = 1 then p
    else match lookup w.idx w.sub with
      | some r =>
        let p := { p with svc := { p.svc with staged := none } }
        if ok || retryOk then
          let p := match w.time with
            | some time => holdScheduled { rq := w.rq, idx := w.idx, sub := w.sub, v := w.v, time } (journalGood p)
            | none => commitWith true w.rq r w.idx w.sub w.v w.action (commitAction w.rq w.idx w.sub w.v) p
          if p.pow.phase = .powerFail then p else drainAll (noteAck w.since (answerOk w.rq w.idx w.sub [] p))
        else
          let p := journalFailed (if w.time.isNone then loseChange r w.idx w.sub p else p)
          if p.pow.phase = .powerFail then p else drainAll (refuse w.rq w.idx w.sub .journal p)
      | none => p
  | none => p

/-- JOURNAL_COMMIT (R421): `dt` ring periods after the command before it. -/
def execJournalCommit (dt : Nat) (ok retryOk : Bool) (s : State) : Outcome :=
  runCtl (fun p => journalCommit ok retryOk (advance dt p)) s

/-- COMPACTION_START (R423). -/
def execCompactionStart (s : State) : Outcome :=
  runCtl (fun p => if journalState p = 0 ∧ p.pow.phase ≠ .powerFail then trialBreak (wr 0x1400 7 1 p) else p) s

/-- What compaction keeps of an entry: the values at the layout versions of the firmware in the two slots (R489). -/
def keptLayouts (p : Part) (k : Nat) (vals : List (Nat × Nat)) : List (Nat × Nat) :=
  let of_ := fun s => Config.layout (rd p (slotIdx s) 2) (k / 256) (k % 256) % 255 + 1
  vals.filter fun x => x.1 == of_ 0 || x.1 == of_ 1

/-- COMPACTION_DONE (R423): the fresh journal is complete, the old one is released, and writes that waited go on. -/
def compactionDone (p : Part) : Part :=
  if journalState p = 1 ∧ p.pow.phase ≠ .powerFail then
    let j := p.svc.journal.filterMap fun x => match keptLayouts p x.1 x.2 with
      | [] => none
      | l => some (x.1, l)
    drainAll (trialBreak (wr 0x1400 7 0 { p with svc := { p.svc with journal := j } }))
  else p

def execCompactionDone (s : State) : Outcome := runCtl compactionDone s

end Sys2Proof.Machine
end

