-- ==== Sys2Proof/Machine/Bus.lean ====
section
/-! DEFINITION. The service bus and the in-band mirror: frames received, relayed, answered and polled; requests in a
session; broadcasts and their summaries (R434 to R436, R444 to R456, R464 to R470). -/
namespace Sys2Proof.Machine

/-! ### Places in the crown (R449, R453) -/

/-- The nibbles of an address down to a tier. -/
def upTo (addr tier : Nat) : Nat := addr / 2 ^ (4 * (4 - tier))

/-- The target lies in the part's crown, below the part. -/
def inCrown (p : Part) (addr tier : Nat) : Bool :=
  addressed p && decide (ownTier p < tier ∧ tier ≤ 4) && upTo addr (ownTier p) == upTo (ownAddr p) (ownTier p)

/-- The address and tier name the part itself. -/
def isOwn (p : Part) (addr tier : Nat) : Bool := addressed p && addr == ownAddr p && tier == ownTier p

/-- The position of the child whose crown holds the target. -/
def positionOf (p : Part) (addr : Nat) : Nat := upTo addr (ownTier p + 1) % 16

/-- The serial number a frame with SER begins with. -/
def Frame.serial (f : Frame) : Nat := ofOctets (f.body.take 8)

/-- A frame's body without the serial number that SER puts before it; an IDENTITY's or DISCOVER's own serial stays. -/
def Frame.rest (f : Frame) : List Nat := if f.ser then f.body.drop 8 else f.body

/-- What an answer to a frame copies. -/
def Frame.origin (f : Frame) (via : Option Nat) : Origin :=
  { via, host := f.host, sess := f.sess, ser := f.ser, addr := f.addr, tier := f.tier }

/-! ### Paths to children (R451, R454) -/

/-- The bus path to a position is available: it is polled and responsive. -/
def busPath (p : Part) (n : Nat) : Bool := bit (rd p 0x1300 1) n && decide ((tget {} p.svc.bus.polls n : PollPos).miss < 3)

/-- The in-band path on a port is available. -/
def bandPath (p : Part) (k : Nat) : Bool :=
  let s := linkSt p k
  rd p 0x1300 5 == 1 && (s == stService || s == stIsolated || s == stLooptimed || (s == stTrain && allIn p k laneReady))

/-- The path to the child at a position, the one by which the frame came if it is available: true for the bus. -/
def pathTo (p : Part) (via : Option Nat) (n : Nat) : Option Bool :=
  let b := busPath p n
  let i := bandPath p (portAt p n)
  if via.isNone then (if b then some true else if i then some false else none)
  else (if i then some false else if b then some true else none)

/-- A frame goes down on the segment. -/
def sendDown (os : List Nat) (p : Part) : Part := setBus { p.svc.bus with sentDown := os } p

/-- UNREACHABLE (R454). -/
def unreachable (o : Origin) (cause n : Nat) (p : Part) : Part := answer { o with ser := false } kUnreachable [cause, n] p

/-- A Bough relays a frame to a position, with an entry in its relay table; `serial` is that of a serial-addressed frame
(R454). -/
def relayTo (via : Option Nat) (f : Frame) (os : List Nat) (n : Nat) (p : Part) : Part :=
  let o := f.origin via
  match pathTo p via n with
  | none => bump 0x1301 7 (unreachable o 1 n p)
  | some b =>
    if 128 ≤ p.svc.bus.relays.length then bump 0x1301 4 (unreachable o 2 n p)
    else
      let e : Relay := { origin := o, serial := if f.ser then f.serial else 0, port := n, bus := b, since := p.clk.rp }
      let p := setBus { p.svc.bus with relays := p.svc.bus.relays ++ [e] } p
      if b then sendDown os p else sendInBand (portAt p n) os p

/-- The named parent relays a serial-addressed frame on its segment, and in band on the port whose far end has the serial
number (R455). -/
def relaySerial (via : Option Nat) (f : Frame) (os : List Nat) (p : Part) : Part :=
  let o := f.origin via
  if 128 ≤ p.svc.bus.relays.length then bump 0x1301 4 (unreachable o 2 0 p)
  else
    let port := (List.range 16).find? fun k => rd p (0x5100 + k) 7 == f.serial && f.serial != 0
    let e : Relay := { origin := o, serial := f.serial, port := port.getD 16, bus := true, since := p.clk.rp }
    let p := sendDown os (setBus { p.svc.bus with relays := p.svc.bus.relays ++ [e] } p)
    match port with
    | some k => if bandPath p k then sendInBand k os p else p
    | none => p

/-! ### DISCOVER and POLL (R450, R452, R455) -/

/-- IDENTITY (R455). -/
def discoverIn (o : Origin) (p : Part) : Part :=
  let a := addressed p
  answer o kIdentity (toOctets 8 (ownSerial p) ++ toOctets 3 (if a then ownAddr p else 0) ++
    [if a then ownTier p else 0xFF, rd p 0x1020 3, rd p 0 4, rd p 0 7]) p

/-- DISCOVER (R455). -/
def execDiscover (o : Origin) (s : State) : Outcome := runCtl (discoverIn { o with ser := true }) s

/-- A frame's octets with its MORE flag set as given, and its check. -/
def withMore (more : Bool) (os : List Nat) : List Nat :=
  match os with
  | k :: fl :: t =>
    let h := (k :: putBit fl 4 more :: t).take (os.length - 4)
    h ++ toOctets 4 (crc32 h)
  | _ => os

/-- A POLL names the part: it sends the oldest frame of its upward queue, or EMPTY (R450). -/
def pollIn (o : Origin) (p : Part) : Part :=
  if p.pow.phase = .powerFail then p
  else
    let b := p.svc.bus
    match b.up with
    | f :: t => setBus { b with up := t, sentUp := withMore (!t.isEmpty) f } p
    | [] => setBus { b with sentUp := (answerFrame o kEmpty [] p).octets } p

/-- POLL (R450): by the part's address, or by its serial number with SER. -/
def execPoll (o : Origin) (s : State) : Outcome := runCtl (fun p => if o.ser || addressed p then pollIn o p else p) s

/-! ### Requests in a session (R464 to R466) -/

/-- A value that no type admits, for a value field of the wrong length or form. -/
def noValue : Nat := 2 ^ 300

/-- The words of a value field: three octets each, the top four bits zero. -/
def valueOf (idx sub : Nat) (os : List Nat) : Nat :=
  match lookup idx sub with
  | some r =>
    let ws := crownVals.unOct (os.length / 3) os
    if os.length = 3 * r.ty.words ∧ ws.all (fun w => decide (w < 2 ^ 20)) = true then ofWords ws else noValue
  | none => noValue

/-- The operation that a request's fields spell; one that is not in the table, or is cut short, applies to no entry. -/
def opOf (op idx sub : Nat) (os : List Nat) : ReqOp :=
  match op with
  | 1 => .read
  | 2 => .write (valueOf idx sub os)
  | 3 => .describe
  | 4 => if os.length = 4 then .readSeg (ofOctets (os.take 3)) (os.getD 3 0) else .readSeg 0 0
  | 5 => if os.length = 3 then .writeBegin (ofOctets os) else .readSeg 0 0
  | 6 => .writeSeg (ofOctets (os.take 3)) (if os.length % 3 = 0 then crownVals.unOct ((os.length - 3) / 3) (os.drop 3) else [])
  | 7 => .schedule (ofOctets (os.take 10)) (valueOf idx sub (os.drop 10))
  | 8 => .close
  | _ => .readSeg 0 0

/-- The sequence after another (R466). -/
def nextSeq (n : Nat) : Nat := if n = 2 ^ 20 - 1 then 1 else n + 1

/-- The path code of a request (R428). -/
def pathCode (via : Option Nat) (bc : Bool) : Nat := (if via.isSome then 2 else 0) + (if bc then 1 else 0)

/-- A REQUEST with the right tag, by its sequence (R466). -/
def requestBySeq (o : Origin) (i seq : Nat) (body : List Nat) (p : Part) : Part :=
  let x := session p i
  let last := rd p (0x1320 + i) 5
  let next := match x.busy with | some b => nextSeq b | none => nextSeq last
  if x.busy = some seq then p
  else if x.busy.isNone ∧ seq = last ∧ x.last ≠ [] then sendUp o.via x.last p
  else if seq ≠ next then sessionError o 3 seq (bump 0x1330 5 p)
  else if x.busy.isSome then sessionError o 8 seq p
  else
    let op := body.getD 3 0
    let idx := ofOctets ((body.drop 4).take 2)
    let sub := body.getD 6 0
    let rq : Rq := { cls := rd p (0x1320 + i) 3, slot := rd p (0x1320 + i) 2, sess := some i, path := pathCode o.via false, seq }
    let p := setSession i { x with origin := o, busy := some seq, op } p
    submitNow rq idx sub (opOf op idx sub ((body.drop 7).take (body.length - 23))) p

/-- A REQUEST (R464 to R467): its session must be open and its tag right. -/
def requestIn (f : Frame) (via : Option Nat) (p : Part) : Part :=
  let o := f.origin via
  let i := f.sess
  let body := f.rest
  let seq := ofOctets (body.take 3)
  if 8 ≤ i ∨ sessSt p i ≠ 2 then sessionError o 1 seq p
  else
    let h := f.head
    let tag := (hmac (session p i).key (0 :: h.take (h.length - 16))).take 16
    if body.length < 23 ∨ h.drop (h.length - 16) ≠ tag then
      sessionError o 2 seq (bump (0x1310 + rd p (0x1320 + i) 2) 5 (bump 0x1330 4 p))
    else requestBySeq o i seq body p

/-! ### Broadcasts (R434 to R436, R468, R469) -/

/-- The fields of a BROADCAST. -/
structure Bcast where
  stamp : Nat
  slot : Nat
  op : Nat
  idx : Nat
  sub : Nat
  args : List Nat
  deriving DecidableEq, Repr, Inhabited

/-- The fields of a BROADCAST's body, without its tag. -/
def bcastOf (os : List Nat) : Option Bcast :=
  if os.length < 31 then none
  else some { stamp := ofOctets (os.take 10), slot := os.getD 10 0, op := os.getD 11 0, idx := ofOctets ((os.drop 12).take 2), sub := os.getD 14 0, args := (os.drop 15).take (os.length - 31) }

/-- A tag under a slot key (R468). -/
def slotTag (p : Part) (slot : Nat) (f : Frame) : List Nat :=
  let h := f.head
  (hmac (slotKey p slot) (strBcst ++ h.take (h.length - 16))).take 16

/-- A tag at the end of a frame is right under the part's own key. -/
def tagRight (p : Part) (slot : Nat) (f : Frame) : Bool :=
  decide (slot < 8) && rd p (0x1310 + slot) 4 == 1 && f.head.drop (f.head.length - 16) == slotTag p slot f

/-- A stamp is later than the last one accepted from its slot, if there is one since reset (R11, R468). -/
def laterStamp (last stamp : Nat) : Bool := before last stamp || (last == 0 && stamp != 0)

/-- A broadcast is accepted (R468): its tag is right, and its stamp is fresh and within 1 s. -/
def bcastAccepted (p : Part) (f : Frame) (b : Bcast) : Bool :=
  tagRight p b.slot f && decide ((diffMod 80 b.stamp (now p)).natAbs ≤ 327680000000) && laterStamp (rd p 0x1340 (3 + b.slot)) b.stamp

/-- An entry that may not be broadcast: KEY, DOMAIN or WL (R435). -/
def notBroadcast (idx sub : Nat) : Bool :=
  match lookup idx sub with | some r => r.ty == .key || r.ty == .domain || r.acc == .wl | none => false

/-- The position ports of children in SERVICE. -/
def servedPorts (p : Part) : List Nat :=
  (List.range 16).filter fun k => isBough p && inService p k && (link p k).companion.isNone

/-- A broadcast is relayed to every child by its path. -/
def relayAll (via : Option Nat) (os : List Nat) (p : Part) : Part :=
  let ks := servedPorts p
  let path := fun k => pathTo p via ((link p k).pos.getD k)
  let p := onlyIf (isBough p && (ks.any (fun k => path k == some true) || via.isNone)) (sendDown os) p
  forEach (ks.filter fun k => path k == some false) (fun k q => sendInBand k os q) p

/-- A broadcast that reaches the part: it is authenticated, relayed, checked and committed, and its summary is gathered
(R434, R468). -/
def broadcastIn (f : Frame) (via : Option Nat) (os : List Nat) (p : Part) : Part :=
  match bcastOf f.body with
  | none => bump 0x1340 2 p
  | some b =>
    let ok := bcastAccepted p f b
    let stops := notBroadcast b.idx b.sub
    let g : Gather := { slot := b.slot, stamp := b.stamp, origin := f.origin via, wait := if stops then [] else servedPorts p, since := p.clk.rp }
    let g := if ok then g else g.ownDone (ownAddr p) (ownTier p) 2
    let p := setBus { p.svc.bus with gathers := p.svc.bus.gathers ++ [g] } p
    let p := onlyIf (!stops) (relayAll via os) p
    let rq : Rq := { cls := slotClass p b.slot, slot := b.slot, path := pathCode via true }
    if !ok then sendSummaries (bump 0x1340 2 p)
    else
      let p := bump 0x1340 1 (wr 0x1340 (3 + b.slot) b.stamp p)
      if stops then refuse rq b.idx b.sub .noBroadcast p
      else if b.op = 2 then submitNow rq b.idx b.sub (.write (valueOf b.idx b.sub b.args)) p
      else if b.op = 7 then
        submitNow rq b.idx b.sub (.schedule (ofOctets (b.args.take 10)) (valueOf b.idx b.sub (b.args.drop 10))) p
      else submitNow rq b.idx b.sub (.write noValue) p

/-- A summary of a child is added, or the child counts as silent where its tag fails (R436, R469). -/
def gatherChild (p : Part) (k : Nat) (f : Frame) (g : Gather) : Gather :=
  let b := f.body
  let g := { g with wait := g.wait.filter (· != k) }
  if !tagRight p g.slot f then { g with silent := satInc g.silent }
  else
    let n := fun i => ofOctets ((b.drop i).take 3)
    let g := { g with committed := satAdd g.committed (n 11), refused := satAdd g.refused (n 14), silent := satAdd g.silent (n 17) }
    if n 20 = 0xFFFFF ∧ b.getD 23 0 = 0xFF then g else g.refusal (n 20) (b.getD 23 0) (b.getD 24 0)

/-- A summary from port `k` belongs to a broadcast being gathered. -/
def gatherOf (p : Part) (k : Nat) (f : Frame) : Option Gather :=
  p.svc.bus.gathers.find? fun g => f.body.length == 41 && g.stamp == ofOctets (f.body.take 10) && g.slot == f.body.getD 10 0 && g.wait.contains k

/-- A SUMMARY from a child (R436). -/
def summaryIn (k : Nat) (f : Frame) (p : Part) : Part :=
  match gatherOf p k f with
  | some g =>
    let gs := p.svc.bus.gathers.map fun x => if x = g then gatherChild p k f g else x
    sendSummaries (setBus { p.svc.bus with gathers := gs } p)
  | none => p

/-- SUMMARY_RECEIVED (R469): a SUMMARY frame of the child on position port k. -/
def execSummaryReceived (k : Fin 16) (octets : List Nat) (s : State) : Outcome :=
  run (fun p => match frameOf octets with
    | some f => if f.kind = kSummary then summaryIn k f p else p
    | none => p) s

/-- SUMMARY_TIMEOUT (R436): the children that have not answered the oldest broadcast within (5 - t) × 50 ms are silent. -/
def summaryTimeout (p : Part) : Part :=
  match p.svc.bus.gathers.find? fun g => !g.wait.isEmpty with
  | some g =>
    let p := advanceRp (g.since + (5 - tierOr0 p) * 50 * msRp) p
    let gs := p.svc.bus.gathers.map fun x => if x = g then { g with silent := satAdd g.silent g.wait.length, wait := [] } else x
    sendSummaries (setBus { p.svc.bus with gathers := gs } p)
  | none => p

def execSummaryTimeout (s : State) : Outcome := run summaryTimeout s

/-! ### Downward frames (R446, R448, R453) -/

/-- A frame for the part itself, by its kind. -/
def processFrame (f : Frame) (via : Option Nat) (p : Part) : Part :=
  let o := f.origin via
  let b := f.rest
  if f.kind = kOpen then (if b.length = 17 then openIn o (b.getD 0 0) (b.drop 1) p else p)
  else if f.kind = kProve then (if b.length = 33 ∧ f.sess < 8 then proveIn o (b.getD 0 0) f.sess (b.drop 1) p else sessionError o 1 0 p)
  else if f.kind = kRequest then requestIn f via p
  else if f.kind = kDiscover then (if f.serial = ownSerial p then discoverIn o p else p)
  else if f.kind = kPoll then (if via.isNone then pollIn o p else p)
  else p

/-- A frame is discarded: on the upstream segment a slave passes over what is not meant for it (R453). -/
def discardFrame (inCrown_ : Bool) (via : Option Nat) (p : Part) : Part :=
  onlyIf (via.isSome || inCrown_) (bump 0x1301 3) p

/-- A broadcast is for the part itself, or for a part in whose crown it lies (R434). -/
def bcastReaches (p : Part) (f : Frame) : Bool :=
  addressed p && decide (f.tier ≤ ownTier p) && upTo f.addr f.tier == upTo (ownAddr p) f.tier

/-- A downward frame that is well formed is processed, relayed or discarded by its target (R453). -/
def routeDown (f : Frame) (via : Option Nat) (os : List Nat) (p : Part) : Part :=
  let below := inCrown p f.addr f.tier
  if f.kind = kBroadcast ∧ bcastReaches p f = true then broadcastIn f via os p
  else if (f.ser ∧ f.serial = ownSerial p) ∨ (!f.ser ∧ isOwn p f.addr f.tier) then processFrame f via p
  else if f.kind = kPoll then p
  else if isBough p ∧ below = true then relayTo via f os (positionOf p f.addr) p
  else if isBough p ∧ f.ser = true ∧ isOwn p f.addr f.tier = true then relaySerial via f os p
  else discardFrame below via p

/-- A downward frame arrives, by the upstream segment or in band on an uplink; a slave passes over what other slaves
answer on the segment (R446 to R448, R453, R507). -/
def frameDown (via : Option Nat) (os : List Nat) (p : Part) : Part :=
  if p.pow.phase = .powerFail ∨ (via.isSome ∧ (rd p 0x1300 5 = 0 ∨ recovery p = true)) then p
  else if 512 < claimedLength os then bump 0x1301 8 p
  else match frameOf os with
    | some f =>
      if downKinds.contains f.kind && !f.up then routeDown f via os p
      else if via.isNone && upKinds.contains f.kind && f.up then p
      else bump 0x1301 1 p
    | none => bump 0x1301 1 p

/-- BUS_FRAME_RECEIVED (R453): the octets of a frame from its kind to its check; those of a frame that stops early, or up to a gap
longer than one octet time, where it does not end (R446). -/
def execBusFrameReceived (via : Option (Fin 18)) (octets : List Nat) (s : State) : Outcome :=
  runCtl (frameDown (via.map (·.val)) octets) s

/-- BROADCAST (R468): a BROADCAST frame arrives. -/
def execBroadcast (via : Option (Fin 18)) (octets : List Nat) (s : State) : Outcome :=
  runCtl (fun p => match frameOf octets with
    | some f => if f.kind = kBroadcast then frameDown (via.map (·.val)) octets p else p
    | none => p) s

/-! ### Upward frames (R450, R451, R454) -/

/-- UNREACHABLE comes from a Bough on the way to the target, which lies in its crown (R453, R454). -/
def onTheWay (f : Frame) (e : Relay) : Bool :=
  f.kind == kUnreachable && upTo e.origin.addr f.tier == upTo f.addr f.tier && decide (f.tier < e.origin.tier ∨ (e.origin.ser ∧ f.tier = e.origin.tier))

/-- A relay entry that an upward frame answers: its target and host, and its session, which an OPEN does not yet have. -/
def answers (f : Frame) (e : Relay) : Bool :=
  e.origin.host == f.host && (e.origin.sess == f.sess || e.origin.sess == 15) &&
    (onTheWay f e || (e.origin.addr == f.addr && e.origin.tier == f.tier && e.origin.ser == f.ser && (!f.ser || e.serial == f.serial)))

/-- The answer to a POLL: its position is responsive, and MORE is kept (R450, R451). -/
def pollAnswered (f : Frame) (p : Part) : Part :=
  let b := p.svc.bus
  match b.polled with
  | some q => match q.pos with
    | some n => setBus { b with polled := none, polls := tput {} b.polls n { last := some p.clk.rp, miss := 0, more := f.more } } p
    | none => setBus { b with polled := none } p
  | none => p

/-- An upward frame passes by its relay entry, which it frees; one without an entry goes up in band or by the bus
(R454). -/
def passUp (f : Frame) (os : List Nat) (p : Part) : Part :=
  let b := p.svc.bus
  match b.relays.find? (answers f) with
  | some e => sendUp e.origin.via (withMore false os) (setBus { b with relays := b.relays.erase e } p)
  | none => sendUp (reportPath p) (withMore false os) p

/-- An upward frame arrives from a child, on the segment or in band on a port (R446, R448, R454). -/
def frameUp (via : Option Nat) (os : List Nat) (p : Part) : Part :=
  if p.pow.phase = .powerFail ∨ !isBough p ∨ (via.isSome ∧ rd p 0x1300 5 = 0) then p
  else if 512 < claimedLength os then bump 0x1301 8 p
  else match frameOf os with
    | some f =>
      if upKinds.contains f.kind && f.up then
        let p := if via.isNone then pollAnswered f p else p
        if f.kind = kEmpty then p
        else if f.kind = kCrown then crownTaken f p
        else
          let k := match childOf p f.addr f.tier with | some n => portAt p n | none => 16
          if f.kind = kSummary ∧ (gatherOf p k f).isSome then summaryIn k f p else passUp f os p
      else bump 0x1301 1 p
    | none => bump 0x1301 1 p

/-- UPWARD_FRAME (R454). -/
def execUpwardFrame (via : Option (Fin 16)) (octets : List Nat) (s : State) : Outcome :=
  run (frameUp (via.map (·.val)) octets) s

/-- RELAY_ENTRY_TIMEOUT (R454): the oldest entry is 200 ms old. -/
def relayTimeout (p : Part) : Part :=
  match p.svc.bus.relays with
  | e :: t =>
    let p := advanceRp (e.since + 200 * msRp) p
    setBus { p.svc.bus with relays := t } p
  | [] => p

def execRelayEntryTimeout (s : State) : Outcome := run relayTimeout s

/-! ### Polling (R450, R451, R455) -/

/-- What a master may poll: a position, or a serial number (R455). -/
def pollKeys (p : Part) : List (Nat × Option Nat × Nat) :=
  let ps := ((List.range 16).filter fun n => bit (rd p 0x1300 1) n).map fun n => (n, some n, 0)
  let ss := ((p.svc.bus.relays.filter fun e => e.bus && e.origin.ser && isOwn p e.origin.addr e.origin.tier).map (·.serial)).eraseDups
  ps ++ (List.range ss.length).map fun i => (16 + i, none, ss.getD i 0)

/-- A position presses: a request relayed to it over the bus is outstanding, or its last answer carried MORE. -/
def presses (p : Part) (x : Nat × Option Nat × Nat) : Bool :=
  match x.2.1 with
  | some n => (tget {} p.svc.bus.polls n : PollPos).more || p.svc.bus.relays.any fun e => e.bus && e.port == n &&
      !(e.origin.ser && isOwn p e.origin.addr e.origin.tier)
  | none => true

/-- When a position's next POLL is due (R451). -/
def pollDue (p : Part) (n : Nat) : Nat :=
  let x : PollPos := tget {} p.svc.bus.polls n
  match x.last with
  | none => 0
  | some t => t + (if 3 ≤ x.miss then 100 * msRp else 2 * msRp)

/-- The earliest due of some positions. -/
def earliest (p : Part) : List (Nat × Option Nat × Nat) → Option (Nat × Option Nat × Nat)
  | [] => none
  | x :: t => match earliest p t with
    | some y => if pollDue p y.1 < pollDue p x.1 then some y else some x
    | none => some x

/-- The position to poll next: one that is due, unless the last POLL went to such a one and another presses, else the next
pressing one in rotating order, else the earliest due. -/
def pollNext (p : Part) : Option (Nat × Option Nat × Nat) :=
  let ks := pollKeys p
  let idle := ks.filter fun x => !presses p x
  let press := ks.filter (presses p)
  let turn := p.svc.bus.turn
  match idle.find? (fun x => decide (pollDue p x.1 ≤ p.clk.rp) && !(p.svc.bus.idled && !press.isEmpty)), press.find? (fun x => decide (turn < x.1)), press with
  | some x, _, _ => some x
  | none, some x, _ => some x
  | none, none, x :: _ => some x
  | none, none, [] => earliest p idle

/-- The POLL frame to a child. -/
def pollFrame (p : Part) (x : Nat × Option Nat × Nat) : Frame :=
  match x.2.1 with
  | some n =>
    let c := childAddr p n
    { kind := kPoll, flags := c.2 % 8, addr := c.1, host := 0, sess := 15, body := [] }
  | none => { kind := kPoll, flags := 0x20 + ownTier p % 8, addr := ownAddr p, host := 0, sess := 15, body := toOctets 8 x.2.2 }

/-- The master polls (R451); POLL waits for its answer from its last octet on, each octet taking 0.8 µs (R445). -/
def pollSend (p : Part) : Part :=
  if p.pow.phase = .powerFail ∨ !isBough p ∨ !addressed p ∨ p.svc.bus.polled.isSome then p
  else match pollNext p with
    | some x =>
      let p := if presses p x then p else advanceRp (pollDue p x.1) p
      let os := (pollFrame p x).octets
      let p := advance ((os.length + 1) * 2048) p
      let b := p.svc.bus
      let polls := match x.2.1 with
        | some n => tput {} b.polls n { (tget {} b.polls n : PollPos) with last := some p.clk.rp }
        | none => b.polls
      setBus { b with sentDown := os, polls, polled := some { pos := x.2.1, serial := x.2.2, since := p.clk.rp }, turn := if presses p x then x.1 else b.turn, idled := !presses p x } p
    | none => p

/-- POLL_SEND (R451). -/
def execPollSend (s : State) : Outcome := run pollSend s

/-- POLL_TIMEOUT (R450): no start bit within 40 µs. -/
def pollTimeout (p : Part) : Part :=
  match p.svc.bus.polled with
  | some q =>
    let p := bump 0x1301 2 (advanceRp (q.since + 40 * usRp) p)
    let b := p.svc.bus
    let polls := match q.pos with
      | some n =>
        let x : PollPos := tget {} b.polls n
        tput {} b.polls n { x with miss := min 3 (x.miss + 1), more := false }
      | none => b.polls
    setBus { b with polled := none, polls } p
  | none => p

def execPollTimeout (s : State) : Outcome := run pollTimeout s

/-! ### The in-band mirror (R310, R456) -/

/-- The octets of a management packet: two per payload word, the last one alone with ODD. -/
def packetOctets (h : Nat) (ws : List Nat) : List Nat :=
  let os := ws.flatMap (toOctets 2)
  if bit h 12 then os.take (os.length - 1) else os

/-- The octets collected of a frame on a link. -/
def setAsm (k : Nat) (os : List Nat) (p : Part) : Part := setBus { p.svc.bus with asm := tput [] p.svc.bus.asm k os } p

/-- A frame is complete: downward on an uplink, upward on a port; one that fails its check is broken. -/
def frameInBand (k : Nat) (os : List Nat) (p : Part) : Part :=
  if os.drop (os.length - 4) != toOctets 4 (crc32 (os.take (os.length - 4))) then bump 0x1301 5 p
  else if 16 ≤ k then frameDown (some k) os p else frameUp (some k) os p

/-- A management packet with H = 0 (R456). -/
def octetsReceived (k : Nat) (ws : List Nat) (p : Part) : Part :=
  let h := ws.headD 0
  let seg := bits h 15 14
  let os := packetOctets h ((ws.drop 1).take (bits h 4 0))
  let have_ := tget [] p.svc.bus.asm k
  if rd p 0x1300 5 = 0 ∨ bits h 19 16 ≠ 5 ∨ bit h 13 = true ∨ p.pow.phase = .powerFail then p
  else
    let broken := if seg < 2 then !have_.isEmpty else have_.isEmpty
    let p := onlyIf broken (bump 0x1301 5) p
    if seg = 0 then frameInBand k os (setAsm k [] p)
    else if seg = 1 then setAsm k os p
    else if broken then p
    else if seg = 2 then setAsm k (have_ ++ os) p
    else frameInBand k (have_ ++ os) (setAsm k [] p)

/-- A link may receive management packets: in TRAIN once its lanes are READY, and in SERVICE, ISOLATED and LOOPTIMED
(R300). -/
def takesManagement (p : Part) (k : Nat) : Bool :=
  let s := rd p (0x5100 + k) 1
  s == 3 || s == 6 || s == 2 ||
    (s == 1 && !(link p k).lanes.isEmpty && (link p k).lanes.all fun l => rd p (0x5020 + l) 1 == 3)

/-- A management packet arrives: one that the link's state does not allow, or that holds a poisoned word, is discarded and
counted (R300, R304, R456). -/
def managementPacket (k : Nat) (pois : Bool) (ws : List Nat) (p : Part) : Part :=
  if !takesManagement p k then bump (0x5120 + k) 9 p
  else if pois then packetDefect k p
  else octetsReceived k ws p

/-- MANAGEMENT_PACKET (R456): the packet's words, its header first. -/
def execManagementPacket (k : Fin 18) (pois : Bool) (ws : List Nat) (s : State) : Outcome := run (managementPacket k.val pois ws) s

end Sys2Proof.Machine
end

