-- ==== Sys2Proof/Machine/Power.lean ====
section
/-! DEFINITION. Supplies, the power-fail warning, reset and start-up (R1, R495 to R513, R532). -/
namespace Sys2Proof.Machine

/-! ### Power-fail handling (R499, R500, R507) -/

/-- Loop gates are driven off, and excitation and burn-out currents are off (R507 step 2). -/
def currentsOff (p : Part) : Part :=
  let p := forEach (List.range 2) (fun j q => driveLoop j 0 0 0 q) p
  forEach (List.range 4) (fun n q => wr (0x8010 + n) 7 0 q) p

/-- Power-fail handling begins, in a part that is out of reset (R507). -/
def failBegin (p : Part) : Part :=
  if p.pow.phase = .running then currentsOff { p with pow := { p.pow with phase := .powerFail, failAt := p.clk.rp } } else p

/-- PFAIL_ASSERT (R507). -/
def execPfailAssert (s : State) : Outcome := lift failBegin s

/-- A supply is not good from here on (R498, R499): VCORE, VANA, VLANE, VLT, VIO, VHK by number. -/
def supplyFail (n : Nat) (p : Part) : Part := failBegin { p with pow := { p.pow with bad := setBit p.pow.bad n } }

/-- SUPPLY_FAIL (R499). -/
def execSupplyFail (n : Fin 6) (s : State) : Outcome := lift (supplyFail n.val) s

/-- SUPPLY_RISE (R498). -/
def execSupplyRise (n : Fin 6) (s : State) : Outcome :=
  lift (fun p => { p with pow := { p.pow with bad := clrBit p.pow.bad n.val } }) s

/-- LREF is lost: power-fail handling begins, and lane transmitters that run from it go to electrical idle; a loop-timed one keeps
its recovered clock (R500). -/
def lrefLoss (p : Part) : Part :=
  if p.pow.phase = .running then
    forEach (List.range 28) (fun l q =>
      if txSt q l = txSend ∧ rd q (0x5020 + l) 4 ≠ 1 then setTxSt l txSilent q else q)
      (failBegin { p with pow := { p.pow with lrefLost := true } })
  else p

/-- LREF_LOSS (R500). -/
def execLrefLoss (s : State) : Outcome := lift lrefLoss s

/-! ### Entering reset (R507) -/

/-- 250 µs after the warning the part enters reset (R507 step 5). -/
def powerFailReset (p : Part) : Part :=
  if p.pow.phase = .powerFail then resetPart (advanceRp (p.pow.failAt + 250 * usRp) p) else p

/-- POWER_FAIL_RESET (R507). -/
def execPowerFailReset (s : State) : Outcome := lift powerFailReset s

/-! ### Reset release and start-up (R499, R502 to R506) -/

/-- The role at reset release (R502). -/
def roleOf (lock straps : Nat) : Role :=
  if lock = 0 then .leaf else if lock = 1 then .bough else if straps = 1 then .bough else .leaf

/-- Straps are sampled: the role is fixed, and an instruction of control over pins gives way to IDCODE (R502, R503,
R526). -/
def sampleStraps (straps : Nat) (safe : Bool) (p : Part) : Part :=
  let role := roleOf (rd p 0x1020 1) straps
  let p := { p with pow := { p.pow with phase := .running, role, safe, lrefLost := false, jtag := if pinInstruction p.pow.jtag then 1 else p.pow.jtag } }
  wr 0x1020 4 (straps % 4) (wr 0x1020 3 (match role with | .leaf => 0 | .bough => 1) p)

/-- A trial that was running when the part stopped has failed (R484). -/
def settleTrial (p : Part) : Part :=
  if p.upd.trial then
    let p := match slotWith p slotTrial with | some s => setSlotState s slotFailed p | none => p
    trialStatus 4 5 { p with upd := { p.upd with trial := false } }
  else p

/-- A rebuild that was running resumes from its checkpoint, or is abandoned; `ok` says that the checkpoint reads back
sound (R483). -/
def settleRebuild (ok : Bool) (p : Part) : Part :=
  if slotState p (targetSlot p) = slotRebuilding then
    match p.upd.rebuild, p.upd.check with
    | some r, some c => if ok ∧ c.digest = sha256 p.upd.staged then wr 0x9000 4 r.out.length (rebuildStatus 1 0 p) else rebuildEnd 4 6 p
    | _, _ => rebuildEnd 4 6 p
  else { p with upd := { p.upd with rebuild := none, check := none } }

/-- Reset release: `bad` names slots that do not read back sound, `ok` says that a rebuild's checkpoint does (R499, R505). -/
def resetRelease (straps : Nat) (safe : Bool) (bad : Nat) (ok : Bool) (p : Part) : Part :=
  if p.pow.phase = .inReset ∧ p.pow.bad = 0 then
    let p := settleRebuild ok (loadConfirmed bad (settleTrial (sampleStraps straps safe p)))
    if recovery p then replayJournal p else startUp p
  else p

/-- RESET_RELEASE (R505). -/
def execResetRelease (straps : Fin 4) (safe : Bool) (bad : Nat) (ok : Bool) (s : State) : Outcome :=
  lift (resetRelease straps.val safe bad ok) s

end Sys2Proof.Machine
end

