-- ==== Sys2Proof/Machine/Grant.lean ====
section
/-! DEFINITION. The grant of a commit arbiter (R70 to R73). -/
namespace Sys2Proof.Machine

/-- The control entry of an operation, to which its abort is written. -/
def controlEntry : OpId → Nat × Nat
  | .capture v => (0x3000 + v, 7)
  | .job v => (0x4040 + v, 4)
  | .interval => (0x2100, 1)
  | .cal u => calRequestKey u
  | .scrub r => (0x7010 + r, 4)
  | .transfer _ => (0x1420, 6)
  | .image => (0x9000, 1)
  | .hkCal m => (0x8060 + m, 1)

/-- Completion is granted: the operation commits (R73). -/
def grantDone (op : OpId) (p : Part) : Part :=
  match op with
  | .capture v => captureDone v p
  | .job v => jobDone v p
  | .interval => ivDone p
  | .cal u => calDone u p.cal.commitB p
  | .scrub r => scrubDone r p
  | .transfer i => transferDone i p
  | .image => rebuildDone p
  | .hkCal m => hkCalDone m p

/-- Failure is granted with its cause; a scrub pass has none. -/
def grantFailed (op : OpId) (c : Nat) (p : Part) : Part :=
  match op with
  | .capture v => captureFailed v c p
  | .job v => jobFailed v c p
  | .interval => ivEnd 4 c p
  | .cal u => calEnd u 4 c p
  | .scrub r => scrubAborted r p
  | .transfer i => transferFailed i c p
  | .image => rebuildEnd 4 c p
  | .hkCal m => hkCalEnd m 4 c p

/-- An abort is granted before the commit (R73). -/
def grantAborted (op : OpId) (p : Part) : Part :=
  match op with
  | .capture v => captureAborted v p
  | .job v => jobAborted v p
  | .interval => ivEnd 3 0 p
  | .cal u => calEnd u 3 0 p
  | .scrub r => scrubAborted r p
  | .transfer i => transferEnd i 3 0 p
  | .image => rebuildEnd 3 0 p
  | .hkCal m => hkCalEnd m 3 0 p

/-- The operation's end by the request that wins, and the status code granted. -/
def grantKind (op : OpId) (k : ArbKind) (p : Part) : Part :=
  match k with
  | .completion => grantDone op p
  | .failure c => grantFailed op c p
  | .abort => grantAborted op p

/-- The status code of a grant (1230h.03). -/
def ArbKind.code : ArbKind → Nat
  | .completion => 2
  | .abort => 3
  | .failure _ => 4

/-- The request that wins: the first to arrive, or any one of the `tied` that came within 10 ps of the first (R70). -/
def arbWinner (l : List ArbReq) (tied : Nat) (p : Part) : Option ArbReq × Part :=
  if tied < 2 then (l.head?, p) else let (n, p) := drawFree p; (l[n % min tied l.length]?, p)

/-- An operation whose commit is a flash operation, which none begins in power-fail handling (R507). -/
def flashOp : OpId → Bool
  | .image | .transfer _ => true
  | _ => false

/-- The writers of aborts are answered after the grant (R72); power-fail handling answers no one (R507). -/
def answerAborts (op : OpId) (rqs : List Rq) (p : Part) : Part :=
  if p.pow.phase = .powerFail then p else forEach rqs (fun rq => answerOk rq (controlEntry op).1 (controlEntry op).2 []) p

/-- The arbiter grants one of the requests pending; aborts that lose are counted, a collision of two or more requests is
recorded, and the writers of aborts are answered (R70 to R72). Abort writes that wait together are one request, and
each is counted where it loses (DESIGN CHOICE, log 99). -/
def grant (op : OpId) (tied : Nat) (p : Part) : Part :=
  let l := arbOf p op
  if l.isEmpty ∨ (p.pow.phase = .powerFail ∧ flashOp op = true) then p
  else match arbWinner l tied p with
    | (some w, p) =>
      let aborts := l.filter fun r => r.kind == .abort
      let p := grantKind op w.kind (arbClear op p)
      let p := bumpBy (if w.kind = .abort then 0 else (aborts.map (·.count)).sum) 0x1230 1 p
      let p := onlyIf (decide (2 ≤ l.length)) (fun p => bump 0x1230 2 (wr 0x1230 3 w.kind.code p)) p
      answerAborts op (aborts.flatMap (·.rqs)) p
    | (none, p) => p

/-- COMMIT_ARBITER_GRANT (R70). -/
def execCommitArbiterGrant (op : OpId) (tied : Nat) (s : State) : Outcome := runCtl (grant op tied) s

end Sys2Proof.Machine
end

