-- ==== Sys2Proof/Machine/Dispatch.lean ====
section
/-! DEFINITION. The dispatch: one arm per command, each a direct call of its meaning. -/
namespace Sys2Proof.Machine

/-- A command's effect on everything but the queue. -/
def exec (i : Instr) (s : State) : Host.Outcome State Fault Refusal :=
  match i with
  | .unitTransfer dst reqs => Sys2Proof.Machine.execUnitTransfer dst reqs s
  | .headroomWindowEnd rawH busiest busy => Sys2Proof.Machine.execHeadroomWindowEnd rawH busiest busy s
  | .islandFifoWrite f unit tag unseen stray => Sys2Proof.Machine.execIslandFifoWrite f unit tag unseen stray s
  | .islandFifoRead f unseen => Sys2Proof.Machine.execIslandFifoRead f unseen s
  | .islandClockStop ix => Sys2Proof.Machine.execIslandClockStop ix s
  | .islandClockRestart ix => Sys2Proof.Machine.execIslandClockRestart ix s
  | .commitArbiterGrant op tied => Sys2Proof.Machine.execCommitArbiterGrant op tied s
  | .comparatorEdge dt n t uv p h => Sys2Proof.Machine.execComparatorEdge dt n t uv p h s
  | .mergeWindowEnd n t => Sys2Proof.Machine.execMergeWindowEnd n t s
  | .blankingEnd n t => Sys2Proof.Machine.execBlankingEnd n t s
  | .edgeBufferEntry n t => Sys2Proof.Machine.execEdgeBufferEntry n t s
  | .collectorTake g => Sys2Proof.Machine.execCollectorTake g s
  | .collectorTimeMark g => Sys2Proof.Machine.execCollectorTimeMark g s
  | .shutterStageRelease hop0 hop1 eng => Sys2Proof.Machine.execShutterStageRelease hop0 hop1 eng s
  | .shutterWindowStart g => Sys2Proof.Machine.execShutterWindowStart g s
  | .shutterReopen n t => Sys2Proof.Machine.execShutterReopen n t s
  | .testPulse g => Sys2Proof.Machine.execTestPulse g s
  | .frameBoundary => Sys2Proof.Machine.execFrameBoundary s
  | .fragmentEnd v hops => Sys2Proof.Machine.execFragmentEnd v hops s
  | .calibrationStart rq u oscKHz => Sys2Proof.Machine.execCalibrationStart rq u oscKHz s
  | .calibrationAbort rq u => Sys2Proof.Machine.execCalibrationAbort rq u s
  | .calibrationHit u p h => Sys2Proof.Machine.execCalibrationHit u p h s
  | .calibrationAccept u => Sys2Proof.Machine.execCalibrationAccept u s
  | .calibrationDeferredStart oscKHz => Sys2Proof.Machine.execCalibrationDeferredStart oscKHz s
  | .autoCalibrationTimer oscKHz => Sys2Proof.Machine.execAutoCalibrationTimer oscKHz s
  | .tableStale u => Sys2Proof.Machine.execTableStale u s
  | .refEdge dt rising p h => Sys2Proof.Machine.execRefEdge dt rising p h s
  | .refMissing => Sys2Proof.Machine.execRefMissing s
  | .ringOscLock => Sys2Proof.Machine.execRingOscLock s
  | .ringRefRelock => Sys2Proof.Machine.execRingRefRelock s
  | .intervalStart rq => Sys2Proof.Machine.execIntervalStart rq s
  | .intervalAbort rq => Sys2Proof.Machine.execIntervalAbort rq s
  | .intervalSourceEvent => Sys2Proof.Machine.execIntervalSourceEvent s
  | .repetitionStopAccept => Sys2Proof.Machine.execRepetitionStopAccept s
  | .intervalOverflow => Sys2Proof.Machine.execIntervalOverflow s
  | .timeCompareEvent c => Sys2Proof.Machine.execTimeCompareEvent c s
  | .trigPinEdge dt nb rising p h => Sys2Proof.Machine.execTrigPinEdge dt nb rising p h s
  | .triggerRequestReceived k pois time outNo mask addr => Sys2Proof.Machine.execTriggerRequestReceived k pois time outNo mask addr s
  | .triggerCommandReceived k pois time num mask outNo addr => Sys2Proof.Machine.execTriggerCommandReceived k pois time num mask outNo addr s
  | .captureBusy v => Sys2Proof.Machine.execCaptureBusy v s
  | .captureExpire v => Sys2Proof.Machine.execCaptureExpire v s
  | .captureCommit v hops fin => Sys2Proof.Machine.execCaptureCommit v hops fin s
  | .captureAbort rq v => Sys2Proof.Machine.execCaptureAbort rq v s
  | .bufferRateWindow v => Sys2Proof.Machine.execBufferRateWindow v s
  | .frameFragmentPacket k ws => Sys2Proof.Machine.execFrameFragmentPacket k ws s
  | .endOfFragmentAccept v slot port => Sys2Proof.Machine.execEndOfFragmentAccept v slot port s
  | .abandonPacket k v => Sys2Proof.Machine.execAbandonPacket k v s
  | .slotTimeout v slot => Sys2Proof.Machine.execSlotTimeout v slot s
  | .closeRequest rq v => Sys2Proof.Machine.execCloseRequest rq v s
  | .mergeStart v slot hops => Sys2Proof.Machine.execMergeStart v slot hops s
  | .mergeComplete v slot => Sys2Proof.Machine.execMergeComplete v slot s
  | .outputCreditTimeout v => Sys2Proof.Machine.execOutputCreditTimeout v s
  | .compressionJobStart v hops => Sys2Proof.Machine.execCompressionJobStart v hops s
  | .jobReservationGrant v => Sys2Proof.Machine.execJobReservationGrant v s
  | .jobCommit v => Sys2Proof.Machine.execJobCommit v s
  | .jobAbort rq v => Sys2Proof.Machine.execJobAbort rq v s
  | .packedBodyExceedsReservation v => Sys2Proof.Machine.execPackedBodyExceedsReservation v s
  | .regionTableWrite rq r field value => Sys2Proof.Machine.execRegionTableWrite rq r field value s
  | .regionFillStart rq r => Sys2Proof.Machine.execRegionFillStart rq r s
  | .regionFillDone r => Sys2Proof.Machine.execRegionFillDone r s
  | .memoryRead block addr both upsets => Sys2Proof.Machine.execMemoryRead block addr both upsets s
  | .memoryWrite addr w upsets => Sys2Proof.Machine.execMemoryWrite addr w upsets s
  | .scrubStart rq r => Sys2Proof.Machine.execScrubStart rq r s
  | .scrubAbort rq r byRate => Sys2Proof.Machine.execScrubAbort rq r byRate s
  | .scrubUnit r upsets => Sys2Proof.Machine.execScrubUnit r upsets s
  | .bankWithdraw rq => Sys2Proof.Machine.execBankWithdraw rq s
  | .bankWithdrawDone => Sys2Proof.Machine.execBankWithdrawDone s
  | .bankReturn rq => Sys2Proof.Machine.execBankReturn rq s
  | .bankReturnDone => Sys2Proof.Machine.execBankReturnDone s
  | .useRegionName rq shadows value => Sys2Proof.Machine.execUseRegionName rq shadows value s
  | .useRegionSwitch shadows => Sys2Proof.Machine.execUseRegionSwitch shadows s
  | .laneEnable rq l on => Sys2Proof.Machine.execLaneEnable rq l on s
  | .groupReceived l dt p h lag line => Sys2Proof.Machine.execGroupReceived l dt p h lag line s
  | .huntTimeout l => Sys2Proof.Machine.execHuntTimeout l s
  | .lossOfSignal l => Sys2Proof.Machine.execLossOfSignal l s
  | .signalReturn l => Sys2Proof.Machine.execSignalReturn l s
  | .equaliserScanDone l eyes => Sys2Proof.Machine.execEqualiserScanDone l eyes s
  | .trainingAnnounce l ws => Sys2Proof.Machine.execTrainingAnnounce l ws s
  | .trainingPropose l ws => Sys2Proof.Machine.execTrainingPropose l ws s
  | .trainingSwitch l ws => Sys2Proof.Machine.execTrainingSwitch l ws s
  | .trainingDone l ws => Sys2Proof.Machine.execTrainingDone l ws s
  | .trainingAcknowledge l ws => Sys2Proof.Machine.execTrainingAcknowledge l ws s
  | .climbSwitchTimeout l => Sys2Proof.Machine.execClimbSwitchTimeout l s
  | .mainPathRetry l => Sys2Proof.Machine.execMainPathRetry l s
  | .slewComplete l => Sys2Proof.Machine.execSlewComplete l s
  | .laneSleepRequest rq l v => Sys2Proof.Machine.execLaneSleepRequest rq l v s
  | .sparingMapWrite rq v => Sys2Proof.Machine.execSparingMapWrite rq v s
  | .bypassEngage pin rq => Sys2Proof.Machine.execBypassEngage pin rq s
  | .bypassRelease pin rq => Sys2Proof.Machine.execBypassRelease pin rq s
  | .retimerLock a0ToD0 rate => Sys2Proof.Machine.execRetimerLock a0ToD0 rate s
  | .retimerLockLoss a0ToD0 => Sys2Proof.Machine.execRetimerLockLoss a0ToD0 s
  | .ethernetModeWrite rq x mode => Sys2Proof.Machine.execEthernetModeWrite rq x mode s
  | .ethernetLinkUp x => Sys2Proof.Machine.execEthernetLinkUp x s
  | .ethernetLinkDown x => Sys2Proof.Machine.execEthernetLinkDown x s
  | .groupSetReceived k drift unread => Sys2Proof.Machine.execGroupSetReceived k drift unread s
  | .nakRepeat k => Sys2Proof.Machine.execNakRepeat k s
  | .ackReceived k seq => Sys2Proof.Machine.execAckReceived k seq s
  | .nakReceived k attempt seq => Sys2Proof.Machine.execNakReceived k attempt seq s
  | .replaySend k => Sys2Proof.Machine.execReplaySend k s
  | .replayReceived k attempt seq n => Sys2Proof.Machine.execReplayReceived k attempt seq n s
  | .retrainReceived k => Sys2Proof.Machine.execRetrainReceived k s
  | .retrainRequest rq k => Sys2Proof.Machine.execRetrainRequest rq k s
  | .ackTimeout k => Sys2Proof.Machine.execAckTimeout k s
  | .replayTimeout k => Sys2Proof.Machine.execReplayTimeout k s
  | .laneNotReadyTimeout k => Sys2Proof.Machine.execLaneNotReadyTimeout k s
  | .packetSelect k => Sys2Proof.Machine.execPacketSelect k s
  | .markerGroupSent l dt ctr p h => Sys2Proof.Machine.execMarkerGroupSent l dt ctr p h s
  | .creditReturnReceived k mask grants => Sys2Proof.Machine.execCreditReturnReceived k mask grants s
  | .creditReturnSend k => Sys2Proof.Machine.execCreditReturnSend k s
  | .helloReceived k ws => Sys2Proof.Machine.execHelloReceived k ws s
  | .helloRepeat k => Sys2Proof.Machine.execHelloRepeat k s
  | .assignReceived k port ws => Sys2Proof.Machine.execAssignReceived k port ws s
  | .refuseReceived k => Sys2Proof.Machine.execRefuseReceived k s
  | .serviceReceived k => Sys2Proof.Machine.execServiceReceived k s
  | .isolateReceived k on => Sys2Proof.Machine.execIsolateReceived k on s
  | .handshakeTimeout k => Sys2Proof.Machine.execHandshakeTimeout k s
  | .trainTimeout k => Sys2Proof.Machine.execTrainTimeout k s
  | .holdLooptimedClear rq k => Sys2Proof.Machine.execHoldLooptimedClear rq k s
  | .timeProbeReceived k pois ws => Sys2Proof.Machine.execTimeProbeReceived k pois ws s
  | .servoUpdate => Sys2Proof.Machine.execServoUpdate s
  | .timeSourceWrite rq v => Sys2Proof.Machine.execTimeSourceWrite rq v s
  | .reacquireRequest rq => Sys2Proof.Machine.execReacquireRequest rq s
  | .probeSourceLost => Sys2Proof.Machine.execProbeSourceLost s
  | .ppsEdge dt rising p h => Sys2Proof.Machine.execPpsEdge dt rising p h s
  | .ppsLoss => Sys2Proof.Machine.execPpsLoss s
  | .ptpMessageReceived dt x m p h turn p2 h2 => Sys2Proof.Machine.execPtpMessageReceived dt x m p h turn p2 h2 s
  | .ptpDelayRequestSend dt d p h => Sys2Proof.Machine.execPtpDelayRequestSend dt d p h s
  | .announceTimeout d => Sys2Proof.Machine.execAnnounceTimeout d s
  | .syncTimeout d => Sys2Proof.Machine.execSyncTimeout d s
  | .instanceLeftSlave => Sys2Proof.Machine.execInstanceLeftSlave s
  | .domainSwitchRequest rq v => Sys2Proof.Machine.execDomainSwitchRequest rq v s
  | .arpRequest x arp target asker => Sys2Proof.Machine.execArpRequest x arp target asker s
  | .resultDelivery m mod clip => Sys2Proof.Machine.execResultDelivery m mod clip s
  | .resultRead rq m => Sys2Proof.Machine.execResultRead rq m s
  | .excitationChange rq idx sub value => Sys2Proof.Machine.execExcitationChange rq idx sub value s
  | .chainSettingsWrite rq m sub value => Sys2Proof.Machine.execChainSettingsWrite rq m sub value s
  | .converterSettled m => Sys2Proof.Machine.execConverterSettled m s
  | .openWireTrip dt m high => Sys2Proof.Machine.execOpenWireTrip dt m high s
  | .openWireRelease dt m high => Sys2Proof.Machine.execOpenWireRelease dt m high s
  | .complianceLoss n b => Sys2Proof.Machine.execComplianceLoss n b s
  | .complianceRegained n b => Sys2Proof.Machine.execComplianceRegained n b s
  | .loopCurrentCheck j measured => Sys2Proof.Machine.execLoopCurrentCheck j measured s
  | .loopSourceTimeout j => Sys2Proof.Machine.execLoopSourceTimeout j s
  | .converterStartNow rq => Sys2Proof.Machine.execConverterStartNow rq s
  | .converterStartAtCompare rq => Sys2Proof.Machine.execConverterStartAtCompare rq s
  | .converterStop rq => Sys2Proof.Machine.execConverterStop rq s
  | .converterStartEvent => Sys2Proof.Machine.execConverterStartEvent s
  | .injectedRequest rq m => Sys2Proof.Machine.execInjectedRequest rq m s
  | .hkCalibrationRequest rq m => Sys2Proof.Machine.execHkCalibrationRequest rq m s
  | .hkCalibrationAbort rq m => Sys2Proof.Machine.execHkCalibrationAbort rq m s
  | .hkCalibrationComplete m results => Sys2Proof.Machine.execHkCalibrationComplete m results s
  | .dictionaryRead rq idx sub => Sys2Proof.Machine.execDictionaryRead rq idx sub s
  | .dictionaryWrite rq idx sub v => Sys2Proof.Machine.execDictionaryWrite rq idx sub v s
  | .describe rq idx sub => Sys2Proof.Machine.execDescribe rq idx sub s
  | .domainReadSegment rq idx sub off n => Sys2Proof.Machine.execDomainReadSegment rq idx sub off n s
  | .domainWriteBegin rq idx sub total => Sys2Proof.Machine.execDomainWriteBegin rq idx sub total s
  | .domainWriteSegment rq idx sub off ws => Sys2Proof.Machine.execDomainWriteSegment rq idx sub off ws s
  | .domainTransferCommit ix ok => Sys2Proof.Machine.execDomainTransferCommit ix ok s
  | .domainTransferTimeout ix => Sys2Proof.Machine.execDomainTransferTimeout ix s
  | .domainTransferAbort rq => Sys2Proof.Machine.execDomainTransferAbort rq s
  | .snapshotTimeout ix => Sys2Proof.Machine.execSnapshotTimeout ix s
  | .scheduledWrite rq idx sub time v => Sys2Proof.Machine.execScheduledWrite rq idx sub time v s
  | .scheduledCommit ok retryOk => Sys2Proof.Machine.execScheduledCommit ok retryOk s
  | .closeSession rq => Sys2Proof.Machine.execCloseSession rq s
  | .journalCommit dt ok retryOk => Sys2Proof.Machine.execJournalCommit dt ok retryOk s
  | .compactionStart => Sys2Proof.Machine.execCompactionStart s
  | .compactionDone => Sys2Proof.Machine.execCompactionDone s
  | .broadcast via octets => Sys2Proof.Machine.execBroadcast via octets s
  | .summaryReceived k octets => Sys2Proof.Machine.execSummaryReceived k octets s
  | .summaryTimeout => Sys2Proof.Machine.execSummaryTimeout s
  | .crownReport => Sys2Proof.Machine.execCrownReport s
  | .crownReceived k tier addr time vals => Sys2Proof.Machine.execCrownReceived k tier addr time vals s
  | .crownStale k => Sys2Proof.Machine.execCrownStale k s
  | .healthEvaluation temp => Sys2Proof.Machine.execHealthEvaluation temp s
  | .busFrameReceived via octets => Sys2Proof.Machine.execBusFrameReceived via octets s
  | .upwardFrame via octets => Sys2Proof.Machine.execUpwardFrame via octets s
  | .relayEntryTimeout => Sys2Proof.Machine.execRelayEntryTimeout s
  | .pollSend => Sys2Proof.Machine.execPollSend s
  | .poll o => Sys2Proof.Machine.execPoll o s
  | .pollTimeout => Sys2Proof.Machine.execPollTimeout s
  | .managementPacket k pois ws => Sys2Proof.Machine.execManagementPacket k pois ws s
  | .discover o => Sys2Proof.Machine.execDiscover o s
  | .openSession o slot nonce => Sys2Proof.Machine.execOpen o slot nonce s
  | .prove o slot ix proof => Sys2Proof.Machine.execProve o slot ix proof s
  | .challengeTimeout ix => Sys2Proof.Machine.execChallengeTimeout ix s
  | .lockoutEnd slot => Sys2Proof.Machine.execLockoutEnd slot s
  | .sessionIdleTimeout ix => Sys2Proof.Machine.execSessionIdleTimeout ix s
  | .sessionCloseWrite rq ix => Sys2Proof.Machine.execSessionCloseWrite rq ix s
  | .keyWrite rq slot value => Sys2Proof.Machine.execKeyWrite rq slot value s
  | .rebuildRequest rq => Sys2Proof.Machine.execRebuildRequest rq s
  | .rebuildSector ok => Sys2Proof.Machine.execRebuildSector ok s
  | .rebuildCommit ok => Sys2Proof.Machine.execRebuildCommit ok s
  | .rebuildAbort rq => Sys2Proof.Machine.execRebuildAbort rq s
  | .trialBoot rq bad safe => Sys2Proof.Machine.execTrialBoot rq bad safe s
  | .fallbackRequest rq bad => Sys2Proof.Machine.execFallbackRequest rq bad s
  | .clearTrialStatus rq => Sys2Proof.Machine.execClearTrialStatus rq s
  | .trialConfirm => Sys2Proof.Machine.execTrialConfirm s
  | .healthWindowEnd bad => Sys2Proof.Machine.execHealthWindowEnd bad s
  | .transomInstall ix ok => Sys2Proof.Machine.execTransomInstall ix ok s
  | .transomReadback ok => Sys2Proof.Machine.execTransomReadback ok s
  | .transomWindowEnd ok => Sys2Proof.Machine.execTransomWindowEnd ok s
  | .transomRevert rq => Sys2Proof.Machine.execTransomRevert rq s
  | .supplyRise n => Sys2Proof.Machine.execSupplyRise n s
  | .supplyFail n => Sys2Proof.Machine.execSupplyFail n s
  | .pfailAssert => Sys2Proof.Machine.execPfailAssert s
  | .lrefLoss => Sys2Proof.Machine.execLrefLoss s
  | .powerFailReset => Sys2Proof.Machine.execPowerFailReset s
  | .resetRelease straps safe bad ok => Sys2Proof.Machine.execResetRelease straps safe bad ok s
  | .portIsolate rq port => Sys2Proof.Machine.execPortIsolate rq port s
  | .portRelease rq port => Sys2Proof.Machine.execPortRelease rq port s
  | .laneTestStart rq l => Sys2Proof.Machine.execLaneTestStart rq l s
  | .laneTestStop rq l bs => Sys2Proof.Machine.execLaneTestStop rq l bs s
  | .laneTestDurationEnd l bs => Sys2Proof.Machine.execLaneTestDurationEnd l bs s
  | .memorySelfTestStart rq => Sys2Proof.Machine.execMemorySelfTestStart rq s
  | .memorySelfTestDone fails => Sys2Proof.Machine.execMemorySelfTestDone fails s
  | .jtagInstructionUpdate op scan => Sys2Proof.Machine.execJtagInstructionUpdate op scan s
  | .checkerLock l bs => Sys2Proof.Machine.execCheckerLock l bs s
  | .checkerLockLoss l bs => Sys2Proof.Machine.execCheckerLockLoss l bs s
  | .testLogicReset => Sys2Proof.Machine.execTestLogicReset s

end Sys2Proof.Machine
end

