-- ==== Sys2Proof/Machine/Step.lean ====
section
/-! DEFINITION. The step: the command at the front of the queue has its effect; with no command waiting, time passes. -/
namespace Sys2Proof.Machine

/-- With no command waiting one ring period passes, the smallest time the part counts (R103, R333), unless the part is
held in reset (DESIGN CHOICE, log 3). -/
def idle (s : State) : Host.Outcome State Fault Refusal := runCtl (advance 1) s

/-- One step: the front command runs on the state that keeps the rest of the queue. -/
def step (s : State) : Host.Outcome State Fault Refusal :=
  match s.pending with
  | [] => idle s
  | c :: rest => exec c { s with pending := rest }

/-- The state with the command that a table word spells put at the front of its queue. -/
def State.withFetchWord (s : State) (nbits w : Nat) : State :=
  match decodeTableWord nbits w with
  | none => s
  | some c => { s with pending := c :: s.pending }

end Sys2Proof.Machine
end

