-- ==== Sys2Proof/WellFormed.lean ====
section
/-! DEFINITION. Which commands are well formed: every operand fits the field the manual gives it. The machine has an
answer for every command, well formed or not: it takes an operand modulo its field where it is too large. -/
namespace Sys2Proof

/-- Numbers of so many bits. -/
def u4 (x : Nat) : Bool := decide (x < 2 ^ 4)
@[inherit_doc u4] def u8 (x : Nat) : Bool := decide (x < 2 ^ 8)
@[inherit_doc u4] def u12 (x : Nat) : Bool := decide (x < 2 ^ 12)
@[inherit_doc u4] def u16 (x : Nat) : Bool := decide (x < 2 ^ 16)
@[inherit_doc u4] def u20 (x : Nat) : Bool := decide (x < 2 ^ 20)
@[inherit_doc u4] def u24 (x : Nat) : Bool := decide (x < 2 ^ 24)
@[inherit_doc u4] def u32 (x : Nat) : Bool := decide (x < 2 ^ 32)
@[inherit_doc u4] def u40 (x : Nat) : Bool := decide (x < 2 ^ 40)
@[inherit_doc u4] def u80 (x : Nat) : Bool := decide (x < 2 ^ 80)

/-- A list of octets. -/
def allOctets (l : List Nat) : Bool := l.all u8

/-- A request's class is 1 to 7, its key slot 0 to 7, its session one of eight, its path one of four, and its sequence
number 20 bits (R411, R428, R461). -/
def Rq.wf (rq : Rq) : Bool :=
  decide (1 ≤ rq.cls ∧ rq.cls ≤ 7) && decide (rq.slot < 8) && decide (rq.path < 4) && u20 rq.seq &&
    (match rq.sess with | none => true | some i => decide (i < 8))

/-- Where a frame came from: a link of the part, a host, a session nibble, an address and a tier (R449). -/
def Origin.wf (o : Origin) : Bool :=
  (match o.via with | none => true | some k => decide (k < 18)) && u8 o.host && u4 o.sess && u20 o.addr && u8 o.tier

/-- Upsets name addresses of event memory and bits of the 27 stored at each (R241). -/
def Upsets.wf (l : Upsets) : Bool := l.all fun e => u24 e.1 && decide (e.2 < 2 ^ 27)

/-- A data scan captures one level for each of the 74 covered pins (R527). -/
def DrScan.wf (x : DrScan) : Bool := decide (x.pins.length = 74)

/-- The fields of a PTP message (R351). -/
def PtpMsg.wf (m : PtpMsg) : Bool :=
  decide (m.version < 16) && u8 m.domain && u80 m.src && u16 m.seq && decide (m.sec < 2 ^ 48) && decide (m.ns < 10 ^ 9) &&
    u8 m.prio1 && u8 m.cls && u8 m.acc && u16 m.var && u8 m.prio2 && decide (m.gm < 2 ^ 64) && u16 m.steps && u16 m.utc

/-- Whether a command is well formed. -/
def Instr.wf : Instr → Bool
  | .unitTransfer _ reqs => !reqs.isEmpty
  | .headroomWindowEnd rawH busiest busy => decide (rawH < 2 ^ 28) && u8 busiest && decide (busy ≤ 1000)
  | .islandFifoWrite _ _ _ _ _ => true
  | .islandFifoRead _ _ => true
  | .islandClockStop _ => true
  | .islandClockRestart _ => true
  | .commitArbiterGrant _ _ => true
  | .comparatorEdge _ _ _ _ _ _ => true
  | .mergeWindowEnd _ _ => true
  | .blankingEnd _ _ => true
  | .edgeBufferEntry _ _ => true
  | .collectorTake _ => true
  | .collectorTimeMark _ => true
  | .shutterStageRelease _ _ _ => true
  | .shutterWindowStart _ => true
  | .shutterReopen _ _ => true
  | .testPulse _ => true
  | .frameBoundary => true
  | .fragmentEnd _ _ => true
  | .calibrationStart rq _ oscKHz => rq.wf && decide (0 < oscKHz)
  | .calibrationAbort rq _ => rq.wf
  | .calibrationHit _ _ _ => true
  | .calibrationAccept _ => true
  | .calibrationDeferredStart oscKHz => decide (0 < oscKHz)
  | .autoCalibrationTimer oscKHz => decide (0 < oscKHz)
  | .tableStale _ => true
  | .refEdge _ _ _ _ => true
  | .refMissing => true
  | .ringOscLock => true
  | .ringRefRelock => true
  | .intervalStart rq => rq.wf
  | .intervalAbort rq => rq.wf
  | .intervalSourceEvent => true
  | .repetitionStopAccept => true
  | .intervalOverflow => true
  | .timeCompareEvent _ => true
  | .trigPinEdge _ _ _ _ _ => true
  | .triggerRequestReceived _ _ time outNo mask addr => u80 time && decide (outNo < 8) && u4 mask && u20 addr
  | .triggerCommandReceived _ _ time num mask outNo addr => u80 time && u40 num && u4 mask && u4 outNo && u20 addr
  | .captureBusy _ => true
  | .captureExpire _ => true
  | .captureCommit _ _ _ => true
  | .captureAbort rq _ => rq.wf
  | .bufferRateWindow _ => true
  | .frameFragmentPacket _ _ => true
  | .endOfFragmentAccept _ _ _ => true
  | .abandonPacket _ _ => true
  | .slotTimeout _ _ => true
  | .closeRequest rq _ => rq.wf
  | .mergeStart _ _ _ => true
  | .mergeComplete _ _ => true
  | .outputCreditTimeout _ => true
  | .compressionJobStart _ _ => true
  | .jobReservationGrant _ => true
  | .jobCommit _ => true
  | .jobAbort rq _ => rq.wf
  | .packedBodyExceedsReservation _ => true
  | .regionTableWrite rq _ field value => rq.wf && decide (1 ≤ field ∧ field ≤ 5) && u20 value
  | .regionFillStart rq _ => rq.wf
  | .regionFillDone _ => true
  | .memoryRead _ addr _ upsets => u24 addr && upsets.wf
  | .memoryWrite addr _ upsets => u24 addr && upsets.wf
  | .scrubStart rq _ => rq.wf
  | .scrubAbort rq _ _ => rq.wf
  | .scrubUnit _ upsets => upsets.wf
  | .bankWithdraw rq => rq.wf
  | .bankWithdrawDone => true
  | .bankReturn rq => rq.wf
  | .bankReturnDone => true
  | .useRegionName rq _ value => rq.wf && u8 value
  | .useRegionSwitch _ => true
  | .laneEnable rq _ _ => rq.wf
  | .groupReceived _ _ _ _ _ _ => true
  | .huntTimeout _ => true
  | .lossOfSignal _ => true
  | .signalReturn _ => true
  | .equaliserScanDone _ eyes => eyes.all fun e => u20 e.1 && u20 e.2
  | .trainingAnnounce _ ws => ws.all u20
  | .trainingPropose _ ws => ws.all u20
  | .trainingSwitch _ ws => ws.all u20
  | .trainingDone _ ws => ws.all u20
  | .trainingAcknowledge _ ws => ws.all u20
  | .climbSwitchTimeout _ => true
  | .mainPathRetry _ => true
  | .slewComplete _ => true
  | .laneSleepRequest rq _ v => rq.wf && u8 v
  | .sparingMapWrite rq v => rq.wf && u16 v
  | .bypassEngage _ rq => rq.wf
  | .bypassRelease _ rq => rq.wf
  | .retimerLock _ _ => true
  | .retimerLockLoss _ => true
  | .ethernetModeWrite rq _ mode => rq.wf && u8 mode
  | .ethernetLinkUp _ => true
  | .ethernetLinkDown _ => true
  | .groupSetReceived _ _ unread => unread.all fun n => decide (n ≤ 512)
  | .nakRepeat _ => true
  | .ackReceived _ seq => u12 seq
  | .nakReceived _ _ seq => u12 seq
  | .replaySend _ => true
  | .replayReceived _ attempt seq n => decide (attempt < 7) && u12 seq && decide (n < 2048)
  | .retrainReceived _ => true
  | .retrainRequest rq _ => rq.wf
  | .ackTimeout _ => true
  | .replayTimeout _ => true
  | .laneNotReadyTimeout _ => true
  | .packetSelect _ => true
  | .markerGroupSent _ _ ctr _ _ => decide (ctr < 2 ^ 60)
  | .creditReturnReceived _ mask grants => u4 mask && grants.all u32
  | .creditReturnSend _ => true
  | .helloReceived _ ws => ws.all u20
  | .helloRepeat _ => true
  | .assignReceived _ _ ws => ws.all u20
  | .refuseReceived _ => true
  | .serviceReceived _ => true
  | .isolateReceived _ _ => true
  | .handshakeTimeout _ => true
  | .trainTimeout _ => true
  | .holdLooptimedClear rq _ => rq.wf
  | .timeProbeReceived _ _ ws => ws.all u20
  | .servoUpdate => true
  | .timeSourceWrite rq v => rq.wf && u8 v
  | .reacquireRequest rq => rq.wf
  | .probeSourceLost => true
  | .ppsEdge _ _ _ _ => true
  | .ppsLoss => true
  | .ptpMessageReceived _ _ m _ _ turn _ _ => m.wf && u20 turn
  | .ptpDelayRequestSend _ _ _ _ => true
  | .announceTimeout _ => true
  | .syncTimeout _ => true
  | .instanceLeftSlave => true
  | .domainSwitchRequest rq v => rq.wf && u8 v
  | .arpRequest _ _ target asker => u32 target && u32 asker
  | .resultDelivery _ _ _ => true
  | .resultRead rq _ => rq.wf
  | .excitationChange rq idx sub value => rq.wf && u16 idx && u8 sub && u20 value
  | .chainSettingsWrite rq _ sub value => rq.wf && u8 sub && u20 value
  | .converterSettled _ => true
  | .openWireTrip _ _ _ => true
  | .openWireRelease _ _ _ => true
  | .complianceLoss _ _ => true
  | .complianceRegained _ _ => true
  | .loopCurrentCheck _ measured => u16 measured
  | .loopSourceTimeout _ => true
  | .converterStartNow rq => rq.wf
  | .converterStartAtCompare rq => rq.wf
  | .converterStop rq => rq.wf
  | .converterStartEvent => true
  | .injectedRequest rq _ => rq.wf
  | .hkCalibrationRequest rq _ => rq.wf
  | .hkCalibrationAbort rq _ => rq.wf
  | .hkCalibrationComplete _ results => decide (results.length = 16) && results.all fun l => decide (l.length = 16)
  | .dictionaryRead rq idx sub => rq.wf && u16 idx && u8 sub
  | .dictionaryWrite rq idx sub v => rq.wf && u16 idx && u8 sub && decide (v < 2 ^ 256)
  | .describe rq idx sub => rq.wf && u16 idx && u8 sub
  | .domainReadSegment rq idx sub off n => rq.wf && u16 idx && u8 sub && u20 off && u20 n
  | .domainWriteBegin rq idx sub total => rq.wf && u16 idx && u8 sub && u20 total
  | .domainWriteSegment rq idx sub off ws => rq.wf && u16 idx && u8 sub && u20 off && ws.all u20
  | .domainTransferCommit _ _ => true
  | .domainTransferTimeout _ => true
  | .domainTransferAbort rq => rq.wf
  | .snapshotTimeout _ => true
  | .scheduledWrite rq idx sub time v => rq.wf && u16 idx && u8 sub && u80 time && decide (v < 2 ^ 256)
  | .scheduledCommit _ _ => true
  | .closeSession rq => rq.wf
  | .journalCommit _ _ _ => true
  | .compactionStart => true
  | .compactionDone => true
  | .broadcast _ octets => allOctets octets
  | .summaryReceived _ octets => allOctets octets
  | .summaryTimeout => true
  | .crownReport => true
  | .crownReceived _ tier addr time vals => u8 tier && u20 addr && u80 time && vals.all u20
  | .crownStale _ => true
  | .healthEvaluation temp => u20 temp
  | .busFrameReceived _ octets => allOctets octets
  | .upwardFrame _ octets => allOctets octets
  | .relayEntryTimeout => true
  | .pollSend => true
  | .poll o => o.wf
  | .pollTimeout => true
  | .managementPacket _ _ ws => ws.all u20
  | .discover o => o.wf
  | .openSession o slot nonce => o.wf && u4 slot && (decide (nonce.length = 16) && allOctets nonce)
  | .prove o slot _ proof => o.wf && u4 slot && (decide (proof.length = 32) && allOctets proof)
  | .challengeTimeout _ => true
  | .lockoutEnd _ => true
  | .sessionIdleTimeout _ => true
  | .sessionCloseWrite rq _ => rq.wf
  | .keyWrite rq _ value => rq.wf && decide (value < 2 ^ 256)
  | .rebuildRequest rq => rq.wf
  | .rebuildSector _ => true
  | .rebuildCommit _ => true
  | .rebuildAbort rq => rq.wf
  | .trialBoot rq bad _ => rq.wf && decide (bad < 4)
  | .fallbackRequest rq bad => rq.wf && decide (bad < 4)
  | .clearTrialStatus rq => rq.wf
  | .trialConfirm => true
  | .healthWindowEnd bad => decide (bad < 4)
  | .transomInstall _ _ => true
  | .transomReadback _ => true
  | .transomWindowEnd _ => true
  | .transomRevert rq => rq.wf
  | .supplyRise _ => true
  | .supplyFail _ => true
  | .pfailAssert => true
  | .lrefLoss => true
  | .powerFailReset => true
  | .resetRelease _ _ bad _ => decide (bad < 4)
  | .portIsolate rq _ => rq.wf
  | .portRelease rq _ => rq.wf
  | .laneTestStart rq _ => rq.wf
  | .laneTestStop rq _ _ => rq.wf
  | .laneTestDurationEnd _ _ => true
  | .memorySelfTestStart rq => rq.wf
  | .memorySelfTestDone fails => fails.all fun x => decide (x.1 < 32768) && decide (x.2 < 54)
  | .jtagInstructionUpdate _ scan => match scan with | some x => x.wf | none => true
  | .checkerLock _ _ => true
  | .checkerLockLoss _ _ => true
  | .testLogicReset => true

end Sys2Proof
end

