-- ==== Sys2Proof/Safety.lean ====
section
/-! DEFINITION. The terms in which claims speak of runs: a part that is up, what a command may change, and the order that
every table keeps. -/
namespace Sys2Proof.Machine

/-- The part is out of reset and runs a firmware (R486, R499): its data plane takes commands. -/
abbrev live (p : Part) : Prop := alive p = true ∧ recovery p = false

/-- The part is up and not in power-fail handling: it takes requests (R507). -/
abbrev serving (p : Part) : Prop := live p ∧ p.pow.phase = .running

/-- No write is staged and no request waits: the management controller takes the next request at once (R415). -/
abbrev quiet (p : Part) : Prop := p.svc.staged = none ∧ p.svc.waiting = []

/-- Every dictionary entry but those listed reads as before. -/
def otherEntries (l : List (Nat × Nat)) (p q : Part) : Prop :=
  ∀ i a, a < 256 → (i, a) ∉ l → rd q i a = rd p i a

/-- The entries that report uses, capacities and credits of regions (R184, R215, R246, R259). -/
def reportsRegion (i a : Nat) : Prop :=
  (0x7000 ≤ i ∧ i ≤ 0x700F ∧ (a = 7 ∨ a = 8)) ∨ (i = 0x4020 ∧ (a = 2 ∨ a = 3)) ∨ (0x3010 ≤ i ∧ i ≤ 0x3013 ∧ a = 6)

/-- Every dictionary entry but those listed reads as before; while a bank is being withdrawn cells leave service as they are freed,
and the entries that report capacities may change with them (R259). -/
def otherThanCells (l : List (Nat × Nat)) (p q : Part) : Prop :=
  ∀ i a, a < 256 → (i, a) ∉ l → (withdrawing p = true → ¬ reportsRegion i a) → rd q i a = rd p i a

/-- Nothing but the dictionary has changed, and in it nothing but the entries listed. -/
def onlyEntries (l : List (Nat × Nat)) (p q : Part) : Prop :=
  q = { p with dict := q.dict } ∧ otherEntries l p q

/-- A write of `v` to a Persistent or WL entry has been committed: the entry holds the value, the journal's commits have counted it,
and the newest record of the audit ring is its own (R418, R427, R428). -/
def journalled1 (rq : Rq) (idx sub v : Nat) (p q : Part) : Prop :=
  rd q idx sub = v ∧ rd q 0x1400 4 = satInc (rd p 0x1400 4) ∧
    ∃ r, q.svc.audit.head? = some r ∧ r.num = p.svc.nextRec ∧ r.idx = idx ∧ r.sub = sub ∧ r.cls = rq.cls ∧ r.slot = rq.slot ∧ r.seq = rq.seq

/-- A write of an entry passes every check of R415, and the journal takes it at once (R415, R422, R423). -/
abbrev accepted (p : Part) (rq : Rq) (idx sub v : Nat) : Prop :=
  serving p ∧ quiet p ∧ checkWrite p rq idx sub v = .ok ∧ journalState p = 0

/-- Nothing but one island FIFO and the entries listed has changed. -/
def onlyFifo (f : FifoId) (l : List (Nat × Nat)) (p q : Part) : Prop :=
  q = { p with dict := q.dict, fab := { p.fab with fifos := q.fab.fifos } } ∧ (∀ g, g ≠ f → fifo q g = fifo p g) ∧
    otherEntries l p q

/-- Nothing but one comparator has changed, and it is `x`. -/
def onlyComp (n t : Nat) (x : Comp) (p q : Part) : Prop :=
  q = { p with front := { p.front with comps := q.front.comps } } ∧ comp q n t = x ∧
    ∀ m u, u < 4 → (m ≠ n ∨ u ≠ t) → comp q m u = comp p m u

/-- The link that a lane belongs to lists lanes of the part, each of them once. -/
def lanesListed (p : Part) (l : Nat) : Prop := ∀ k, linkOf p l = some k → (link p k).lanes.Nodup ∧ ∀ m ∈ (link p k).lanes, m < 28

/-- The pointers of a FIFO tell how many entries it holds, at most its depth, and each side's copy of the other's pointer
is that pointer or an earlier one (R62, R63). -/
def fifoSound (f : FifoId) (x : Fifo) : Prop :=
  x.wr < 2 * fifoDepth f ∧ x.rd < 2 * fifoDepth f ∧ ptrOf f x.rdSeen < 2 * fifoDepth f ∧ ptrOf f x.wrSeen < 2 * fifoDepth f ∧
    x.q.length = ptrGap f x.wr x.rd ∧ x.q.length ≤ writerHeld f x ∧ writerHeld f x ≤ fifoDepth f ∧
    ptrGap f (ptrOf f x.wrSeen) x.rd ≤ x.q.length

/-- `t` is reached from `s` by a run of steps. -/
inductive Reaches : State → State → Prop where
  | start (s : State) : Reaches s s
  | more {s t u : State} : Reaches s t → step t = .next u → Reaches s u

/-- What the journal holds, and a write staged for it, are values of entries that hosts write (R418, R489). -/
def journalOfHosts (p : Part) : Prop :=
  (∀ x ∈ p.svc.journal, ∃ r, lookup (x.1 / 256) (x.1 % 256) = some r ∧ r.pers = 2 ∧ r.acc ≠ .ro) ∧
    ∀ w r, p.svc.staged = some w → lookup w.idx w.sub = some r → r.acc ≠ .ro

/-- The dictionary and the values still in effect keep their keys in strictly rising order, so that equal dictionaries
are equal data. -/
def ordered (p : Part) : Prop := tasc none p.dict = true ∧ tasc none p.effOld = true

end Sys2Proof.Machine
end

