-- ==== Sys2Proof/Certificates/Slice0/Obligations.lean ====
section
/-! DEFINITION. The statements for the provers. -/
open Sys2Proof Sys2Proof.Machine
set_option linter.unusedVariables false


/-! ### The handshake core (R43 to R73) -/

/-- R47 and R48: a unit with an even number of ones, tagged NORMAL or REPLAYED, is acknowledged and held by the receiver;
a refusal takes nothing and is counted in 1220h.01, and the repeat that then passes is held as REPLAYED and counted in 1220h.02. Nothing else changes. R48 and R49: a unit refused twice becomes 1FFFFFh tagged POISONED, with two refusals, one poisoned unit, its source and
the time recorded; a POISONED unit is acknowledged without a check and counted nowhere. R45: of the paths that converge on a receiver each is granted once, one at a time, in the rotating order after the path
granted last: each grant is of the path that stands first behind the one before it among those still waiting. -/
def Obligations.TransfersAreCheckedTwice : Prop :=
  (∀ (s : State) (dst src : Block) (unit seen seenAgain : Unit21), live s.part →
    (evenParity seen = true →
      ∃ q, exec (.unitTransfer dst [⟨src, unit, .normal, seen, seenAgain⟩]) s = .next { s with part := q } ∧
        q = { s.part with fab := { s.part.fab with xfers := [⟨src, seen, .normal, [true]⟩], turns := q.fab.turns } }) ∧
    (evenParity seen = false → evenParity seenAgain = true →
      ∃ q, exec (.unitTransfer dst [⟨src, unit, .normal, seen, seenAgain⟩]) s = .next { s with part := q } ∧
        q = { s.part with dict := q.dict, fab := { s.part.fab with xfers := [⟨src, seenAgain, .replayed, [false, true]⟩], turns := q.fab.turns } } ∧
        rd q 0x1220 1 = satInc (rd s.part 0x1220 1) ∧ rd q 0x1220 2 = satInc (rd s.part 0x1220 2) ∧
        otherEntries [(0x1220, 1), (0x1220, 2)] s.part q) ∧
    (evenParity seen = true →
      ∃ q, exec (.unitTransfer dst [⟨src, unit, .replayed, seen, seenAgain⟩]) s = .next { s with part := q } ∧
        q = { s.part with dict := q.dict, fab := { s.part.fab with xfers := [⟨src, seen, .replayed, [true]⟩], turns := q.fab.turns } } ∧
        rd q 0x1220 2 = satInc (rd s.part 0x1220 2) ∧ otherEntries [(0x1220, 2)] s.part q)) ∧
  (∀ (s : State) (dst src : Block) (unit seen seenAgain : Unit21), live s.part →
    (evenParity seen = false → evenParity seenAgain = false →
      ∃ q, exec (.unitTransfer dst [⟨src, unit, .normal, seen, seenAgain⟩]) s = .next { s with part := q } ∧
        q = { s.part with dict := q.dict, fab := { s.part.fab with xfers := [⟨src, BitVec.allOnes 21, .poisoned, [false, false, true]⟩], turns := q.fab.turns } } ∧
        rd q 0x1220 1 = satInc (satInc (rd s.part 0x1220 1)) ∧ rd q 0x1220 3 = satInc (rd s.part 0x1220 3) ∧
        rd q 0x1220 4 = blockCode src ∧ rd q 0x1220 5 = now s.part ∧
        otherEntries [(0x1220, 1), (0x1220, 3), (0x1220, 4), (0x1220, 5)] s.part q) ∧
    (evenParity seen = false →
      ∃ q, exec (.unitTransfer dst [⟨src, unit, .replayed, seen, seenAgain⟩]) s = .next { s with part := q } ∧
        q = { s.part with dict := q.dict, fab := { s.part.fab with xfers := [⟨src, BitVec.allOnes 21, .poisoned, [false, true]⟩], turns := q.fab.turns } } ∧
        rd q 0x1220 1 = satInc (rd s.part 0x1220 1) ∧ rd q 0x1220 3 = satInc (rd s.part 0x1220 3) ∧
        rd q 0x1220 4 = blockCode src ∧ rd q 0x1220 5 = now s.part ∧
        otherEntries [(0x1220, 1), (0x1220, 3), (0x1220, 4), (0x1220, 5)] s.part q) ∧
    ∃ q, exec (.unitTransfer dst [⟨src, unit, .poisoned, seen, seenAgain⟩]) s = .next { s with part := q } ∧
      q = { s.part with fab := { s.part.fab with xfers := [⟨src, unit, .poisoned, [true]⟩], turns := q.fab.turns } }) ∧
  (∀ (s : State) (dst : Block) (reqs : List Present), live s.part →
    ∃ q, exec (.unitTransfer dst reqs) s = .next { s with part := q } ∧
      q = { s.part with dict := q.dict, fab := { s.part.fab with xfers := q.fab.xfers, turns := q.fab.turns } } ∧
      List.Perm (q.fab.xfers.map (·.src)) (reqs.map (·.src)) ∧
      (∀ x l, reqs = x :: l → ∃ y, q.fab.xfers.head? = some y ∧
        ∀ z ∈ reqs, turnOf (tget 0 s.part.fab.turns (blockCode dst)) ⟨y.src, 0, .normal, 0, 0⟩ ≤ turnOf (tget 0 s.part.fab.turns (blockCode dst)) z) ∧
      (∀ y, q.fab.xfers.getLast? = some y → tget 0 q.fab.turns (blockCode dst) = blockCode y.src))

/-- R55 to R57: the end of a 1 ms window reports the headroom H, H_eff = floor(raw(H) × 14,336 / L), the largest Q20.8 value with L = 0, and the
lowest H_eff, and counts one warning where H_eff is below the threshold; the busiest bank and its share are held, and a saturated window is counted (R261).
Nothing else changes but the clock. -/
def Obligations.HeadroomWindowReports : Prop :=
  ∀ (s : State) (h b o e : Nat), live s.part → h < 2 ^ 28 →
    e = (if rd s.part 0x1200 6 = 0 then 2 ^ 28 - 1 else min (h * 14336 / rd s.part 0x1200 6) (2 ^ 28 - 1)) →
    ∃ q, exec (.headroomWindowEnd h b o) s = .next { s with part := q } ∧
      q = { s.part with dict := q.dict, clk := q.clk } ∧
      rd q 0x1200 1 = h ∧ rd q 0x1200 2 = e ∧ rd q 0x1200 3 = min e (rd s.part 0x1200 3) ∧
      rd q 0x1200 5 = (if e < rd s.part 0x1200 4 then satInc (rd s.part 0x1200 5) else rd s.part 0x1200 5) ∧
      rd q 0x7060 1 = (if 950 ≤ o then satInc (rd s.part 0x7060 1) else rd s.part 0x7060 1) ∧
      rd q 0x7060 2 = b % 256 ∧ rd q 0x7060 3 = min o 1000 ∧
      otherEntries [(0x1200, 1), (0x1200, 2), (0x1200, 3), (0x1200, 5), (0x7060, 1), (0x7060, 2), (0x7060, 3)] s.part q

/-- R61 to R66: a write to an island FIFO that its side sees with room appends the unit and its tag and moves the write
pointer on; one whose producer keeps to no credit and sees it full is ignored and counted in 1211h with the overrun bit, and a
producer that keeps to its credits presents nothing then; a
read takes the oldest unit and moves the read pointer on; one from a FIFO that its side sees empty leaves the unit last read
and is counted in 1212h with the underrun bit. R62 and R63: the pointers of an island FIFO stay sound over writes and reads, and a write side of a sound FIFO sees it full
whenever it is, a read side sees it empty whenever it is. R60: a stopped island keeps its FIFOs' contents; before its clock restarts every FIFO of the island is emptied and its
pointers are reset, the unit last read stays, and no other FIFO changes. -/
def Obligations.IslandFifosKeepOrderAndStop : Prop :=
  (∀ (s : State) (f : FifoId) (u : Unit21) (g : Tag) (n : Nat) (stray : Bool), live s.part →
    (sideStopped s.part f true = false → seesFull (seeReads f n s.part) f = false →
      ∃ q, exec (.islandFifoWrite f u g n stray) s = .next { s with part := q } ∧
        onlyFifo f [(0x1200, 7), (0x1210, fifoIsland f + 1)] s.part q ∧
        (fifo q f).q = (fifo s.part f).q ++ [(u, g)] ∧ (fifo q f).wr = ptrUp f (fifo s.part f).wr ∧
        (fifo q f).last = (fifo s.part f).last) ∧
    (sideStopped s.part f true = false → seesFull (seeReads f n s.part) f = true →
      ∃ q, exec (.islandFifoWrite f u g n true) s = .next { s with part := q } ∧
        onlyFifo f [(0x1210, fifoIsland f + 1), (0x1211, fifoIsland f + 1)] s.part q ∧
        (fifo q f).q = (fifo s.part f).q ∧
        rd q 0x1211 (fifoIsland f + 1) = satInc (rd s.part 0x1211 (fifoIsland f + 1)) ∧
        bit (rd q 0x1210 (fifoIsland f + 1)) 1 = true) ∧
    (sideStopped s.part f true = false → seesFull (seeReads f n s.part) f = true → credited f = true →
      ∃ q, exec (.islandFifoWrite f u g n false) s = .next { s with part := q } ∧ onlyFifo f [] s.part q ∧ (fifo q f).q = (fifo s.part f).q) ∧
    (∀ r, sideStopped s.part f false = false → seesEmpty (seeWrites f n s.part) f = false → (fifo s.part f).q = (u, g) :: r →
      ∃ q, exec (.islandFifoRead f n) s = .next { s with part := q } ∧ onlyFifo f [] s.part q ∧
        (fifo q f).q = r ∧ (fifo q f).last = (u, g) ∧ (fifo q f).rd = ptrUp f (fifo s.part f).rd) ∧
    (sideStopped s.part f false = false → seesEmpty (seeWrites f n s.part) f = true →
      ∃ q, exec (.islandFifoRead f n) s = .next { s with part := q } ∧
        onlyFifo f [(0x1210, fifoIsland f + 1), (0x1212, fifoIsland f + 1)] s.part q ∧
        (fifo q f).q = (fifo s.part f).q ∧ (fifo q f).last = (fifo s.part f).last ∧
        rd q 0x1212 (fifoIsland f + 1) = satInc (rd s.part 0x1212 (fifoIsland f + 1)) ∧
        bit (rd q 0x1210 (fifoIsland f + 1)) 0 = true) ∧
    (fifo State.reset.part f).last = (0, .normal)) ∧
  (∀ (s : State) (f : FifoId) (u : Unit21) (g : Tag) (n : Nat) (stray : Bool), live s.part → fifoSound f (fifo s.part f) →
    ((fifo s.part f).q.length = fifoDepth f → seesFull s.part f = true) ∧
    ((fifo s.part f).q = [] → seesEmpty s.part f = true) ∧
    (∃ q, exec (.islandFifoWrite f u g n stray) s = .next { s with part := q } ∧ fifoSound f (fifo q f)) ∧
    (∃ q, exec (.islandFifoRead f n) s = .next { s with part := q } ∧ fifoSound f (fifo q f)) ∧
    fifoSound f (fifo State.reset.part f)) ∧
  (∀ (s : State) (i : Fin 18), live s.part →
    (∃ q, exec (.islandClockStop i) s = .next { s with part := q } ∧
      q = { s.part with fab := { s.part.fab with stopped := q.fab.stopped } } ∧ islandStopped q i = true) ∧
    (islandStopped s.part i = true →
      ∃ q, exec (.islandClockRestart i) s = .next { s with part := q } ∧
        q = { s.part with dict := q.dict, links := q.links, fab := { s.part.fab with stopped := q.fab.stopped, fifos := q.fab.fifos } } ∧
        otherEntries [(0x3050, 9), (0x3050, 10)] s.part q ∧
        islandStopped q i = false ∧
        (∀ f, fifoIsland f = i → fifo q f = { last := (fifo s.part f).last }) ∧
        (∀ f, fifoIsland f ≠ i → fifo q f = fifo s.part f)))

/-! ### Hit inputs (R77 to R101) -/

/-- R79, R80 and R98: with no test pulse and no isolation a comparator sees the voltage at its pins, inverted where its polarity bit
is set; with its output low it makes a leading edge above its threshold, (c - 512) × 1.955 mV, and with it high a trailing edge below the threshold minus its
hysteresis. A voltage that makes no edge changes nothing but the clock. R85, R106, R107 and R109: a comparator that records keeps its edges. An edge stamped ahead of the clock waits to be judged. A leading
edge outside a merge window opens one at its stamp; a leading edge in an open window is absorbed; a trailing edge in an open window is kept as the last, and as the first
if it is one. The group's dither register steps once, and nothing else but the clock changes. R83 and R109: an edge that a comparator captures while it records and whose stamp lies in its blanking is discarded and counted in
2053h for its group; only its output, the dither register and the log of blanked edges follow it. -/
def Obligations.EdgesAreRecordedOrBlanked : Prop :=
  (∀ (s : State) (dt : Nat) (n : Fin 256) (t : Fin 4) (uv v : Int) (k : Fin 64) (h : Bool) (p : Part), live s.part → p = advance dt s.part →
    (cutOff p n = false → pulseUV p n = 0 → (comp p n t).raw = [] → v = (if bit (eff p 0x2001 (n / 16 + 1)) (n % 16) then -uv else uv) →
      ((comp p n t).out = false →
        (crossing p n t uv = some true ↔ ((bits (eff p (0x2010 + n / 16) (4 * (n % 16) + t + 1)) 9 0 : Int) - 512) * 1955 < v)) ∧
      ((comp p n t).out = true →
        (crossing p n t uv = some false ↔ v < thresholdUV p n t - 1000 * bits (eff p (0x2020 + n / 16) (4 * (n % 16) + t + 1)) 3 0))) ∧
    (crossing p n t uv = none → exec (.comparatorEdge dt n t uv k h) s = .next { s with part := p })) ∧
  (∀ (s : State) (dt : Nat) (n : Fin 256) (t : Fin 4) (uv : Int) (k : Fin 64) (h lead : Bool) (p : Part) (x : Nat), live s.part →
    p = advance dt s.part → x = hitStamp p n k h → compOn p n t = true → (comp p n t).raw = [] → crossing p n t uv = some lead →
    (now p < x →
      ∃ q, exec (.comparatorEdge dt n t uv k h) s = .next { s with part := q } ∧
        onlyComp n t { comp p n t with raw := [{ stamp := x, lead := lead }] } (ditherNext n p) q) ∧
    (x ≤ now p → compOnAt p n t x = true → (comp p n t).stopAt = none → (comp p n t).blank = none → afterBackStep p x = false →
      (lead = true → (comp p n t).win = none → (comp p n t).mute ≤ x →
        ∃ q, exec (.comparatorEdge dt n t uv k h) s = .next { s with part := q } ∧
          onlyComp n t { comp p n t with out := true, skip := false, await := none, win := some { lead := x } } (ditherNext n p) q) ∧
      (∀ w, (comp p n t).win = some w → x < w.lead + 256 →
        (lead = true →
          ∃ q, exec (.comparatorEdge dt n t uv k h) s = .next { s with part := q } ∧
            onlyComp n t { comp p n t with out := true, win := some { w with absorbed := w.absorbed + 1 } } (ditherNext n p) q) ∧
        (lead = false → (comp p n t).skip = false →
          ∃ q, exec (.comparatorEdge dt n t uv k h) s = .next { s with part := q } ∧
            onlyComp n t { comp p n t with out := false, win := some { w with firstTrail := some (w.firstTrail.getD x), lastTrail := some x } } (ditherNext n p) q)))) ∧
  (∀ (s : State) (dt : Nat) (n : Fin 256) (t : Fin 4) (uv : Int) (k : Fin 64) (h lead : Bool) (p : Part) (x a b : Nat), live s.part →
    p = advance dt s.part → x = hitStamp p n k h → compOn p n t = true → compOnAt p n t x = true → (comp p n t).raw = [] → (comp p n t).stopAt = none →
    crossing p n t uv = some lead → (comp p n t).blank = some (a, b) → a ≤ x → x < b → x ≤ now p →
    ∃ q, exec (.comparatorEdge dt n t uv k h) s = .next { s with part := q } ∧
      q = { p with dict := q.dict, front := q.front } ∧
      comp q n t = { comp p n t with out := lead } ∧ q.front.blankLog = p.front.blankLog ++ [(x, 4 * n.val + t.val)] ∧
      rd q 0x2053 (n / 16 + 1) = satInc (rd p 0x2053 (n / 16 + 1)) ∧
      otherEntries [(0x2053, n / 16 + 1)] p q)

/-- R85 to R87 and R109: once every edge that can be stamped in it is known, 256 + 512 tk after its leading edge, a merge window is closed. With the
output low the leading record and the last trailing edge are recorded; with it high the leading record, and the trailing record is awaited. Both carry
MRG where the window absorbed an edge and NEAR where the first trailing edge came less than 64 tk after the leading one. R83 and R84: when blanking ends, and every edge stamped in it is known, the comparator resumes, and if its output is high it will discard the trailing edge of the
pulse in progress; when the hold time of an automatic closure expires, its shutter reopens with a reopen marker at that time
(R94). -/
def Obligations.WindowsAndBlankingEnd : Prop :=
  (∀ (s : State) (n : Fin 256) (t : Fin 4) (w0 w : Win) (p : Part), live s.part → (comp s.part n t).win = some w0 →
    p = judgeNow n t (advanceTo (w0.lead + 768) s.part) → (comp p n t).win = some w → w.lead = w0.lead → (comp p n t).stopAt = none →
    ((comp p n t).out = false → ∀ y, w.lastTrail = some y →
      exec (.mergeWindowEnd n t) s = .next { s with part := setComp n t { comp p n t with win := none, pend := (comp p n t).pend ++ [{ n := n, t := t, lead := true, stamp := w.lead, mrg := decide (0 < w.absorbed), near := isNear w.lead w.firstTrail }, { n := n, t := t, lead := false, stamp := y, mrg := decide (0 < w.absorbed), near := isNear w.lead w.firstTrail }] } p }) ∧
    ((comp p n t).out = true →
      exec (.mergeWindowEnd n t) s = .next { s with part := setComp n t { comp p n t with win := none, pend := (comp p n t).pend ++ [{ n := n, t := t, lead := true, stamp := w.lead, mrg := decide (0 < w.absorbed), near := isNear w.lead w.firstTrail }], await := some (decide (0 < w.absorbed), isNear w.lead w.firstTrail) } p })) ∧
  (∀ (s : State) (n : Fin 256) (t : Fin 4), live s.part →
    (∀ a b p, (comp s.part n t).blank = some (a, b) → p = judgeNow n t (advanceTo (b + 512) s.part) → (comp p n t).blank = some (a, b) → (comp p n t).stopAt = none →
      exec (.blankingEnd n t) s = .next { s with part := setComp n t { comp p n t with blank := none, skip := (comp p n t).out } p }) ∧
    (∀ a x r, (comp s.part n t).spans = { start := a, stop := some x } :: r → (comp s.part n t).closed = true →
      ∃ q, exec (.shutterReopen n t) s = .next { s with part := q } ∧
        q = { s.part with clk := q.clk, front := q.front } ∧
        comp q n t = { comp s.part n t with closed := false, spans := { start := a, stop := some x } :: r } ∧
        ({ n := n, t := t, close := false, stamp := x } : Marker) ∈ q.front.markers))

/-- R86 to R88: a recorded leading edge enters its edge buffer 1,024 tk after it occurs if two entries are free, with MRG also where a pulse was lost just before it, and its MRG and
NEAR are counted then; otherwise its pulse is dropped and adds 2 to 2050h for its group. A trailing edge enters it with the MRG of its pulse, unless its leading edge was dropped. The interval
unit takes the edge where it is a source of the measurement in progress (R131), and nothing else changes. R89: a group's collector takes an edge whose stamp none of the edges at the heads of its buffers is below, if its FIFO and derandomiser have room; with no edge held
it sends a time mark that states a time below which none is to come. R51, R91 and R119: once every enabled group has passed it, the record or marker that waits with the earliest stamp is released: it
leaves its stream and is the last one released, 98,304 tk or more after its stamp. A marker is counted in 20D0h.06 where it carries REFL. -/
def Obligations.RecordsReachTheEngine : Prop :=
  (∀ (s : State) (n : Fin 256) (t : Fin 4) (e : Edge) (r : List Edge) (c : Comp), live s.part → comp s.part n t = c → c.pend = e :: r →
    (e.lead = true → c.buf.length ≤ 6 →
      ∃ q, exec (.edgeBufferEntry n t) s = .next { s with part := q } ∧
        q = { s.part with clk := (advanceTo (e.stamp + 1024) s.part).clk, dict := q.dict, front := q.front, iv := q.iv } ∧
        (∃ tp, comp q n t = { c with pend := r, pulseMrg := e.mrg || c.lost, dropping := false, lost := false, buf := c.buf ++ [{ e with tp := tp, mrg := e.mrg || c.lost }] }) ∧
        rd q 0x2051 (n / 16 + 1) = (if e.mrg || c.lost then satInc (rd s.part 0x2051 (n / 16 + 1)) else rd s.part 0x2051 (n / 16 + 1)) ∧
        rd q 0x2052 (n / 16 + 1) = (if e.near then satInc (rd s.part 0x2052 (n / 16 + 1)) else rd s.part 0x2052 (n / 16 + 1)) ∧
        otherEntries [(0x2051, n / 16 + 1), (0x2052, n / 16 + 1)] s.part q ∧ (rd s.part 0x2102 1 ≠ 1 → q.iv = s.part.iv)) ∧
    (e.lead = true → 6 < c.buf.length →
      ∃ q, exec (.edgeBufferEntry n t) s = .next { s with part := q } ∧
        q = { s.part with clk := (advanceTo (e.stamp + 1024) s.part).clk, dict := q.dict, front := q.front, iv := q.iv } ∧
        comp q n t = { c with pend := r, pulseMrg := e.mrg || c.lost, dropping := true, lost := true } ∧
        rd q 0x2050 (n / 16 + 1) = satAdd (rd s.part 0x2050 (n / 16 + 1)) 2 ∧
        otherEntries [(0x2050, n / 16 + 1)] s.part q) ∧
    (e.lead = false →
      ∃ q, exec (.edgeBufferEntry n t) s = .next { s with part := q } ∧
        q = { s.part with clk := (advanceTo (e.stamp + 1024) s.part).clk, front := q.front, iv := q.iv } ∧
        (c.dropping = true → comp q n t = { c with pend := r, dropping := false }) ∧
        (c.dropping = false → ∃ tp, comp q n t = { c with pend := r, buf := c.buf ++ [{ e with tp := tp, mrg := c.pulseMrg }] }))) ∧
  (∀ (s : State) (g : Fin 16), live s.part → (grp s.part g).stream.length < streamDepth → islandStopped s.part 1 = false →
    (∀ e, oldestBuffered s.part g = some e →
      (∀ x ∈ groupComps g, ∀ f, (comp s.part x.1 x.2).buf.head? = some f → e.stamp ≤ f.stamp) ∧
      exec (.collectorTake g) s = .next { s with part := setGrp g { grp s.part g with stream := (grp s.part g).stream ++ [.edge e] } (setComp e.n e.t { comp s.part e.n e.t with buf := (comp s.part e.n e.t).buf.tail } s.part) }) ∧
    (oldestBuffered s.part g = none → groupOn s.part g = true →
      exec (.collectorTimeMark g) s = .next { s with part := setGrp g { grp s.part g with stream := (grp s.part g).stream ++ [.mark (markTime s.part g)] } s.part } ∧
      markTime s.part g ≤ now s.part - 1024 ∧
      ∀ x ∈ groupComps g, ∀ f, (comp s.part x.1 x.2).pend.head? = some f → markTime s.part g ≤ f.stamp)) ∧
  (∀ (s : State) (hop0 hop1 : Tag) (eng : List (Tag × Tag)) (p : Part) (x : Next), live s.part → p = stageReady s.part → nextOf p = some x →
    (∀ g, g < 16 → groupPassed p g x.stamp = true) →
    ∃ q, exec (.shutterStageRelease hop0 hop1 eng) s = .next { s with part := q } ∧
      q.hk = s.part.hk ∧ q.tim = s.part.tim ∧ q.upd = s.part.upd ∧ q.lanes = s.part.lanes ∧ q.cal = s.part.cal ∧ q.iv = s.part.iv ∧
      q.clk = (advanceTo (x.stamp + 98304) p).clk ∧ q.front.released = x.stamp ∧
      (∀ m, p.front.markers.head? = some m → x.stamp ≤ m.stamp) ∧ (∀ g, g < 16 → ∀ e, headEdge p g = some e → x.stamp ≤ e.stamp) ∧
      (∀ m, x = .marker m → q.front.markers = p.front.markers.tail ∧
        rd q 0x20D0 6 = (if spansHold p.front.refl m.stamp then satInc (rd s.part 0x20D0 6) else rd s.part 0x20D0 6)) ∧
      (∀ e, x = .edge e → (grp q (e.n / 16)).stream = (grp p (e.n / 16)).stream.tail))

/-- R92: at the start of a shutter window the counts of every comparator of the group that lie before the window in which the stage
stands, and before its last reopening or enabling, are gone; nothing else of it changes, and no dictionary entry. R98 and R99: a group's generator makes its next pulse at its time; it is counted, and its records are marked TP for w × 128 + 1,024 tk. In mode 1
that time is the first-pulse time, if it is not before the boundary of the settings, no forward step has skipped it and no pulse has been made. R82 and R563: a frame boundary comes 2^23 tk after the last one, and every committed value is in effect after it. -/
def Obligations.WindowsPulsesAndBoundaries : Prop :=
  (∀ (s : State) (g : Fin 16), live s.part → groupOn s.part g = true → eff s.part (0x2040 + g) 1 = 1 →
    0 < shutterWindowTk s.part g → (grp s.part g).window = now s.part / shutterWindowTk s.part g * shutterWindowTk s.part g →
    ∃ q, exec (.shutterWindowStart g) s = .next { s with part := q } ∧
      q = { s.part with clk := q.clk, front := q.front } ∧
      (grp q g).window = now s.part / shutterWindowTk s.part g * shutterWindowTk s.part g + shutterWindowTk s.part g ∧
      ∀ n t, n / 16 = g.val → t < 4 →
        comp q n t = { comp s.part n t with counts := (comp s.part n t).counts.filter fun kv => decide (countFrom s.part g s.part.front.released (comp s.part n t) ≤ kv.1) }) ∧
  (∀ (s : State) (g : Fin 16), live s.part →
    (eff s.part (0x2030 + g) 1 = 1 → (grp s.part g).genFrom ≤ eff s.part (0x2030 + g) 6 → (grp s.part g).genLast = none → skipEnd s.part (eff s.part (0x2030 + g) 6) = none →
      nextPulse s.part g = some (eff s.part (0x2030 + g) 6)) ∧
    (eff s.part (0x2030 + g) 1 = 1 → (grp s.part g).genLast.isSome = true → exec (.testPulse g) s = .next s) ∧
    ∀ x, nextPulse s.part g = some x →
      ∃ q, exec (.testPulse g) s = .next { s with part := q } ∧
        q = { s.part with clk := q.clk, dict := q.dict, front := q.front } ∧
        rd q (0x2030 + g) 8 = satInc (rd s.part (0x2030 + g) 8) ∧ otherEntries [(0x2030 + g.val, 8)] s.part q ∧
        (grp q g).genLast = some x ∧ (x, x + eff s.part (0x2030 + g) 4 * 128 + 1024, eff s.part (0x2030 + g) 2) ∈ (grp q g).tpSpans) ∧
  (∀ (s : State), live s.part →
    ∃ q, exec .frameBoundary s = .next { s with part := q } ∧ q.clk.lastB = (s.part.clk.lastB + 2 ^ 23) % 2 ^ 80 ∧ q.clk.anyB = true ∧
      q.effOld = [] ∧ (∀ i a, eff q i a = rd q i a))

/-! ### Calibration and REF (R110 to R121, R142 to R144) -/

/-- R114: a calibration request that passes its checks, with no calibration before it, the ring locked to REF and the oscillator in
range, makes the unit BUSY at once with an empty histogram, and FAILED with cause 3 with the oscillator out of range (R115); behind another calibration, or with the ring not locked, it is DEFERRED at the end of the queue; a
disabled group's is REJECTED with cause 4. The write is answered, and no other entry changes. R72 and R114: an abort written to a calibration that is BUSY waits at its commit arbiter; one that is DEFERRED is ABORTED and
leaves the queue; in any other status it changes nothing, is counted in 1230h.01, and is answered. R110 to R112 and R114: while a unit is calibrating, a hit of its register counts once under its raw code; once N = 2^n hits are in,
a histogram whose widths all lie between 64 and 448 is accepted, and one that does not raises a failure with cause 2, whose grant leaves the table as it is with the status
FAILED (R73); and the first deferred calibration becomes BUSY when none runs and the ring is locked. R114 and R116: when the automatic interval runs out with REF present, every enabled unit that is neither BUSY nor
DEFERRED joins the queue, in the order G0 to G15, GA, GQ0 to GQ6, the first of them BUSY at once where no calibration is before it and the ring is locked, and all DEFERRED behind one that runs; with REF missing no request is made. A calibrated table older
than the stale limit reads 2. -/
def Obligations.CalibrationRunsItsCourse : Prop :=
  (∀ (s : State) (rq : Rq) (u : CalUnit) (kHz : Nat), serving s.part → quiet s.part →
    checkWrite s.part rq (calRequestKey u).1 (calRequestKey u).2 1 = .ok →
    ∃ q, exec (.calibrationStart rq u kHz) s = .next { s with part := answerOk rq (calRequestKey u).1 (calRequestKey u).2 [] q } ∧
      q = { renew rq s.part with dict := q.dict, cal := q.cal } ∧
      otherEntries [calStatusKey u, calKey u 0x2082 3] s.part q ∧
      (calEnabled s.part u = true → s.part.cal.queue = [] → s.part.cal.busy = false → ringLocked s.part = true → oscOk kHz = true →
        calStatus q u = 1 ∧ calRunning q = some u ∧ q.cal.hits = 0 ∧ q.cal.hist = [] ∧ q.cal.expo = eff s.part 0x2083 1) ∧
      (calEnabled s.part u = true → s.part.cal.queue = [] → s.part.cal.busy = false → ringLocked s.part = true → oscOk kHz = false →
        calStatus q u = 4 ∧ rd q (calKey u 0x2082 3).1 (calKey u 0x2082 3).2 = 3 ∧ calRunning q = none ∧ q.cal.queue = []) ∧
      (calEnabled s.part u = true → s.part.cal.queue ≠ [] ∨ s.part.cal.busy = true ∨ ringLocked s.part = false → calStatus q u = 6 ∧ q.cal = { s.part.cal with queue := s.part.cal.queue ++ [u] }) ∧
      (calEnabled s.part u = false → calStatus q u = 5 ∧ rd q (calKey u 0x2082 3).1 (calKey u 0x2082 3).2 = 4 ∧ q.cal = s.part.cal)) ∧
  (∀ (s : State) (rq : Rq) (u : CalUnit), serving s.part → quiet s.part →
    checkWrite s.part rq (calRequestKey u).1 (calRequestKey u).2 2 = .ok →
    (calStatus s.part u = 1 →
      ∃ q, exec (.calibrationAbort rq u) s = .next { s with part := q } ∧ q = { renew rq s.part with fab := { s.part.fab with arb := q.fab.arb } } ∧
        (∃ r ∈ arbOf q (.cal u), r.kind = .abort ∧ rq ∈ r.rqs) ∧ (arbOf s.part (.cal u) = [] → arbOf q (.cal u) = [{ kind := .abort, rqs := [rq] }])) ∧
    (calStatus s.part u = 6 →
      ∃ q, exec (.calibrationAbort rq u) s = .next { s with part := answerOk rq (calRequestKey u).1 (calRequestKey u).2 [] q } ∧
        calStatus q u = 3 ∧ q = { renew rq s.part with dict := q.dict, cal := { s.part.cal with queue := s.part.cal.queue.filter (· != u) } } ∧
        otherEntries [calStatusKey u] s.part q) ∧
    (calStatus s.part u ≠ 1 → calStatus s.part u ≠ 6 →
      exec (.calibrationAbort rq u) s = .next { s with part := answerOk rq (calRequestKey u).1 (calRequestKey u).2 [] (bump 0x1230 1 (renew rq s.part)) })) ∧
  (∀ (s : State) (u : CalUnit), live s.part →
    (∀ (k : Fin 64) (h : Bool), calRunning s.part = some u → s.part.cal.hits < 2 ^ s.part.cal.expo →
      exec (.calibrationHit u k h) s = .next { s with part := { s.part with cal := { s.part.cal with hist := tput 0 s.part.cal.hist (rawCode k h) (tget 0 s.part.cal.hist (rawCode k h) + 1), hits := s.part.cal.hits + 1 } } }) ∧
    (calRunning s.part = some u → s.part.cal.hits = 2 ^ s.part.cal.expo → s.part.cal.accepted = none → unsettled s.part (.cal u) = true →
      (widthsOk (newTable s.part.cal.hist (2 ^ s.part.cal.expo)) = true →
        exec (.calibrationAccept u) s = .next { s with part := { s.part with cal := { s.part.cal with accepted := some (newTable s.part.cal.hist (2 ^ s.part.cal.expo)) } } }) ∧
      (widthsOk (newTable s.part.cal.hist (2 ^ s.part.cal.expo)) = false →
        exec (.calibrationAccept u) s = .next { s with part := { s.part with fab := { s.part.fab with arb := s.part.fab.arb ++ [(.cal u, { kind := .failure 2 })] } } })) ∧
    (arbOf s.part (.cal u) = [{ kind := .failure 2 }] →
      ∃ q, exec (.commitArbiterGrant (.cal u) 0) s = .next { s with part := q } ∧ q = { s.part with dict := q.dict, cal := q.cal, fab := q.fab } ∧
        calStatus q u = 4 ∧ rd q (calKey u 0x2082 3).1 (calKey u 0x2082 3).2 = 2 ∧ q.cal.busy = false ∧ u ∉ q.cal.queue ∧ arbOf q (.cal u) = [] ∧
        otherEntries [calStatusKey u, calKey u 0x2082 3] s.part q) ∧
    (∀ (kHz : Nat) (r : List CalUnit), s.part.cal.queue = u :: r → s.part.cal.busy = false → ringLocked s.part = true → oscOk kHz = true →
      ∃ q, exec (.calibrationDeferredStart kHz) s = .next { s with part := q } ∧ q = { s.part with dict := q.dict, cal := q.cal } ∧
        calStatus q u = 1 ∧ calRunning q = some u ∧ q.cal.hits = 0 ∧ otherEntries [calStatusKey u, calKey u 0x2082 3] s.part q)) ∧
  (∀ (s : State), live s.part →
    (∀ kHz, eff s.part 0x2083 2 ≠ 0 → rd s.part 0x20D0 1 = 1 → s.part.cal.busy = true → s.part.cal.queue ≠ [] →
      ∃ q, exec (.autoCalibrationTimer kHz) s = .next { s with part := q } ∧ q = { s.part with clk := q.clk, dict := q.dict, cal := q.cal } ∧
        q.cal.queue = s.part.cal.queue ++ calOrder.filter (fun u => calEnabled s.part u && calStatus s.part u != 1 && calStatus s.part u != 6) ∧
        ∀ u, calEnabled s.part u = true → calStatus s.part u ≠ 1 → calStatus s.part u ≠ 6 → calStatus q u = 6) ∧
    (∀ kHz, eff s.part 0x2083 2 ≠ 0 → rd s.part 0x20D0 1 = 1 → s.part.cal.busy = false → s.part.cal.queue = [] → ringLocked s.part = true → oscOk kHz = true →
      ∃ q, exec (.autoCalibrationTimer kHz) s = .next { s with part := q } ∧ q = { s.part with clk := q.clk, dict := q.dict, cal := q.cal } ∧
        q.cal.queue = calOrder.filter (fun u => calEnabled s.part u && calStatus s.part u != 1 && calStatus s.part u != 6) ∧ calRunning q = q.cal.queue.head?) ∧
    (∀ kHz, eff s.part 0x2083 2 ≠ 0 → rd s.part 0x20D0 1 ≠ 1 →
      ∃ q, exec (.autoCalibrationTimer kHz) s = .next { s with part := q } ∧ q = { s.part with clk := q.clk, cal := { s.part.cal with autoDue := q.cal.autoDue } }) ∧
    (∀ u, tableState s.part u = 1 →
      ∃ q, exec (.tableStale u) s = .next { s with part := q } ∧ q = { s.part with clk := q.clk, dict := q.dict, front := q.front } ∧
        tableState q u = 2 ∧ otherEntries [calKey u 0x2086 4] s.part q))

/-- R118, R119 and R143: when the REF edge due after the last good one does not come, REF reads missing, its loss is counted, T_miss is the
due time and REFL begins there, a calibration that is BUSY is to fail with cause 1 (R121), and a measurement that has used stamps from then on carries it too (R138). In LOCKED the servo goes to HOLDOVER, and its rate word becomes the frequency estimate (R336). R118, R120, R131, R142 and R144: a REF edge is on its way to the interval unit where that uses it; a rising one in step with the one before it is good and taken, one out of step is counted in 2104h.03; with REF
missing the 256th edge in step declares it present and the relock begins; the ring locks to the oscillator, and back to REF,
when REFL is to end at the next boundary and the latches have been requested once. -/
def Obligations.RefIsWatched : Prop :=
  (∀ (s : State) (y x : Nat), live s.part → s.part.ref.last = some y → rd s.part 0x20D0 1 = 1 → x = (y + 32768) % 2 ^ 80 →
    ∃ q, exec .refMissing s = .next { s with part := q } ∧
      q = { s.part with clk := q.clk, dict := q.dict, ref := q.ref, front := q.front, tim := q.tim, iv := q.iv, fab := q.fab } ∧
      q.iv = (if rd s.part 0x2102 1 = 1 ∧ 0 < s.part.iv.n ∧ before s.part.iv.top x = false then { s.part.iv with flags := s.part.iv.flags ||| 8 } else s.part.iv) ∧
      rd q 0x20D0 1 = 0 ∧ rd q 0x20D0 2 = 1 ∧ rd q 0x20D0 3 = satInc (rd s.part 0x20D0 3) ∧ rd q 0x20D0 4 = x ∧
      q.front.refl = openSpan x s.part.front.refl ∧
      (calRunning s.part = none → q.fab = s.part.fab) ∧
      (∀ u, calRunning s.part = some u → arbOf s.part (.cal u) = [] → arbOf q (.cal u) = [{ kind := .failure 1 }]) ∧
      (rd s.part 0x6000 3 = 2 → rd q 0x6000 3 = 3 ∧ q.clk.rate = s32 (rd s.part 0x6000 0xB) ∧ rd q 0x6001 5 = satInc (rd s.part 0x6001 5)) ∧
      (rd s.part 0x6000 3 = 0 → otherEntries [(0x20D0, 1), (0x20D0, 2), (0x20D0, 3), (0x20D0, 4)] s.part q)) ∧
  (∀ (s : State), live s.part →
    (∀ (dt : Nat) (rising : Bool) (k : Fin 64) (h : Bool) (x : Nat) (p : Part), x = auxStamp (advance dt s.part) .ref k h → p = pinArrive .ref rising x (advance dt s.part) →
      (rising = false → exec (.refEdge dt rising k h) s = .next { s with part := p }) ∧
      (rising = true → rd s.part 0x20D0 1 = 1 → inStep s.part.ref.last x = true →
        exec (.refEdge dt rising k h) s = .next { s with part := { p with ref := { p.ref with last := some x } } }) ∧
      (rising = true → rd s.part 0x20D0 1 = 1 → inStep s.part.ref.last x = false → exec (.refEdge dt rising k h) s = .next { s with part := bump 0x2104 3 p }) ∧
      (rising = true → rd s.part 0x20D0 1 ≠ 1 → s.part.ref.run < 255 → inStep s.part.ref.last x = true →
        exec (.refEdge dt rising k h) s = .next { s with part := { p with ref := { p.ref with last := some x, run := s.part.ref.run + 1 } } }) ∧
      (rising = true → rd s.part 0x20D0 1 ≠ 1 → s.part.ref.run = 255 → inStep s.part.ref.last x = true →
        exec (.refEdge dt rising k h) s = .next { s with part := wr 0x20D0 1 1 (wr 0x20D0 2 3 { p with ref := { p.ref with last := some x, run := 0 } }) }) ∧
      p = { advance dt s.part with iv := p.iv } ∧ (rd s.part 0x2102 1 ≠ 1 → p.iv = s.part.iv) ∧
      (rd s.part 0x2102 1 = 1 → s.part.iv.src = pinCode .ref rising → ∃ e, e.stamp = x ∧ p.iv.inbox = s.part.iv.inbox ++ [(pinCode .ref rising, e)])) ∧
    (rd s.part 0x20D0 2 = 1 → exec .ringOscLock s = .next { s with part := wr 0x20D0 2 2 s.part }) ∧
    (rd s.part 0x20D0 2 = 3 → rd s.part 0x20D0 1 = 1 → s.part.cal.auxDone = true → rd s.part 0x6000 3 ≠ 3 →
      exec .ringRefRelock s = .next { s with part := wr 0x20D0 2 0 { s.part with ref := { s.part.ref with ending := true, osc := endSpan s.part.clk.rp s.part.ref.osc } } }) ∧
    (rd s.part 0x20D0 2 = 3 → rd s.part 0x20D0 1 = 1 →
      ∃ q, exec .ringRefRelock s = .next { s with part := q } ∧ rd q 0x20D0 2 = 0 ∧ q.ref.ending = true ∧ q.cal.auxDone = true))

/-! ### The interval unit (R130 to R141) -/

/-- R133 and R141: a start request that passes its checks, with both sources available, makes the measurement BUSY, armed at the present
time with no repetition accepted; with a source that cannot deliver it is REJECTED with cause 3. The write is answered. R72 and R73: an abort of a BUSY measurement waits at its commit arbiter; in any other status it is counted in 1230h.01, changes
nothing else, and is answered. What has reached the unit by then is settled first (R134). An abort granted before the commit leaves the result entries as they were. R70 and R71: a measurement's completion that reaches the arbiter before an abort is granted: the status becomes DONE with the results of
all N repetitions, the abort is counted in 1230h.01 and the collision in 1230h.02 and .03, both requests are gone, and the
abort's writer is answered. -/
def Obligations.IntervalStartsAndEnds : Prop :=
  (∀ (s : State) (rq : Rq), serving s.part → quiet s.part → checkWrite s.part rq 0x2100 1 1 = .ok →
    (ivRejects s.part = false →
      ∃ q, exec (.intervalStart rq) s = .next { s with part := answerOk rq 0x2100 1 [] q } ∧ q = { renew rq s.part with dict := q.dict, iv := q.iv } ∧
        rd q 0x2102 1 = 1 ∧ rd q 0x2102 2 = 0 ∧ rd q 0x2102 3 = 0 ∧ rd q 0x2102 4 = now s.part ∧
        q.iv.rearm = now s.part ∧ q.iv.first = true ∧ q.iv.n = 0 ∧ q.iv.reps = rd s.part 0x2101 3 ∧ q.iv.adv = rd s.part 0x2101 4 ∧
        q.iv.src = rd s.part 0x2101 1 ∧ q.iv.dst = rd s.part 0x2101 2 ∧ q.iv.start = none ∧ q.iv.stop = none ∧
        otherEntries [(0x2102, 1), (0x2102, 2), (0x2102, 3), (0x2102, 4)] s.part q) ∧
    (ivRejects s.part = true →
      ∃ q, exec (.intervalStart rq) s = .next { s with part := answerOk rq 0x2100 1 [] q } ∧ onlyEntries [(0x2102, 1), (0x2102, 2)] (renew rq s.part) q ∧
        rd q 0x2102 1 = 5 ∧ rd q 0x2102 2 = 3)) ∧
  (∀ (s : State) (rq : Rq),
    (serving s.part → quiet s.part → checkWrite (ivNow s.part) rq 0x2100 1 2 = .ok → rd s.part 0x2102 1 = 1 → arbOf s.part .interval = [] →
      ∃ q, exec (.intervalAbort rq) s = .next { s with part := q } ∧ q = { renew rq (ivNow s.part) with fab := q.fab } ∧
        arbOf q .interval = [{ kind := .abort, rqs := [rq] }]) ∧
    (serving s.part → quiet s.part → checkWrite (ivNow s.part) rq 0x2100 1 2 = .ok → rd s.part 0x2102 1 ≠ 1 → rd s.part 0x2102 1 ≠ 6 →
      exec (.intervalAbort rq) s = .next { s with part := answerOk rq 0x2100 1 [] (bump 0x1230 1 (renew rq (ivNow s.part))) }) ∧
    (serving s.part → arbOf s.part .interval = [{ kind := .abort, rqs := [rq] }] →
      ∃ q, exec (.commitArbiterGrant .interval 0) s = .next { s with part := answerOk rq 0x2100 1 [] q } ∧
        q = { s.part with dict := q.dict, iv := q.iv, fab := { s.part.fab with arb := q.fab.arb } } ∧ arbOf q .interval = [] ∧
        rd q 0x2102 1 = 3 ∧ otherEntries [(0x2102, 1), (0x2102, 2), (0x2104, 1)] s.part q)) ∧
  (∀ (s : State) (rq : Rq), serving s.part → arbOf s.part .interval = [{ kind := .completion }, { kind := .abort, rqs := [rq] }] →
    ∃ q, exec (.commitArbiterGrant .interval 0) s = .next { s with part := answerOk rq 0x2100 1 [] q } ∧
      q = { s.part with dict := q.dict, fab := { s.part.fab with arb := q.fab.arb } } ∧ arbOf q .interval = [] ∧
      rd q 0x2102 1 = 2 ∧ rd q 0x2103 1 = s.part.iv.n ∧ rd q 0x2103 4 = s.part.iv.mn ∧ rd q 0x2103 5 = s.part.iv.mx ∧
      rd q 0x2103 2 = (256 * s.part.iv.s1 + s.part.iv.n / 2) / s.part.iv.n ∧
      rd q 0x1230 1 = satInc (rd s.part 0x1230 1) ∧ rd q 0x1230 2 = satInc (rd s.part 0x1230 2) ∧ rd q 0x1230 3 = 2 ∧
      otherEntries [(0x2102, 1), (0x2103, 1), (0x2103, 2), (0x2103, 3), (0x2103, 4), (0x2103, 5), (0x2103, 6), (0x2103, 7), (0x2103, 8), (0x1230, 1), (0x1230, 2), (0x1230, 3)] s.part q)

/-- R134 and R136: an event on its way reaches the unit. While a measurement is BUSY, the first eligible start event begins the repetition, and the first stop event not before s − D − 2
is its stop, each once everything stamped before it has reached the unit; a stop event before that is EARLY and counted in 2104h.01. R133, R135, R136 and R139: an accepted stop adds x = stop − s + D to the sums, counts the repetition and rearms at the stop; the last
one raises the completion. R131 and R137: a compare whose time has come fires, stamped with the compare time itself, and is on its way to the unit where that uses it; its next time is a period later, and there is none for a period of 0. A start with no stop
accepted by s − D + 2^39 tk raises a failure with cause 1 and is counted in 2104h.02. -/
def Obligations.RepetitionsAndCompares : Prop :=
  (∀ (s : State) (c : Nat) (e : IvEvent) (l : List (Nat × IvEvent)) (v : Interval) (p : Part), live s.part → s.part.iv = v → v.inbox = (c, e) :: l →
    p = { s.part with iv := { v with inbox := l } } →
    (ivOpen s.part = false → exec .intervalSourceEvent s = .next { s with part := p }) ∧
    (ivOpen s.part = true → v.starts = [] → v.stops = [] → v.stop = none → v.src ≠ v.dst →
      (v.start = none → c = v.src → ivAfter v e.stamp = true →
        exec .intervalSourceEvent s = .next { s with part := { s.part with iv := if ivRipe p e.stamp then { v with inbox := l, start := some e } else { v with inbox := l, starts := [e] } } }) ∧
      (∀ b, v.start = some b → c = v.dst → before v.rearm e.stamp = true →
        (before e.stamp (ivFloor v b.stamp) = true →
          ∃ q, exec .intervalSourceEvent s = .next { s with part := q } ∧ onlyEntries [(0x2104, 1)] p q ∧ rd q 0x2104 1 = satInc (rd s.part 0x2104 1)) ∧
        (before e.stamp (ivFloor v b.stamp) = false →
          exec .intervalSourceEvent s = .next { s with part := { s.part with iv := if ivRipe p e.stamp then { v with inbox := l, stop := some e } else { v with inbox := l, stops := [e] } } })))) ∧
  (∀ (s : State) (v : Interval) (b e : IvEvent) (x : Nat), live s.part → ivOpen s.part = true → s.part.iv = v → v.inbox = [] → v.start = some b → v.stop = some e →
    v.starts = [] → v.stops = [] → before (now s.part) (ivDue v b.stamp) = true → before e.stamp (ivDue v b.stamp) = true → (x : Int) = max 0 (diffMod 80 e.stamp b.stamp + v.adv) →
    ∃ q, exec .repetitionStopAccept s = .next { s with part := q } ∧
      q = { s.part with clk := q.clk, dict := q.dict, iv := q.iv, fab := q.fab } ∧ otherEntries [(0x2102, 3)] s.part q ∧ rd q 0x2102 3 = v.n + 1 ∧
      q.iv.n = v.n + 1 ∧ q.iv.s1 = v.s1 + x ∧ q.iv.s2 = v.s2 + x * x ∧ q.iv.mn = (if v.n = 0 then x else min v.mn x) ∧ q.iv.mx = max v.mx x ∧
      q.iv.rearm = e.stamp ∧ q.iv.first = false ∧ q.iv.start = none ∧ q.iv.stop = none ∧
      q.fab.arb = s.part.fab.arb ++ (if v.reps ≤ v.n + 1 then [(.interval, { kind := .completion })] else [])) ∧
  (∀ (s : State) (v : Interval), live s.part → rd s.part 0x2102 1 = 1 → s.part.iv = v →
    (∀ (c : Fin 2) (t : Nat), (if c.val = 0 then v.cmp0 else v.cmp1) = some t →
      ∃ q, exec (.timeCompareEvent c) s = .next { s with part := q } ∧ q = { advanceTo t s.part with iv := q.iv } ∧
        (if c.val = 0 then q.iv.cmp0 else q.iv.cmp1) = (if rd s.part 0x2101 (6 + 2 * c) = 0 then none else some ((t + rd s.part 0x2101 (6 + 2 * c)) % 2 ^ 80)) ∧
        (v.src = 0x70000 + c → ∃ e, e.stamp = t ∧ e.flags = 0 ∧ q.iv.inbox = v.inbox ++ [(0x70000 + c.val, e)])) ∧
    (∀ b, ivOpen s.part = true → v.inbox = [] → v.start = some b → v.stop = none → v.starts = [] → v.stops = [] →
      exec .intervalOverflow s = .next { s with part := raise .interval { kind := .failure 1 } (bump 0x2104 2 (advanceTo (ivDue v b.stamp) s.part)) }))

/-! ### Triggering and acquisition (R146 to R178) -/

/-- R131, R159, R161 and R178: an edge on a trigger pin that is not of the selected direction reaches the interval unit and nothing else. With the ROM default table, a rising edge on TRIG_IN fires output 0, which counts in 3031h.01 and 3032h.01, and the part, no
trigger master, queues a request with view mask Fh and the pin's stamp on its uplink A in SERVICE. R161, R165, R300 and R304: a part that is no trigger master passes a request from below up uplink A, or loses and counts it in 3050h.09 where neither uplink is in SERVICE; one on an uplink, or on a link
that is not in SERVICE, is discarded and counted in the link's 5120h + k.09, and one with a poisoned word in .06. -/
def Obligations.TriggerPinsAndRequests : Prop :=
  (∀ (s : State) (dt : Nat) (nb rising : Bool) (k : Fin 64) (h : Bool) (x : Nat), live s.part →
    ((eff s.part 0x3020 (if nb then 2 else 1) == 0) ≠ rising → x = auxStamp (advance dt s.part) (if nb then .trigNb else .trigIn) k h →
      exec (.trigPinEdge dt nb rising k h) s = .next { s with part := pinArrive (if nb then .trigNb else .trigIn) rising x (advance dt s.part) }) ∧
    (eff s.part 0x3020 1 = 0 → s.part.acq.tab = {} → s.part.acq.oldTab = none → isMaster s.part = false → inService s.part 16 = true → (link s.part 16).reqs.length < 16 →
      linkStopped s.part 16 = false → x = auxStamp (advance dt s.part) .trigIn k h →
      ∃ q, exec (.trigPinEdge dt false true k h) s = .next { s with part := q } ∧
        q = { pinArrive .trigIn true x (advance dt s.part) with dict := q.dict, acq := { s.part.acq with tab := q.acq.tab }, links := q.links } ∧
        rd q 0x3031 1 = satInc (rd s.part 0x3031 1) ∧ rd q 0x3032 1 = satInc (rd s.part 0x3032 1) ∧
        otherEntries [(0x3031, 1), (0x3032, 1)] s.part q ∧
        link q 16 = { link s.part 16 with reqs := (link s.part 16).reqs ++ [{ time := x, outNo := 0, mask := 15, addr := rd s.part 0x1100 1 }] } ∧
        tget none q.acq.tab.lastFire 0 = some x)) ∧
  (∀ (s : State) (k : Fin 18) (t o m a : Nat), live s.part →
    (16 ≤ k.val ∨ inService s.part k = false → ∀ b, exec (.triggerRequestReceived k b t o m a) s = .next { s with part := bump (0x5120 + k) 9 s.part }) ∧
    (k.val < 16 → inService s.part k = true →
      exec (.triggerRequestReceived k true t o m a) s = .next { s with part := bump (0x5120 + k) 6 s.part } ∧
      (isMaster s.part = false → inService s.part 16 = false → inService s.part 17 = false →
        exec (.triggerRequestReceived k false t o m a) s = .next { s with part := bump 0x3050 9 s.part }) ∧
      (isMaster s.part = false → inService s.part 16 = true → (link s.part 16).reqs.length < 16 → linkStopped s.part 16 = false → t < 2 ^ 80 → o < 8 → m < 16 → a < 2 ^ 20 →
        exec (.triggerRequestReceived k false t o m a) s =
          .next { s with part := setLink 16 { link s.part 16 with reqs := (link s.part 16).reqs ++ [⟨t, o, m, a⟩] } s.part })))

/-- R162: a trigger master that finds a view for a request issues an accept under the next trigger number, counts the request and the accept, and
keeps the request's time for each view accepted; a request no view takes is discarded and counted. R163, R167, R300 and R304: a trigger command from above schedules one capture in each triggered view it names, after those scheduled before, where a front end takes data, its number is above the last one and fewer than 64
are pending; it is counted in 3050h.08, and no other view changes. One from below goes up. One on a link that is not in SERVICE is counted in 5120h + k.09, and one with a poisoned word in .06. -/
def Obligations.TriggersAreAcceptedAndScheduled : Prop :=
  (∀ (s : State) (k : Fin 18) (t o m a w : Nat), live s.part → k.val < 16 → inService s.part k = true → isMaster s.part = true →
    t < 2 ^ 80 → o < 8 → m < 16 → a < 2 ^ 20 → w = effectiveMask ⟨t, o, m, a⟩ (bump 0x3050 5 s.part) →
    (w ≠ 0 → eff s.part 0x3050 4 ≠ 0xFFFFFFFFFF →
      ∃ q, exec (.triggerRequestReceived k false t o m a) s = .next { s with part := q } ∧
        q.clk = s.part.clk ∧ q.front = s.part.front ∧ q.iv = s.part.iv ∧ q.lanes = s.part.lanes ∧ q.hk = s.part.hk ∧ q.svc = s.part.svc ∧ q.upd = s.part.upd ∧
        eff q 0x3050 4 = eff s.part 0x3050 4 + 1 ∧ rd q 0x3050 5 = satInc (rd s.part 0x3050 5) ∧ rd q 0x3050 7 = satInc (rd s.part 0x3050 7) ∧
        rd q 0x3050 6 = rd s.part 0x3050 6 ∧ ∀ v, v < 4 → bit w v = true → (view q v).lastAccept = some t) ∧
    (w = 0 → exec (.triggerRequestReceived k false t o m a) s = .next { s with part := bump 0x3050 6 (bump 0x3050 5 s.part) })) ∧
  (∀ (s : State) (k : Fin 18) (t num m o a : Nat), live s.part → t < 2 ^ 80 → num < 2 ^ 40 → m < 16 → o < 16 → a < 2 ^ 20 →
    (inService s.part k = false → ∀ b, exec (.triggerCommandReceived k b t num m o a) s = .next { s with part := bump (0x5120 + k) 9 s.part }) ∧
    (inService s.part k = true →
      exec (.triggerCommandReceived k true t num m o a) s = .next { s with part := bump (0x5120 + k) 6 s.part } ∧
      (16 ≤ k.val →
        ∃ q, exec (.triggerCommandReceived k false t num m o a) s = .next { s with part := q } ∧
          q.clk = s.part.clk ∧ q.front = s.part.front ∧ q.iv = s.part.iv ∧ q.lanes = s.part.lanes ∧ q.hk = s.part.hk ∧ q.svc = s.part.svc ∧ q.upd = s.part.upd ∧
          rd q 0x3050 8 = satInc (rd s.part 0x3050 8) ∧
          (∀ v, v < 4 → bit m v = true → viewMode s.part v = 2 → frontOn s.part = true → (view s.part v).caps.length < 64 → (∀ n, (view s.part v).lastNum = some n → n < num) →
            view q v = { view s.part v with caps := (view s.part v).caps ++ [{ num := num, trig := t }], lastNum := some num } ∧ rd q (0x3060 + v) 7 = (view s.part v).caps.length + 1) ∧
          (∀ v, v < 4 → bit m v = false ∨ viewMode s.part v ≠ 2 ∨ frontOn s.part = false → view q v = view s.part v)) ∧
      (k.val < 16 → tierZero s.part = false → inService s.part 16 = true → (link s.part 16).cmds.length < 16 → linkStopped s.part 16 = false →
        exec (.triggerCommandReceived k false t num m o a) s =
          .next { s with part := setLink 16 { link s.part 16 with cmds := (link s.part 16).cmds ++ [⟨t, num, m, o, a⟩] } s.part })))

/-- R167 to R169: the oldest capture becomes BUSY once the stage has passed its window, with the window of the settings in effect, and it is to fail with cause 1 if the buffer no longer
holds all of it; when a record of it is gone a failure is raised; while every record of it is held its cut completes, and a completion is raised for a fragment its queue takes whole, a failure with cause 2
for one it does not. R168 and R169: the grant of a capture's completion counts it in 3060h.02 and gives its fragment to the output queue; that of a failure counts it in 3060h.03, or for one discarded by its queue in .06. The capture leaves and the next one is DEFERRED. R72 and R173: an abort of the BUSY capture waits at its arbiter; with none BUSY the oldest DEFERRED one is aborted, counted in 3060h.05, and its
write answered; in any other status it is counted in 1230h.01. R127, R149, R150 and R152: when the stage has passed the end of the oldest frame of a streaming or summary view of a Leaf, its fragment is complete, five header words, the
records, at the end of a summary interval a summary of each selected input, and three end words, and it enters the Leaf's output queue whole if the queue takes it, or is discarded whole and
counted in 3060h.06; one that lost a word to a full queue before leaves without a fragment. R157: each millisecond a view's write rate is reported, two words for each record that reached it in the window that has ended, and the latency that its buffer lasts at that rate. -/
def Obligations.CapturesAndFragmentsEnd : Prop :=
  (∀ (s : State) (v : Fin 4) (c : Cap) (r : List Cap) (e : ViewEng), live s.part → view s.part v = e → e.caps = c :: r →
    (∀ w0 stop, e.capBusy = false → w0 = subMod 80 c.trig (effAt s.part (0x3000 + v) 2 (frameStart c.trig)) → stop = (c.trig + effAt s.part (0x3000 + v) 3 (frameStart c.trig)) % 2 ^ 80 →
      stagePassed s.part stop = true →
      ∃ q, exec (.captureBusy v) s = .next { s with part := q } ∧ q = { s.part with clk := q.clk, dict := q.dict, fab := q.fab, acq := { s.part.acq with views := q.acq.views } } ∧
        view q v = { e with capBusy := true, cut := none, caps := { c with w0 := w0, stop := stop, count := (windowRecs e { c with w0 := w0, stop := stop }).length } :: r } ∧
        rd q (0x3000 + v) 8 = 1 ∧ otherEntries [(0x3060 + v.val, 7), (0x3000 + v.val, 8)] s.part q ∧
        (arbOf s.part (.capture v) = [] → arbOf q (.capture v) = (if bufferWords s.part v = 0 ∨ before w0 (rd s.part (0x3010 + v) 5) = true then [{ kind := .failure 1 }] else []))) ∧
    (e.capBusy = true → unsettled s.part (.capture v) = true → (windowRecs e c).length < c.count →
      exec (.captureExpire v) s = .next { s with part := { s.part with fab := { s.part.fab with arb := s.part.fab.arb ++ [(.capture v, { kind := .failure 1 })] } } }) ∧
    (∀ hops fin ws, e.capBusy = true → unsettled s.part (.capture v) = true → (windowRecs e c).length = c.count →
      ws = arriveWords fin (captureFragment (cutRead v c hops s.part).2 v c (cutRead v c hops s.part).1) →
      (∀ cs q, offer v [] ws (cutRead v c hops s.part).2 = (some cs, q) →
        ∃ t, exec (.captureCommit v hops fin) s = .next { s with part := t } ∧ view t v = { e with cut := some { view := v.val, mode := 1, id := c.num, words := ws, cells := cs } } ∧
          t.fab.arb = s.part.fab.arb ++ [(.capture v, { kind := .completion })] ∧ t.bld = s.part.bld) ∧
      ((offer v [] ws (cutRead v c hops s.part).2).1 = none →
        ∃ t, exec (.captureCommit v hops fin) s = .next { s with part := t } ∧ view t v = e ∧
          t.fab.arb = s.part.fab.arb ++ [(.capture v, { kind := .failure 2 })] ∧ t.bld = s.part.bld))) ∧
  (∀ (s : State) (v : Fin 4) (c : Cap) (r : List Cap) (e : ViewEng), live s.part → view s.part v = e → e.caps = c :: r →
    (∀ f, s.part.pow.role = .leaf → arbOf s.part (.capture v) = [{ kind := .completion }] → e.cut = some f →
      ∃ q, exec (.commitArbiterGrant (.capture v) 0) s = .next { s with part := q } ∧ view q v = { e with caps := r, capBusy := false, cut := none } ∧
        (out q v).ready = (out s.part v).ready ++ [{ id := f.id, words := f.words, since := s.part.clk.rp, cells := f.cells }] ∧
        rd q (0x3060 + v) 2 = satInc (rd s.part (0x3060 + v) 2) ∧ rd q (0x3000 + v) 8 = (if r = [] then 2 else 6) ∧
        otherEntries [(0x3060 + v.val, 2), (0x3060 + v.val, 7), (0x3000 + v.val, 8)] s.part q) ∧
    (∀ x n, arbOf s.part (.capture v) = [{ kind := .failure x }] → n = (if x = 2 then 6 else 3) →
      ∃ q, exec (.commitArbiterGrant (.capture v) 0) s = .next { s with part := q } ∧ view q v = { e with caps := r, capBusy := false, cut := none } ∧
        rd q (0x3060 + v) n = satInc (rd s.part (0x3060 + v) n) ∧ rd q (0x3060 + v) 7 = r.length ∧ rd q (0x3000 + v) 8 = (if r = [] then 4 else 6) ∧ q.bld = s.part.bld)) ∧
  (∀ (s : State) (rq : Rq) (v : Fin 4), serving s.part → quiet s.part → checkWrite s.part rq (0x3000 + v) 7 2 = .ok →
    (rd s.part (0x3000 + v) 8 = 1 → arbOf s.part (.capture v) = [] →
      ∃ q, exec (.captureAbort rq v) s = .next { s with part := q } ∧ q = { renew rq s.part with fab := q.fab } ∧ arbOf q (.capture v) = [{ kind := .abort, rqs := [rq] }]) ∧
    (rd s.part (0x3000 + v) 8 = 6 →
      ∃ q, exec (.captureAbort rq v) s = .next { s with part := answerOk rq (0x3000 + v) 7 [] q } ∧
        q = { renew rq s.part with dict := q.dict, mem := q.mem, acq := { s.part.acq with views := q.acq.views } } ∧ (view q v).caps = (view s.part v).caps.tail ∧
        rd q (0x3060 + v) 5 = satInc (rd s.part (0x3060 + v) 5) ∧ rd q (0x3060 + v) 7 = (view s.part v).caps.tail.length) ∧
    (rd s.part (0x3000 + v) 8 ≠ 1 → rd s.part (0x3000 + v) 8 ≠ 6 →
      exec (.captureAbort rq v) s = .next { s with part := answerOk rq (0x3000 + v) 7 [] (bump 0x1230 1 (renew rq s.part)) })) ∧
  (∀ (s : State) (v : Fin 4) (f : OpenFrag) (r : List OpenFrag) (hops : List (Nat × Tag)) (a b : Nat) (p : Part) (recs ws : List FWord), live s.part → s.part.pow.role = .leaf →
    (view s.part v).frags = f :: r → a = f.frame * 2 ^ 23 → b = a + 2 ^ 23 → before (now s.part) b = false → stagePassed s.part b = true → p = advanceTo (b + 98304) s.part →
    recs = (if f.mode = 3 ∧ f.last = true then (selectedInputs p v a).flatMap fun n => sumWords n (tget {} (joinSums (view p v).sums f.sums) n) else []) →
    ws = arriveWords hops (leafFragment p v (if f.mode = 3 then 2 else 0) f.epoch f.frame a b f.rpl (f.body ++ recs)) →
    ws.length = f.body.length + recs.length + 8 ∧ (hops = [] → (ws.drop 5).take f.body.length = f.body) ∧
    (f.lost = true → ∃ t, exec (.fragmentEnd v hops) s = .next { s with part := t } ∧ t = { p with acq := { p.acq with views := t.acq.views } } ∧ (view t v).frags = r) ∧
    (∀ cs q, f.lost = false → offer v f.cells ws p = (some cs, q) →
      ∃ t, exec (.fragmentEnd v hops) s = .next { s with part := t } ∧ (view t v).frags = r ∧
        (out t v).ready = (out s.part v).ready ++ [{ id := f.frame, words := ws, since := p.clk.rp, cells := cs }] ∧ rd t (0x3060 + v) 6 = rd s.part (0x3060 + v) 6) ∧
    (f.lost = false → (offer v f.cells ws p).1 = none →
      ∃ t, exec (.fragmentEnd v hops) s = .next { s with part := t } ∧ (view t v).frags = r ∧ t.bld = s.part.bld ∧ rd t (0x3060 + v) 6 = satInc (rd s.part (0x3060 + v) 6))) ∧
  (∀ (s : State) (v : Fin 4) (e : ViewEng) (p : Part) (m n : Nat), live s.part → view s.part v = e → p = advanceRp ((e.rateEnd + 1) * 2560000) s.part → m = p.clk.rp / 2560000 →
    n = (if e.rateMs + 1 = m then e.rate else if e.rateMs = m then e.ratePrev else 0) →
    ∃ q, exec (.bufferRateWindow v) s = .next { s with part := q } ∧
      q = { p with dict := q.dict, acq := { s.part.acq with views := q.acq.views } } ∧
      rd q (0x3010 + v) 3 = min (2000 * n) 0xFFFFFFFF ∧
      rd q (0x3010 + v) 4 = (if n = 0 then 0xFFFFFFFF else min (bufferWords s.part v * 1000000000 / (2000 * n)) 0xFFFFFFFF) ∧
      view q v = { e with rateEnd := m } ∧ otherEntries [(0x3010 + v.val, 3), (0x3010 + v.val, 4)] s.part q)

/-! ### Event building and output (R180 to R221) -/

/-- R300, R302, R306 and R331: the first piece of a fragment, of fewer words than its header, on a link in SERVICE of a Bough is charged to the link's credit
and held until its header is whole; the port's fragment counter counts it. One of more words than the credit left, or one that goes on with a fragment that has not begun, is counted in 5120h + k.06; one on a link out of SERVICE, on an uplink or at a Leaf
in .09. None of these has another effect. R303, R187 and R331: an abandoned fragment in progress is gone and the abandonment is counted in 5120h + k.08; while its place is not decided its words' credit is returned, but for what is withheld.
With none in progress the marking is counted in .06, and on a link where it is not allowed in .09. -/
def Obligations.FragmentPacketsAreCharged : Prop :=
  (∀ (s : State) (k : Fin 18) (v : Fin 4) (w : FWord) (t : List FWord) (port : Nat), live s.part → port = portOf s.part k → t.length < 1023 → (∀ x ∈ w :: t, x.poison = false) →
    (16 ≤ k.val ∨ inService s.part k = false ∨ s.part.pow.role = .leaf → ∀ h ws, exec (.frameFragmentPacket k (h :: ws)) s = .next { s with part := bump (0x5120 + k) 9 s.part }) ∧
    (k.val < 16 → inService s.part k = true → s.part.pow.role = .bough → rxOf s.part k v = none → bits (wv w) 19 16 ≠ 5 →
      (t.length + 1 < headNeeded w → t.length + 1 ≤ (credit s.part k v).left →
        ∃ q, exec (.frameFragmentPacket k (fw (2 ^ 16 + v * 2 ^ 14 + 2 ^ 13 + (t.length + 1)) :: w :: t)) s = .next { s with part := q } ∧
          q = { s.part with dict := q.dict, bld := { s.part.bld with rx := q.bld.rx, credits := q.bld.credits } } ∧
          rxOf q k v = some { words := w :: t, charged := t.length + 1 } ∧
          credit q k v = { credit s.part k v with charged := ((credit s.part k v).charged + (t.length + 1)) % 2 ^ 32 } ∧
          rd q (0x4050 + port) 2 = satInc (rd s.part (0x4050 + port) 2) ∧ otherEntries [(0x4050 + port, 2)] s.part q) ∧
      ((credit s.part k v).left < t.length + 1 →
        exec (.frameFragmentPacket k (fw (2 ^ 16 + v * 2 ^ 14 + 2 ^ 13 + (t.length + 1)) :: w :: t)) s = .next { s with part := bump (0x5120 + k) 6 (bump (0x4050 + port) 2 s.part) }) ∧
      exec (.frameFragmentPacket k (fw (2 ^ 16 + v * 2 ^ 14 + (t.length + 1)) :: w :: t)) s = .next { s with part := bump (0x5120 + k) 6 s.part })) ∧
  (∀ (s : State) (k : Fin 18) (v : Fin 4), live s.part →
    (16 ≤ k.val ∨ inService s.part k = false ∨ s.part.pow.role = .leaf → exec (.abandonPacket k v) s = .next { s with part := bump (0x5120 + k) 9 s.part }) ∧
    (k.val < 16 → inService s.part k = true → s.part.pow.role = .bough → rxOf s.part k v = none → exec (.abandonPacket k v) s = .next { s with part := bump (0x5120 + k) 6 s.part }) ∧
    (∀ x c, k.val < 16 → inService s.part k = true → s.part.pow.role = .bough → rxOf s.part k v = some x → credit s.part k v = c →
      ∃ q, exec (.abandonPacket k v) s = .next { s with part := q } ∧ q = { s.part with dict := q.dict, mem := { s.part.mem with cells := q.mem.cells }, bld := q.bld } ∧
        rxOf q k v = none ∧ rd q (0x5120 + k) 8 = satInc (rd s.part (0x5120 + k) 8) ∧
        otherThanCells [(0x5120 + k.val, 8), (0x4020, 4), (0x4020, 5)] s.part q ∧
        (x.ext = [] → x.disp = .undecided →
          credit q k v = { grant := (c.grant + (x.charged - min x.charged c.debt)) % 2 ^ 32, charged := c.charged, debt := c.debt - min x.charged c.debt })))

/-- R194: the end-of-fragment word of an awaited port's current fragment makes the port present, and one of the Leaf's own at port 15 counts as sent; while other ports are awaited the slot stays open, and
the last one closes it with its ports as they stand. R193 and R194: a slot still open at its timeout closes; the ports still awaited are missing, each counted for its port and view, what they have sent is discarded, and the close is counted in
4030h + v.04, and with a port missing in .05. R193: a close request leaves no slot of its view open, whatever the state of the slots, and is answered; slots of other views stay as they were. -/
def Obligations.SlotsCollectTheirEvent : Prop :=
  (∀ (s : State) (v : Fin 4) (sl : Fin 4096) (port : Fin 16), live s.part →
    ((queue s.part v sl port).cur = none ∨ (slot s.part v sl).phase ≠ .open_ ∨ bit (slot s.part v sl).await port = false → exec (.endOfFragmentAccept v sl port) s = .next s) ∧
    (∀ f ws, (queue s.part v sl port).cur = some f → f.words = some ws → (slot s.part v sl).phase = .open_ → bit (slot s.part v sl).await port = true → (slot s.part v sl).id = some f.id →
      ∃ q, exec (.endOfFragmentAccept v sl port) s = .next { s with part := q } ∧ q = { s.part with dict := q.dict, bld := q.bld } ∧
        bit (slot q v sl).present port = true ∧ bit (slot q v sl).await port = false ∧
        (queue q v sl port).cur = some { f with accepted := true } ∧
        rd q (0x3060 + v) 1 = (if port.val = 15 ∧ localOn s.part = true ∧ bit (slot s.part v sl).present port = false then satInc (rd s.part (0x3060 + v) 1) else rd s.part (0x3060 + v) 1) ∧
        (clrBit (slot s.part v sl).await port ≠ 0 → (slot q v sl).phase = .open_ ∧ otherEntries [(0x4030 + v.val, 1), (0x3060 + v.val, 1)] s.part q) ∧
        (clrBit (slot s.part v sl).await port = 0 → (slot q v sl).phase = .closed ∧ (slot q v sl).missing = (slot s.part v sl).missing ∧
          otherEntries [(0x4030 + v.val, 1), (0x4030 + v.val, 5), (0x3060 + v.val, 1)] s.part q))) ∧
  (∀ (s : State) (v : Fin 4) (sl : Fin 4096) (x : Slot), live s.part → slot s.part v sl = x →
    (x.phase ≠ .open_ → exec (.slotTimeout v sl) s = .next s) ∧
    (x.phase = .open_ →
      ∃ q, exec (.slotTimeout v sl) s = .next { s with part := q } ∧
        q = { s.part with clk := s.part.clk.run (x.opened + x.tau - s.part.clk.rp), dict := q.dict, mem := { s.part.mem with cells := q.mem.cells }, bld := q.bld } ∧
        slot q v sl = { x with phase := .closed, missing := x.missing ||| x.await, await := 0 } ∧
        rd q (0x4030 + v) 4 = satInc (rd s.part (0x4030 + v) 4) ∧ (x.await ≠ 0 → rd q (0x4030 + v) 5 = satInc (rd s.part (0x4030 + v) 5)) ∧
        (∀ port, port < 16 → rd q (0x4050 + port) (v + 3) = (if bit x.await port then satInc (rd s.part (0x4050 + port) (v + 3)) else rd s.part (0x4050 + port) (v + 3)) ∧
          (queue q v sl port).cur = (if bit x.await port then none else (queue s.part v sl port).cur)) ∧
        (∀ i a, a < 256 → i < 0x4020 ∨ 0x405F < i → (withdrawing s.part = true → ¬ reportsRegion i a) → rd q i a = rd s.part i a))) ∧
  (∀ (s : State) (rq : Rq) (v : Fin 4), serving s.part → quiet s.part → checkWrite s.part rq (0x4000 + v) 7 1 = .ok →
    ∃ q, exec (.closeRequest rq v) s = .next { s with part := answerOk rq (0x4000 + v) 7 [] q } ∧
      q = { renew rq s.part with dict := q.dict, mem := { s.part.mem with cells := q.mem.cells }, bld := q.bld } ∧
      (∀ sl x, sl < 4096 → slot s.part v sl = x →
        slot q v sl = (if x.phase = .open_ then { x with phase := .closed, missing := x.missing ||| x.await, await := 0 } else x)) ∧
      (∀ w sl, w < 4 → w ≠ v.val → sl < 4096 → slot q w sl = slot s.part w sl))

/-- R194, R203 and R214: a closed slot with no older slot open or closed, a free builder and room in the quota enters MERGING with its fragment in cells of its region, and the merge horizon is its id; a fragment that the quota can never hold, or with a body of more than 1,048,575 words, is
discarded and counted in 4030h + v.0A, and one that the quota cannot hold yet waits. Stated for slots listed in rising order. R196, R214 and R221: when the last word is written the merged fragment is counted in 4030h + v.03, and is a job of the compressor, or, with compression off and no job before it, ready to be sent; the slot, with nothing held behind it, is IDLE
again. Stated for slots listed in rising order. R36 and R217: where its credit timeout is on, a view's fragment that has begun to be sent and has waited that long for further credit is abandoned on its
link and counted in 4030h + v.0C, and one that has waited that long to begin is dropped whole and counted in .0B, the one first due first; its cells are free again, and no other view changes. -/
def Obligations.MergedFragmentsLeave : Prop :=
  (∀ (s : State) (v : Fin 4) (sl : Fin 4096) (hops : List (Nat × Nat × Tag)) (x : Slot) (o : OutView) (id r quota need : Nat) (ports : List PortIn) (p : Part) (m : Merged),
    live s.part → tasc none s.part.bld.slots = true → slot s.part v sl = x → out s.part v = o → x.id = some id → x.phase = .closed → o.merging = none → olderIdle s.part v id = true →
    readPorts v sl hops (List.range 16) s.part = (ports, p) → m = mergeSlot v sl ports p → r = eff s.part (0x4000 + v) 6 → quota = quotaCells s.part 0x4000 6 v → need = cellsFor m.words.length →
    (1048583 < m.words.length ∨ quota < need →
      ∃ q, exec (.mergeStart v sl hops) s = .next { s with part := q } ∧ rd q (0x4030 + v) 0xA = satInc (rd s.part (0x4030 + v) 0xA) ∧ rd q (0x4030 + v) 2 = id ∧ out q v = o) ∧
    (m.words.length ≤ 1048583 → need ≤ quota → quota < cellsOf s.part r (mergedCells o) + need → exec (.mergeStart v sl hops) s = .next s) ∧
    (∀ cells u, m.words.length ≤ 1048583 → cellsOf s.part r (mergedCells o) + need ≤ quota → addWords (builderCode v) r m.words p = (some cells, u) →
      ∃ q, exec (.mergeStart v sl hops) s = .next { s with part := q } ∧ slot q v sl = { x with phase := .merging } ∧ rd q (0x4030 + v) 2 = id ∧
        out q v = { o with merging := some { id := id, words := m.words, lens := m.lens, cells := cells } } ∧ rd q (0x4030 + v) 0xA = rd s.part (0x4030 + v) 0xA)) ∧
  (∀ (s : State) (v : Fin 4) (sl : Fin 4096) (f : OutFrag) (x : Slot) (o : OutView), live s.part → tasc none s.part.bld.slots = true → slot s.part v sl = x → out s.part v = o →
    x.phase = .merging → o.merging = some f → x.id = some f.id →
    ∃ q, exec (.mergeComplete v sl) s = .next { s with part := q } ∧
      out q v = (if rd s.part (0x4040 + v) 1 = 1 ∨ o.jobs ≠ [] then { o with merging := none, jobs := o.jobs ++ [{ f with since := s.part.clk.rp }] }
        else { o with merging := none, ready := o.ready ++ [{ f with since := s.part.clk.rp }] }) ∧
      rd q (0x4030 + v) 3 = satInc (rd s.part (0x4030 + v) 3) ∧
      (rd s.part (0x4040 + v) 1 = 1 → rd q (0x4040 + v) 5 = (if o.busy then 1 else 6)) ∧
      (x.starts = [] → (∀ port, port < 16 → (queue s.part v sl port).held = none) → (slot q v sl).phase = .idle ∧ ∀ port, port < 16 → (queue q v sl port).cur = none)) ∧
  (∀ (s : State) (v : Fin 4) (o : OutView), live s.part → out s.part v = o →
    (outTimeout s.part v = 0 → exec (.outputCreditTimeout v) s = .next s) ∧
    (∀ x a, outTimeout s.part v ≠ 0 → o.sending = some x → abandonDue s.part v = some a → (∀ d, dropDue s.part v = some d → a ≤ d) →
      ∃ q, exec (.outputCreditTimeout v) s = .next { s with part := q } ∧
        q = { s.part with clk := s.part.clk.run (a - s.part.clk.rp), dict := q.dict, mem := { s.part.mem with cells := s.part.mem.cells.filter fun c => !x.frag.cells.contains c }, links := q.links, bld := { s.part.bld with outs := q.bld.outs } } ∧
        out q v = { o with sending := none } ∧ link q x.link = { link s.part x.link with abandon := (link s.part x.link).abandon ++ [v.val] } ∧
        (∀ w, w ≠ v.val → out q w = out s.part w) ∧ rd q (0x4030 + v) 0xC = satInc (rd s.part (0x4030 + v) 0xC) ∧
        otherThanCells [(0x4030 + v.val, 0xC)] s.part q) ∧
    (∀ d, outTimeout s.part v ≠ 0 → dropDue s.part v = some d → (∀ a, abandonDue s.part v = some a → d < a) →
      ∃ q, exec (.outputCreditTimeout v) s = .next { s with part := q } ∧
        q = { s.part with clk := s.part.clk.run (d - s.part.clk.rp), dict := q.dict, mem := { s.part.mem with cells := q.mem.cells }, bld := { s.part.bld with outs := q.bld.outs } } ∧
        (∀ f r, o.sending = none → o.ready = f :: r → (∀ g ∈ r, f.since ≤ g.since) →
          out q v = { o with ready := r } ∧ q.mem.cells = s.part.mem.cells.filter fun c => !f.cells.contains c) ∧
        (∀ x, o.sending = some x → x.sent = 0 → (∀ g ∈ o.ready, x.frag.since ≤ g.since) →
          out q v = { o with sending := none } ∧ q.mem.cells = s.part.mem.cells.filter fun c => !x.frag.cells.contains c) ∧
        (∀ w, w ≠ v.val → out q w = out s.part w) ∧ rd q (0x4030 + v) 0xB = satInc (rd s.part (0x4030 + v) 0xB) ∧
        otherThanCells [(0x4030 + v.val, 0xB)] s.part q))

/-! ### The packed format (R220 to R239) -/

/-- R220, R221, R232 and R233: with compression off the oldest job's fragment goes on as it is; with it on, the job becomes BUSY with the ratio and the region set then, and either a failure is raised for a poisoned header or trailer word (4), no region (2) or a bound that the
view's quota can never hold (3), or it holds its reservation and its packed body, at once or when the quota has room for its bound L. R232, R233 and R235: a packed body that fits its reservation raises the job's completion; one that would pass it raises a failure with cause 1. R73, R232, R233 and R235: a completed job's packed fragment is ready in its place, in the cells it needs of the reservation, and the merged one's cells are free; the merged fragment of a failed job goes up raw, with the cause in 4040h + v.06. An abort of the
BUSY job waits at its arbiter, and one of a DEFERRED job sends its merged fragment up raw and is answered; in any other status it is counted in 1230h.01. -/
def Obligations.CompressionJobsRun : Prop :=
  (∀ (s : State) (v : Fin 4) (hops : List (Nat × Tag)) (f : OutFrag) (r : List OutFrag) (o : OutView), live s.part → out s.part v = o → o.jobs = f :: r →
    (o.busy = false → rd s.part (0x4040 + v) 1 = 0 →
      ∃ q, exec (.compressionJobStart v hops) s = .next { s with part := q } ∧ q = { s.part with dict := q.dict, bld := { s.part.bld with outs := q.bld.outs } } ∧
        out q v = { o with jobs := r, ready := o.ready ++ [f] } ∧ otherEntries [(0x4040 + v.val, 5)] s.part q) ∧
    (∀ ws p x u c n g, o.busy = false → rd s.part (0x4040 + v) 1 ≠ 0 → fetch (compressorCode v) (cellAddrs f.cells f.words.length) f.words s.part = (ws, p) →
      x = { o with busy := true, reserved := none, resCells := [], packed := [], jobWords := compressorWords f.lens (arriveWords hops ws), jobR := rd s.part (0x4040 + v) 2, jobRegion := rd s.part (0x4040 + v) 3 } →
      u = noteJobs v (wr (0x4040 + v) 6 0 (setOut v x p)) → n = 8 + packLimit x.jobR (f.words.length - 8) → g = quotaOf u 0x4040 3 x.jobRegion →
      c = (if poisoned (x.jobWords.take 6 ++ x.jobWords.drop (x.jobWords.length - 2)) then 4 else if 16 ≤ x.jobRegion then 2 else if g < cellsFor n then 3 else 0) →
      rd u (0x4040 + v) 5 = 1 ∧ rd u (0x4040 + v) 6 = 0 ∧ out u v = x ∧
      (c ≠ 0 → unsettled s.part (.job v) = true →
        exec (.compressionJobStart v hops) s = .next { s with part := { u with fab := { s.part.fab with arb := s.part.fab.arb ++ [(.job v, { kind := .failure c })] } } }) ∧
      (c = 0 → g < cellsOf u x.jobRegion (packedCells x) + cellsFor n → exec (.compressionJobStart v hops) s = .next { s with part := u }) ∧
      (∀ cs w, c = 0 → cellsOf u x.jobRegion (packedCells x) + cellsFor n ≤ g → addCells (compressorCode v) x.jobRegion [] n u = (some cs, w) →
        ∃ q, exec (.compressionJobStart v hops) s = .next { s with part := q } ∧ rd q (0x4040 + v) 5 = 1 ∧ rd q (0x4040 + v) 6 = 0 ∧
          out q v = { x with reserved := some n, resCells := cs, packed := packBody (bits (wv (x.jobWords.getD 0 poisonWord)) 13 12 == 2) f.lens ((x.jobWords.drop 6).take (x.jobWords.length - 8)) })) ∧
    (∀ n g, o.busy = true → o.reserved = none → n = 8 + packLimit o.jobR (f.words.length - 8) → g = quotaOf s.part 0x4040 3 o.jobRegion →
      (g < cellsOf s.part o.jobRegion (packedCells o) + cellsFor n → exec (.jobReservationGrant v) s = .next s) ∧
      (∀ cs w, cellsOf s.part o.jobRegion (packedCells o) + cellsFor n ≤ g → addCells (compressorCode v) o.jobRegion [] n s.part = (some cs, w) →
        ∃ q, exec (.jobReservationGrant v) s = .next { s with part := q } ∧ q = { w with bld := { s.part.bld with outs := q.bld.outs } } ∧
          out q v = { o with reserved := some n, resCells := cs, packed := packBody (bits (wv (o.jobWords.getD 0 poisonWord)) 13 12 == 2) f.lens ((o.jobWords.drop 6).take (o.jobWords.length - 8)) }))) ∧
  (∀ (s : State) (v : Fin 4) (o : OutView) (n : Nat), live s.part → out s.part v = o → o.busy = true → o.reserved = some n → unsettled s.part (.job v) = true →
    (o.packed.length + 8 ≤ n →
      (∃ q, exec (.jobCommit v) s = .next { s with part := q } ∧ q.fab.arb = s.part.fab.arb ++ [(.job v, { kind := .completion })] ∧ q.bld = s.part.bld) ∧
      exec (.packedBodyExceedsReservation v) s = .next s) ∧
    (n < o.packed.length + 8 →
      exec (.packedBodyExceedsReservation v) s = .next { s with part := { s.part with fab := { s.part.fab with arb := s.part.fab.arb ++ [(.job v, { kind := .failure 1 })] } } } ∧
      exec (.jobCommit v) s = .next s)) ∧
  (∀ (s : State) (v : Fin 4) (f : OutFrag) (r : List OutFrag) (o : OutView), live s.part → out s.part v = o → o.jobs = f :: r →
    (∀ ws, arbOf s.part (.job v) = [{ kind := .completion }] → ws = packedFragment o.jobWords o.packed →
      ∃ q, exec (.commitArbiterGrant (.job v) 0) s = .next { s with part := q } ∧ (out q v).jobs = r ∧ (out q v).busy = false ∧
        (out q v).ready = o.ready ++ [{ f with words := ws, packed := true, cells := o.resCells.take (cellsFor ws.length), since := s.part.clk.rp }] ∧
        q.mem.cells = s.part.mem.cells.filter (fun c => !(f.cells ++ o.resCells.drop (cellsFor ws.length)).contains c) ∧
        rd q (0x4040 + v) 5 = (if r = [] then 2 else 6) ∧ rd q (0x4040 + v) 7 = satInc (rd s.part (0x4040 + v) 7) ∧ rd q (0x4040 + v) 0xA = f.words.length - 8 ∧ rd q (0x4040 + v) 0xB = o.packed.length) ∧
    (∀ c, arbOf s.part (.job v) = [{ kind := .failure c }] →
      ∃ q, exec (.commitArbiterGrant (.job v) 0) s = .next { s with part := q } ∧ (out q v).jobs = r ∧ (out q v).busy = false ∧
        (out q v).ready = o.ready ++ [{ f with raw := true, since := s.part.clk.rp }] ∧ q.mem.cells = s.part.mem.cells.filter (fun c => !o.resCells.contains c) ∧
        rd q (0x4040 + v) 5 = (if r = [] then 4 else 6) ∧ rd q (0x4040 + v) 6 = c ∧ rd q (0x4040 + v) 8 = satInc (rd s.part (0x4040 + v) 8)) ∧
    (∀ rq, serving s.part → quiet s.part → checkWrite s.part rq (0x4040 + v) 4 2 = .ok →
      (rd s.part (0x4040 + v) 5 = 1 → arbOf s.part (.job v) = [] →
        exec (.jobAbort rq v) s = .next { s with part := { renew rq s.part with fab := { s.part.fab with arb := s.part.fab.arb ++ [(.job v, { kind := .abort, rqs := [rq] })] } } }) ∧
      (rd s.part (0x4040 + v) 5 = 6 →
        ∃ q, exec (.jobAbort rq v) s = .next { s with part := answerOk rq (0x4040 + v) 4 [] q } ∧ q = { renew rq s.part with dict := q.dict, mem := { s.part.mem with cells := q.mem.cells }, bld := { s.part.bld with outs := q.bld.outs } } ∧
          (out q v).jobs = r ∧ (out q v).ready = o.ready ++ [{ f with raw := true, since := s.part.clk.rp }] ∧
          rd q (0x4040 + v) 9 = satInc (rd s.part (0x4040 + v) 9) ∧ otherThanCells [(0x4040 + v.val, 5), (0x4040 + v.val, 9)] s.part q) ∧
      (rd s.part (0x4040 + v) 5 ≠ 1 → rd s.part (0x4040 + v) 5 ≠ 6 →
        exec (.jobAbort rq v) s = .next { s with part := answerOk rq (0x4040 + v) 4 [] (bump 0x1230 1 (renew rq s.part)) })))

/-! ### Event memory (R241 to R259) -/

/-- R241, R242 and R250 to R253: both words of a row written, or one word of a row in code S1 or P2, or one of a pair that reads clean in D2, is what a read there delivers, and every other word holds what it held; a half written in P2 changes that half of its word only. A word tagged POISONED is read as POISONED, and each read counts it. An
access to an address of no region has no effect. R248, R250, R251 and R257: of a unit that was written under its region's code, a read corrects one wrong bit of D2 or S1 and two of D2, and counts what it corrects; three wrong bits of D2 or two of S1 it delivers as one poisoned word, counted for region and bank
and logged with place and time. No read changes what memory holds. -/
def Obligations.MemoryKeepsWhatIsWritten : Prop :=
  (∀ (s : State) (b : Block) (a r code e : Nat) (x y : Present) (d f : Word), live s.part → a < 2 ^ 24 → code = codeOf s.part r → e = a / 2 * 2 → d = BitVec.ofNat 20 x.seen.toNat → f = BitVec.ofNat 20 y.seen.toNat →
    (∀ w ups, exec (.memoryWrite a w ups) s = exec (.memoryWrite a w []) { s with part := upset ups s.part }) ∧
    (∀ both ups, exec (.memoryRead b a both ups) s = exec (.memoryRead b a both []) { s with part := upset ups s.part }) ∧
    (∀ w both, regionAt s.part a = none → exec (.memoryWrite a w []) s = .next s ∧ exec (.memoryRead b a both []) s = .next s) ∧
    (regionAt s.part a = some r → x.tag = .normal → evenParity x.seen = true →
      (y.tag = .normal → evenParity y.seen = true →
        ∃ q, exec (.memoryWrite a (.pair x y) []) s = .next { s with part := q } ∧ q = { s.part with fab := q.fab, mem := { s.part.mem with words := q.mem.words } } ∧
          peek q e = some { code := code, data := d } ∧ peek q (e + 1) = some { code := code, data := f } ∧ (∀ c, c ≠ e → c ≠ e + 1 → peek q c = peek s.part c) ∧
          exec (.memoryRead b a true []) { s with part := q } = .next { s with part := { q with mem := { q.mem with out := [{ data := d }, { data := f }] } } }) ∧
      (∀ ws, code ≠ 0 ∨ decodeUnit code a s.part = (.good ws, s.part) →
        ∃ q, exec (.memoryWrite a (.word x) []) s = .next { s with part := q } ∧ q = { s.part with fab := q.fab, mem := { s.part.mem with words := q.mem.words } } ∧
          peek q a = some { code := code, data := d } ∧ (∀ c, c ∉ unitAddrs code a → peek q c = peek s.part c) ∧
          (∀ c ∈ unitAddrs code a, c ≠ a → peek q c = some { code := code, data := ws.getD (c % 2) 0 }) ∧
          exec (.memoryRead b a false []) { s with part := q } = .next { s with part := { q with mem := { q.mem with out := [{ data := d }] } } }) ∧
      (∀ h w, code = 2 → peek s.part a = some w → w.poison = false → w.flips = 0 →
        ∃ q, exec (.memoryWrite a (.half h x) []) s = .next { s with part := q } ∧ q = { s.part with fab := q.fab, mem := { s.part.mem with words := q.mem.words } } ∧
          peek q a = some { w with data := putHalf w.data h d } ∧ ∀ c, c ≠ a → peek q c = peek s.part c)) ∧
    (regionAt s.part a = some r → x.tag = .poisoned → code ≠ 0 →
      ∃ q, exec (.memoryWrite a (.word x) []) s = .next { s with part := q } ∧
        ∃ t, exec (.memoryRead b a false []) { s with part := q } = .next { s with part := t } ∧ t.mem.out = [poisonWord] ∧ rd t (0x7020 + r) 5 = satInc (rd s.part (0x7020 + r) 5))) ∧
  (∀ (s : State) (b : Block) (a r code : Nat) (errs : List (Nat × Nat)), live s.part → a < 2 ^ 24 → regionAt s.part a = some r → code = codeOf s.part r → code < 2 →
    wildUnit s.part code a = false → unitErrors s.part code a = errs → (∀ e ∈ errs, unusedBit code e.2 = false) →
    ((code = 0 ∧ errs.length = 3) ∨ (code = 1 ∧ errs.length = 2) →
      ∃ q, exec (.memoryRead b a false []) s = .next { s with part := q } ∧ q = { s.part with dict := q.dict, svc := q.svc, mem := { s.part.mem with out := [poisonWord], log := q.mem.log } } ∧
        rd q (0x7020 + r) 3 = satInc (rd s.part (0x7020 + r) 3) ∧
        rd q (0x7042 + a / 65536 / 128) (a / 65536 % 128 + 1) = satInc (rd s.part (0x7042 + a / 65536 / 128) (a / 65536 % 128 + 1)) ∧
        (∃ i x, (i, x) ∈ q.mem.log ∧ x.kind = 3 ∧ x.addr = unitBase code a) ∧
        otherEntries [(0x7020 + r, 3), (0x7042 + a / 65536 / 128, a / 65536 % 128 + 1), (0x7051, 1), (0x7051, 2)] s.part q) ∧
    (∀ n, n = errs.length → n = 1 ∨ (n = 2 ∧ code = 0) → (∀ c ∈ unitAddrs code a, ∀ w, peek s.part c = some w → w.poison = false) →
      ∃ q, exec (.memoryRead b a false []) s = .next { s with part := q } ∧ q = { s.part with dict := q.dict, mem := { s.part.mem with out := [{ data := dataAt s.part a }] } } ∧
        rd q (0x7020 + r) n = satInc (rd s.part (0x7020 + r) n) ∧
        otherEntries [(0x7020 + r, n), (0x7040 + a / 65536 / 128, a / 65536 % 128 + 1)] s.part q))

/-- R245 and R249: a committed write of a field of a region's table entry moves the region to DEFINED, or UNDEFINED with no cells; an accepted fill request makes it
FILLING, and one for a region without cells, in use or being scrubbed is REJECTED. R249 and R254: when a fill ends, every word of the region's cells in service reads zero under the region's code, every address outside the region holds what it held, the region is FILLED, and
with a scrub rate it is scrubbed from then on. -/
def Obligations.RegionsAreDefinedAndFilled : Prop :=
  (∀ (s : State) (rq : Rq) (r : Fin 16),
    (∀ field value, 1 ≤ field → field ≤ 5 → accepted s.part rq (0x7000 + r) field value →
      ∃ q, exec (.regionTableWrite rq r field value) s = .next { s with part := answerOk rq (0x7000 + r) field [] q } ∧
        q = { renew rq s.part with dict := q.dict, effOld := q.effOld, svc := q.svc } ∧ journalled1 rq (0x7000 + r) field value s.part q ∧
        regionState q r = (if (geo q r).n = 0 then 0 else 1) ∧ (∀ k, k < 16 → k ≠ r.val → geo q k = geo s.part k)) ∧
    (serving s.part → quiet s.part → checkWrite s.part rq (0x7010 + r) 1 1 = .ok →
      ∃ q, exec (.regionFillStart rq r) s = .next { s with part := answerOk rq (0x7010 + r) 1 [] q } ∧ onlyEntries [(0x7000 + r.val, 6), (0x7010 + r.val, 2)] (renew rq s.part) q ∧
        (regionState s.part r ≠ 0 → regionNamed s.part r = false → rd s.part (0x7010 + r) 5 ≠ 1 → regionState q r = 2 ∧ rd q (0x7010 + r) 2 = 1) ∧
        (regionState s.part r = 0 ∨ regionNamed s.part r = true ∨ rd s.part (0x7010 + r) 5 = 1 → regionState q r = regionState s.part r ∧ rd q (0x7010 + r) 2 = 5))) ∧
  (∀ (s : State) (r : Fin 16), live s.part →
    (rd s.part (0x7010 + r) 2 ≠ 1 → exec (.regionFillDone r) s = .next s) ∧
    (rd s.part (0x7010 + r) 2 = 1 →
      ∃ q, exec (.regionFillDone r) s = .next { s with part := q } ∧ q = { s.part with dict := q.dict, mem := { s.part.mem with words := q.mem.words, fills := q.mem.fills, scrubs := q.mem.scrubs } } ∧
        (∀ a, (geo s.part r).holds a = true → bankOut s.part (a / 65536) = false → peek q a = some { code := codeOf s.part r }) ∧
        (∀ a, (geo s.part r).holds a = false → peek q a = peek s.part a) ∧
        regionState q r = 3 ∧ rd q (0x7010 + r) 2 = 2 ∧ rd q (0x7010 + r) 5 = (if rd s.part (0x7010 + r) 3 = 0 then rd s.part (0x7010 + r) 5 else 1) ∧
        otherEntries [(0x7000 + r.val, 6), (0x7010 + r.val, 2), (0x7010 + r.val, 5), (0x7010 + r.val, 6)] s.part q))

/-- R254 and R255: a scrub request for a FILLED region with a rate starts a pass at its first cell in service, and any other is REJECTED; the scrubber reads one unit after the other at its pace, writes back one with one wrong bit, and after the last unit of the last cell raises completion; an
abort of the pass waits at its arbiter, by the request or by the rate, and with none running it is counted and answered. R258 and R259: a bank named in 7046h.01 that may be withdrawn and holds no cell in use is WITHDRAWN at once, and one that does is being withdrawn until the last has been freed;
a return makes a withdrawn bank RETURNING, and in service when it is done; a bank that may not be withdrawn is REJECTED with its cause. R247 and R259: a committed naming of a region for the trigger table or the dictionary shadows that differs from the one in use waits as a move to it, and naming the one in use ends a move; at a boundary after the
frame in which it was made, once the copy reads back as the original, the region is in use and the move is over. -/
def Obligations.ScrubbingBanksAndMoves : Prop :=
  (∀ (s : State) (rq : Rq) (r : Fin 16),
    (serving s.part → quiet s.part → checkWrite s.part rq (0x7010 + r) 4 1 = .ok →
      ∃ q, exec (.scrubStart rq r) s = .next { s with part := answerOk rq (0x7010 + r) 4 [] q } ∧ q = { renew rq s.part with dict := q.dict, mem := { s.part.mem with scrubs := q.mem.scrubs } } ∧
        otherEntries [(0x7010 + r.val, 5), (0x7010 + r.val, 6)] s.part q ∧
        (regionState s.part r = 3 → rd s.part (0x7010 + r) 3 ≠ 0 → rd q (0x7010 + r) 5 = 1 ∧ rd q (0x7010 + r) 6 = (cellFrom s.part r 0).getD 0 ∧
          tget ({} : ScrubPos) q.mem.scrubs r = { unit := 0, last := s.part.clk.rp }) ∧
        (regionState s.part r ≠ 3 ∨ rd s.part (0x7010 + r) 3 = 0 → rd q (0x7010 + r) 5 = 5)) ∧
    (live s.part → rd s.part (0x7010 + r) 5 ≠ 1 ∨ rd s.part (0x7010 + r) 3 = 0 → ∀ ups, exec (.scrubUnit r ups) s = .next s) ∧
    (∀ code x c a errs, live s.part → rd s.part (0x7010 + r) 5 = 1 → rd s.part (0x7010 + r) 3 ≠ 0 → unsettled s.part (.scrub r) = true → code = codeOf s.part r → tget ({} : ScrubPos) s.part.mem.scrubs r = x →
      rd s.part (0x7010 + r) 6 = c → cellFrom s.part r c = some c → a = (geo s.part r).addr (16 * c + (if code = 0 then 2 else 1) * x.unit) →
      wildUnit s.part code a = false → unitErrors s.part code a = errs →
      (x.unit + 1 < unitsPerCell code → errs = [] →
        ∃ q, exec (.scrubUnit r []) s = .next { s with part := q } ∧
          q = { s.part with clk := s.part.clk.run (x.last + (if code = 0 then 2 else 1) * secRp / rd s.part (0x7010 + r) 3 - s.part.clk.rp), dict := q.dict, mem := { s.part.mem with scrubs := q.mem.scrubs } } ∧
          tget ({} : ScrubPos) q.mem.scrubs r = { unit := x.unit + 1, last := q.clk.rp } ∧ otherEntries [] s.part q) ∧
      (∀ e, x.unit + 1 < unitsPerCell code → code < 2 → errs = [e] → unusedBit code e.2 = false → (∀ d ∈ unitAddrs code a, ∀ w, peek s.part d = some w → w.poison = false) →
        ∃ q, exec (.scrubUnit r []) s = .next { s with part := q } ∧ rd q (0x7020 + r) 1 = satInc (rd s.part (0x7020 + r) 1) ∧
          (∀ d ∈ unitAddrs code a, peek q d = some { code := code, data := dataAt s.part d }) ∧ (∀ d, d ∉ unitAddrs code a → peek q d = peek s.part d) ∧
          tget ({} : ScrubPos) q.mem.scrubs r = { unit := x.unit + 1, last := q.clk.rp }) ∧
      (x.unit + 1 = unitsPerCell code → errs = [] → cellFrom s.part r (c + 1) = none →
        ∃ q, exec (.scrubUnit r []) s = .next { s with part := q } ∧ q.fab.arb = s.part.fab.arb ++ [(.scrub r, { kind := .completion })] ∧ otherEntries [] s.part q)) ∧
    (serving s.part → quiet s.part → checkWrite s.part rq (0x7010 + r) 4 2 = .ok →
      (rd s.part (0x7010 + r) 5 = 1 → arbOf s.part (.scrub r) = [] →
        exec (.scrubAbort rq r false) s = .next { s with part := { renew rq s.part with fab := { s.part.fab with arb := s.part.fab.arb ++ [(.scrub r, { kind := .abort, rqs := [rq] })] } } }) ∧
      (rd s.part (0x7010 + r) 5 ≠ 1 → rd s.part (0x7010 + r) 5 ≠ 6 → exec (.scrubAbort rq r false) s = .next { s with part := answerOk rq (0x7010 + r) 4 [] (bump 0x1230 1 (renew rq s.part)) })) ∧
    (accepted s.part rq (0x7010 + r) 3 0 →
      ∃ q, exec (.scrubAbort rq r true) s = .next { s with part := q } ∧ rd q (0x7010 + r) 3 = 0 ∧ rd q (0x7010 + r) 5 = rd s.part (0x7010 + r) 5 ∧
        (rd s.part (0x7010 + r) 5 = 1 → arbOf s.part (.scrub r) = [] → q.fab.arb = s.part.fab.arb ++ [(.scrub r, { kind := .abort, rqs := [rq] })]) ∧
        (rd s.part (0x7010 + r) 5 ≠ 1 → q.fab = s.part.fab))) ∧
  (∀ (s : State) (rq : Rq) (b : Nat), b < 256 →
    (serving s.part → quiet s.part → checkWrite s.part rq 0x7046 2 1 = .ok → rd s.part 0x7046 1 = b →
      (∀ held, bankCause s.part b true = 0 → held = ((List.range 16).any (fun r => latencyCells s.part b r != 0) || s.part.mem.cells.any fun c => c / 4096 == b) →
        ∃ q, exec (.bankWithdraw rq) s = .next { s with part := answerOk rq 0x7046 2 [] q } ∧ q = { renew rq s.part with dict := q.dict, mem := { s.part.mem with held := q.mem.held } } ∧
          bankStanding q b = (if held then 1 else 2) ∧ rd q 0x7046 3 = (if held then 1 else 2) ∧ rd q 0x7046 4 = 0 ∧ ∀ c, c < 256 → c ≠ b → bankStanding q c = bankStanding s.part c) ∧
      (bankCause s.part b true ≠ 0 →
        ∃ q, exec (.bankWithdraw rq) s = .next { s with part := answerOk rq 0x7046 2 [] q } ∧ onlyEntries [(0x7046, 3), (0x7046, 4)] (renew rq s.part) q ∧ rd q 0x7046 3 = 5 ∧ rd q 0x7046 4 = bankCause s.part b true)) ∧
    (live s.part → bankStanding s.part b = 1 → (∀ c, c < b → bankStanding s.part c ≠ 1) →
      (bankHolds s.part b = true → exec .bankWithdrawDone s = .next s) ∧
      (bankHolds s.part b = false → ∃ q, exec .bankWithdrawDone s = .next { s with part := q } ∧ q = { s.part with dict := q.dict } ∧ bankStanding q b = 2 ∧ rd q 0x7046 3 = 2)) ∧
    (serving s.part → quiet s.part → checkWrite s.part rq 0x7046 2 2 = .ok → rd s.part 0x7046 1 = b → bankCause s.part b false = 0 →
      ∃ q, exec (.bankReturn rq) s = .next { s with part := answerOk rq 0x7046 2 [] q } ∧ q = { renew rq s.part with dict := q.dict } ∧ bankStanding q b = 3 ∧ rd q 0x7046 3 = 1 ∧
        ∀ c, c < 256 → c ≠ b → bankStanding q c = bankStanding s.part c) ∧
    (live s.part → bankStanding s.part b = 3 → (∀ c, c < b → bankStanding s.part c ≠ 3) →
      ∃ q, exec .bankReturnDone s = .next { s with part := q } ∧ q = { s.part with dict := q.dict, mem := { s.part.mem with words := q.mem.words, fills := q.mem.fills } } ∧ bankStanding q b = 0 ∧ rd q 0x7046 3 = 2)) ∧
  (∀ (s : State) (sh : Bool) (w : Nat), w = (if sh then 1 else 0) →
    (∀ (rq : Rq) (v : Nat), accepted s.part rq 0x7030 (w + 1) v →
      ∃ q, exec (.useRegionName rq sh v) s = .next { s with part := answerOk rq 0x7030 (w + 1) [] q } ∧ journalled1 rq 0x7030 (w + 1) v s.part q ∧
        tget none q.mem.moves w = (if v = activeRegion s.part w then none else some { target := v, since := now s.part, places := freshPlaces s.part v (useLen w) }) ∧
        tget none q.mem.moves (1 - w) = tget none s.part.mem.moves (1 - w) ∧ q.mem.active = s.part.mem.active) ∧
    (∀ m p, live s.part → tget none s.part.mem.moves w = some m → s.part.clk.anyB = true → before m.since s.part.clk.lastB = true →
      (copyStands w m s.part = (true, p) →
        ∃ q, exec (.useRegionSwitch sh) s = .next { s with part := q } ∧ activeRegion q w = m.target ∧ tget none q.mem.moves w = none ∧ placesOf q w = m.places ∧
          activeRegion q (1 - w) = activeRegion s.part (1 - w)) ∧
      (copyStands w m s.part = (false, p) → exec (.useRegionSwitch sh) s = .next { s with part := p })) ∧
    (live s.part → tget none s.part.mem.moves w = none ∨ s.part.clk.anyB = false → exec (.useRegionSwitch sh) s = .next s))

/-! ### Lanes (R263 to R299) -/

/-- R270 to R275: what a lane receiver takes from the line is what the transmitter sent: with the sync pattern at its expected place, any
header of R271 and any 256 units of 21 bits come back as they were, with no stuff violation. -/
def Obligations.LineGroupsComeBack : Prop :=
  ∀ (h : GroupHeader) (us : List Nat) (before : List Bool), h.idx < 4 → h.width < 3 → h.kind < 3 → h.seq < 4096 → us.length = 256 → (∀ u ∈ us, u < 2 ^ 21) →
    before.length = 16 →
    (takeGroup 16 false (before ++ sendGroup h us)).header = some h ∧ (takeGroup 16 false (before ++ sendGroup h us)).units = us ∧
      (takeGroup 16 false (before ++ sendGroup h us)).violations = 0 ∧ findSync 33 0 (List.replicate 16 false ++ sendGroup h us) = some 16

/-- R275, R279, R282 to R284, R287, R288, R290 and R291: enabling a lane that is DOWN makes it hunt, at its highest rate or in mode 2 at rate 0, a leader sending and a
follower silent, and disabling it puts it DOWN; the fourth good group in a row makes a hunting lane FRAMED with its polarity,
index and width, or fails bring-up with cause 3 or 4 where its width or index does not fit; a READY lane keeps a good group of link words for its group set, and a framed lane loses its sync with the third bad group; a hunt that runs out, and a climb switch that does, are failures, counted with their cause, after which the lane hunts
again, and the main path does 10 ms after one in mode 1. Stated for links that list lanes of the part, each once. -/
def Obligations.LanesHuntAndFrame : Prop :=
  ∀ (s : State) (l : Fin 28) (x : Lane), lane s.part l = x → lanesListed s.part l →
    (∀ rq, accepted s.part rq (0x5000 + l) 1 1 → replacedBy s.part l = none → spareOf s.part l = none → underTest s.part l = false → ethernet s.part l = false → rd s.part (0x5000 + l) 9 = 0 →
      rxSt s.part l = 0 → (bypassOn s.part && (l.val == 0 || l.val == 16)) = false → (l.val ≠ 15 ∨ localOn s.part = false) →
      (linkOf s.part l = none ∨ linkOf s.part l = linkFor s.part l) →
      (∀ k, linkFor s.part l = some k → linkSt s.part k = 0 ∧ (bypassOn s.part = true → k ≠ 0 ∧ k ≠ 16) ∧ ∀ m ∈ lanesFor s.part k, laneSet s.part m 9 = 0) →
      ∃ q, exec (.laneEnable rq l true) s = .next { s with part := answerOk rq (0x5000 + l) 1 [] q } ∧ journalled1 rq (0x5000 + l) 1 1 s.part q ∧
        rxSt q l = 1 ∧ txSt q l = (if 16 ≤ l.val ∧ l.val < 24 then 1 else 2) ∧
        rd q (0x5020 + l) 3 = (if rd s.part (0x5000 + l) 3 = 2 then 0 else rd s.part (0x5000 + l) 2) ∧ (lane q l).since = s.part.clk.rp) ∧
    (∀ rq, accepted s.part rq (0x5000 + l) 1 0 → replacedBy s.part l = none → spareOf s.part l = none → underTest s.part l = false → ethernet s.part l = false → rxSt s.part l ≠ 6 →
      ∃ q, exec (.laneEnable rq l false) s = .next { s with part := answerOk rq (0x5000 + l) 1 [] q } ∧ journalled1 rq (0x5000 + l) 1 0 s.part q ∧
        rxSt q l = 0 ∧ txSt q l = 0 ∧ lane q l = Lane.keepSent {} x) ∧
    (live s.part →
      (∀ dt tap hb lag line g h, x.retry = none → islandStopped s.part (laneIsland l) = false → findGroup s.part l line = some g → g.header = some h → g.place = 16 →
        (rxSt s.part l = 1 → x.good ≠ 0 → h.seq = (x.seq + 1) % 4096 →
          ∃ q, exec (.groupReceived l dt tap hb lag line) s = .next { s with part := q } ∧ q.clk = s.part.clk.run dt ∧
            (x.good ≠ 3 → rxSt q l = 1 ∧ (lane q l).good = x.good + 1 ∧ (lane q l).seq = h.seq) ∧
            (x.good = 3 →
              (linkOf s.part l = none ∨ (x.trained = false ∧ x.wake = false ∧ h.width = widthCode x.cfg.width ∧ h.idx < x.cfg.width ∧
                  ∀ m ∈ sleepers s.part l, m ≠ l.val → rd s.part (0x5020 + m) 6 ≠ h.idx) →
                rxSt q l = 2 ∧ rd q (0x5020 + l) 5 = g.inverted.toNat ∧ rd q (0x5020 + l) 6 = h.idx ∧ rd q (0x5020 + l) 7 = h.width ∧ rd q (0x5040 + l) 6 = rd s.part (0x5040 + l) 6) ∧
              (linkOf s.part l ≠ none → x.trained = false → h.width ≠ widthCode x.cfg.width → rd q (0x5020 + l) 0xE = 3 ∧ rd q (0x5040 + l) 6 = satInc (rd s.part (0x5040 + l) 6)) ∧
              (linkOf s.part l ≠ none → x.trained = false → h.width = widthCode x.cfg.width → x.cfg.width ≤ h.idx → rd q (0x5020 + l) 0xE = 4 ∧ rd q (0x5040 + l) 6 = satInc (rd s.part (0x5040 + l) 6)))) ∧
        (rxSt s.part l = 3 → h.kind = 0 →
          ∃ q, exec (.groupReceived l dt tap hb lag line) s = .next { s with part := q } ∧ q.clk = s.part.clk.run dt ∧ rxSt q l = 3 ∧ (lane q l).seq = h.seq ∧ (lane q l).bad = 0 ∧
            (lane q l).groups = x.groups ++ [{ seq := h.seq, units := g.units }])) ∧
      (∀ dt tap hb lag line, x.retry = none → islandStopped s.part (laneIsland l) = false → findGroup s.part l line = none → rxSt s.part l = 2 ∨ rxSt s.part l = 3 → 2 ≤ x.bad →
        ∃ q, exec (.groupReceived l dt tap hb lag line) s = .next { s with part := q } ∧ rd q (0x5040 + l) 1 = satInc (rd s.part (0x5040 + l) 1) ∧ (x.trained = true → rxSt q l = 1)) ∧
      (rxSt s.part l = 1 → x.retry = none → (x.trained = true ∨ txSt s.part l ≠ 3) → (∀ m ∈ sleepers s.part l, laneSet s.part m 9 = 0) →
        ∃ q, exec (.huntTimeout l) s = .next { s with part := q } ∧ q.clk = s.part.clk.run (x.since + (if x.climb then 1 else 2) * msRp - s.part.clk.rp) ∧ rxSt q l = 1 ∧
          rd q (0x5040 + l) 6 = satInc (rd s.part (0x5040 + l) 6) ∧
          rd q (0x5020 + l) 0xE = (if x.climb ∨ x.prev ≠ none then 8 else if x.cfg.pol ≠ 0 ∧ x.opposite = true ∧ x.right = false then 2 else 1) ∧
          (x.prev = none → x.climb = false → x.cfg.mode = 1 → rd q (0x5020 + l) 3 = rd s.part (0x5020 + l) 3 ∧ (lane q l).retry = some q.clk.rp) ∧
          (x.prev = none → x.climb = true ∨ x.cfg.mode ≠ 1 → rd q (0x5020 + l) 3 = 0 ∧ (lane q l).climb = true ∧ (lane q l).retry = none)) ∧
      (∀ r, rxSt s.part l = 1 → x.prev = some r → txSt s.part l ≠ 3 → (∀ m ∈ sleepers s.part l, laneSet s.part m 9 = 0) →
        ∃ q, exec (.climbSwitchTimeout l) s = .next { s with part := q } ∧ q.clk = s.part.clk.run (x.since + msRp - s.part.clk.rp) ∧ rxSt q l = 1 ∧
          rd q (0x5020 + l) 3 = r ∧ rd q (0x5020 + l) 0xE = 8 ∧ rd q (0x5040 + l) 6 = satInc (rd s.part (0x5040 + l) 6) ∧ bit (lane q l).failed (r + 1) = true ∧ (lane q l).prev = none) ∧
      (x.prev = none → exec (.climbSwitchTimeout l) s = .next s) ∧ (x.retry = none → exec (.mainPathRetry l) s = .next s) ∧
      (∀ t, x.retry = some t → rxSt s.part l = 1 → (∀ m ∈ sleepers s.part l, laneSet s.part m 9 = 0) →
        ∃ q, exec (.mainPathRetry l) s = .next { s with part := q } ∧ q.clk = s.part.clk.run (t + 10 * msRp - s.part.clk.rp) ∧
          rxSt q l = 1 ∧ (lane q l).retry = none ∧ rd q (0x5020 + l) 3 = (if laneSet s.part l 3 = 2 then 0 else laneSet s.part l 2)))

/-- R269 and R286 to R289: the equaliser keeps the fixed code, or one whose eye no coarse code betters; an announcement to a leader still equalising is kept, and on a link of one lane the leader that has every
announcement on the main path, at the common highest rate and with eyes that pass, ends with done, and else fails with cause 6 or 7; a follower acknowledges a proposal, and the
leader then sends switch with a sequence 16 groups ahead; at the switch both retune to the proposed rate; a follower that has done slews to LREF, or stays
loop-timed where the hold is set; and once every lane of a follower's link has slewed, they are READY and HELLO is sent. Stated for links that list lanes of the part, each once. -/
def Obligations.TrainingStepsFollow : Prop :=
  ∀ (s : State) (l : Fin 28) (x : Lane), live s.part → lane s.part l = x → lanesListed s.part l →
    (∀ eyes, rxSt s.part l = 2 → x.eqDone = false → (x.trained = false ∨ x.joining = true) →
      ∃ q, exec (.equaliserScanDone l eyes) s = .next { s with part := q } ∧ (lane q l).eqDone = true ∧
        (x.cfg.eqMode = 1 → rd q (0x5020 + l) 8 = x.cfg.eqCode) ∧
        (x.cfg.eqMode ≠ 1 → ∀ c ∈ coarseCodes, eyeArea eyes c ≤ eyeArea eyes (rd q (0x5020 + l) 8)) ∧
        tget none q.eqAt (8 * l + rd s.part (0x5020 + l) 3) = some (rd q (0x5020 + l) 8) ∧
        (x.step ≠ 3 → q = { s.part with dict := q.dict, free := q.free, lanes := q.lanes, eqAt := q.eqAt } ∧
          lane q l = { x with eqDone := true } ∧ otherEntries [(0x5020 + l.val, 8), (0x5020 + l.val, 9), (0x5020 + l.val, 10)] s.part q)) ∧
    (∀ k ws t r, linkOf s.part l = some k → trainingFields ws = some t → trains s.part l t = true → r = rd s.part (0x5020 + l) 3 →
      (t.step = 0 → x.eqDone = false ∨ 16 ≤ k →
        exec (.trainingAnnounce l ws) s = .next { s with part := setLane l { x with far := true, farHigh := t.highest, farRates := t.rates } (farEye l t.eyeWidth t.eyeHeight s.part) }) ∧
      (t.step = 0 → (link s.part k).lanes = [l.val] → k < 16 → (link s.part k).deskewed = true → x.eqDone = true → x.step = 0 → x.climb = false →
        ∃ q ok, exec (.trainingAnnounce l ws) s = .next { s with part := q } ∧ rd q (0x5020 + l) 12 = t.eyeWidth ∧ rd q (0x5020 + l) 13 = t.eyeHeight ∧
          ok = decide (x.cfg.eyeWidth ≤ rd s.part (0x5020 + l) 9 ∧ x.cfg.eyeHeight ≤ rd s.part (0x5020 + l) 10 ∧ x.cfg.eyeWidth ≤ t.eyeWidth ∧ x.cfg.eyeHeight ≤ t.eyeHeight) ∧
          (x.cfg.hi = r → t.highest = r → ok = true →
            q = { s.part with dict := q.dict, lanes := q.lanes } ∧ lane q l = { x with far := true, farHigh := t.highest, farRates := t.rates, step := 3, proposed := r } ∧
              otherEntries [(0x5020 + l.val, 12), (0x5020 + l.val, 13)] s.part q) ∧
          (x.cfg.hi ≠ r ∨ t.highest ≠ r → rd q (0x5020 + l) 0xE = 6 ∧ rd q (0x5040 + l) 6 = satInc (rd s.part (0x5040 + l) 6)) ∧
          (x.cfg.hi = r → t.highest = r → ok = false → rd q (0x5020 + l) 0xE = 7 ∧ rd q (0x5040 + l) 6 = satInc (rd s.part (0x5040 + l) 6))) ∧
      (t.step = 1 → follower s.part l = true →
        exec (.trainingPropose l ws) s = .next { s with part := setLane l { x with step := 1, proposed := t.proposed, prev := none } s.part }) ∧
      (t.step = 1 → t.ack = true → follower s.part l = false → x.step = 1 →
        ∃ q, exec (.trainingAcknowledge l ws) s = .next { s with part := q } ∧ q = { s.part with free := s.part.free + 1, lanes := q.lanes, links := q.links } ∧
          lane q l = { x with step := 2, switchSeq := ((link q k).txSet + 16) % 4096 } ∧ (link s.part k).txSet ≤ (link q k).txSet ∧ (link q k).txSet / 1024 = (link s.part k).txSet / 1024) ∧
      (∀ n, (t.step = 2 ∧ follower s.part l = true ∧ n = t.proposed) ∨ (x.step = 2 ∧ follower s.part l = false ∧ n = x.proposed) → (∀ m ∈ (link s.part k).lanes, laneSet s.part m 9 = 0) →
        ∃ q, exec (.trainingSwitch l ws) s = .next { s with part := q } ∧
          rxSt q l = 1 ∧ rd q (0x5020 + l) 3 = n ∧ (lane q l).prev = some r ∧ (lane q l).climb = true ∧ (link q k).deskewed = false ∧ (follower s.part l = false → r ≠ n → (link q k).txSet = 0)) ∧
      (t.step = 3 → follower s.part l = true → (link s.part k).hold = false →
        exec (.trainingDone l ws) s = .next { s with part := wr (0x5020 + l) 4 2 (setLane l { x with step := 3, prev := none } s.part) }) ∧
      (t.step = 3 → follower s.part l = true ∨ (t.ack = true ∧ x.step = 3) → (link s.part k).hold = true → linkSt s.part k = 1 →
        ∃ q, exec (.trainingDone l ws) s = .next { s with part := q } ∧ linkSt q k = 2 ∧ rd q (0x5020 + l) 4 = rd s.part (0x5020 + l) 4 ∧
          lane q l = { x with step := 3, prev := none })) ∧
    (∀ k ls, rd s.part (0x5020 + l) 4 = 2 → linkOf s.part l = some k → (link s.part k).lanes = ls →
      ((∃ m ∈ ls, (lane s.part m).step ≠ 3) → exec (.slewComplete l) s = .next { s with part := wr (0x5020 + l) 4 0 s.part }) ∧
      (16 ≤ k → (link s.part k).deskewed = true → linkSt s.part k = 1 →
        (∀ m ∈ ls, rxSt s.part m = 2 ∧ (lane s.part m).step = 3 ∧ (lane s.part m).eqDone = true ∧ (lane s.part m).trained = false ∧ (m ≠ l.val → rd s.part (0x5020 + m) 4 = 0)) →
        ∃ q, exec (.slewComplete l) s = .next { s with part := q } ∧ rd q (0x5020 + l) 4 = 0 ∧ linkSt q k = 1 ∧ (link q k).helloAt = some s.part.clk.rp ∧
          (∀ m ∈ ls, rxSt q m = 3 ∧ (lane q m).trained = true ∧ rd q (0x5040 + m) 5 = satInc (rd s.part (0x5040 + m) 5)) ∧
          ((link s.part k).mgmt = [] → linkStopped s.part k = false → ∃ w, (link q k).mgmt = [w] ∧ w.length = 6))) ∧
    (rd s.part (0x5020 + l) 4 ≠ 2 → exec (.slewComplete l) s = .next s)

/-- R284, R291 to R293: a signal lost right after a sleep announcement is FAR-ASLEEP, and otherwise a sync loss that is counted; a signal that returns makes
the sleeping lane hunt with what it kept; a committed sleep request stops the transmitter, and the lane's receiver, and its clearing wakes
them where no other lane of the link asks for sleep. Stated for links that list lanes of the part, each once. -/
def Obligations.LanesSleepAndWake : Prop :=
  ∀ (s : State) (l : Fin 28) (x : Lane), lane s.part l = x → lanesListed s.part l →
    (live s.part → (rxSt s.part l = 2 ∨ rxSt s.part l = 3) →
      (∀ n, x.slp = some n → n < 4 →
        ∃ q, exec (.lossOfSignal l) s = .next { s with part := q } ∧ rxSt q l = 5 ∧ lane q l = { x with groups := [] } ∧
          (∀ k, linkOf s.part l = some k → linkSt s.part k = 3 ∨ linkSt s.part k = 4 → linkSt q k = 5)) ∧
      ((∀ n, x.slp = some n → 4 ≤ n) →
        ∃ q, exec (.lossOfSignal l) s = .next { s with part := q } ∧ rd q (0x5040 + l) 1 = satInc (rd s.part (0x5040 + l) 1) ∧ (x.trained = true → rxSt q l = 1))) ∧
    (live s.part → rxSt s.part l = 5 → x.trained = true →
      ∃ q, exec (.signalReturn l) s = .next { s with part := q } ∧ rxSt q l = 1 ∧ (lane q l).trained = true ∧ (lane q l).wake = true ∧
        (lane q l).cfg = x.cfg ∧ rd q (0x5020 + l) 3 = rd s.part (0x5020 + l) 3 ∧ ∀ k, linkOf s.part l = some k → (link q k).deskewed = false) ∧
    (live s.part → rxSt s.part l ≠ 5 → exec (.signalReturn l) s = .next s) ∧
    (∀ rq v others, serving s.part → quiet s.part → checkWrite s.part rq (0x5000 + l) 9 v = .ok → replacedBy s.part l = none → spareOf s.part l = none →
      underTest s.part l = false → ethernet s.part l = false → others = (fun b => ∀ m ∈ sleepers s.part l, m ≠ l.val → bit (laneSet s.part m 9) b = false) →
      ∃ q, exec (.laneSleepRequest rq l v) s = .next { s with part := answerOk rq (0x5000 + l) 9 [] q } ∧ rd q (0x5000 + l) 9 = v ∧
        (bit v 0 = true → txSt s.part l = 1 ∨ txSt s.part l = 2 → txSt q l = 3) ∧
        (bit v 0 = false → others 0 → txSt s.part l = 3 → x.trained = true → txSt q l = 2) ∧
        (bit v 1 = true → rxSt s.part l ≠ 0 → rxSt s.part l ≠ 6 → rxSt q l = 4) ∧
        (bit v 1 = false → others 1 → rxSt s.part l = 4 → rxSt q l = 1))

/-- R294 to R297 and R266: a sparing map that maps an uplink lane to X2 puts that lane DOWN, and X2 stands for it; engaging the bypass, by pin or by write,
bypasses D0 and A0 and their links, and releasing it takes them out of the bypass; a lock of a direction of the retimer, and its loss, are reported;
an Ethernet mode of X0 or X1 takes the lane out of the other use, and its link goes up and down. -/
def Obligations.SparesBypassAndEthernet : Prop :=
  ∀ (s : State),
    (∀ rq m, 0x10 ≤ m → m ≤ 0x17 → rd s.part 0x5070 1 = 0xFFFF → accepted s.part rq 0x5070 1 (0xFF00 + m) → underTest s.part m = false →
      ∃ q, exec (.sparingMapWrite rq (0xFF00 + m)) s = .next { s with part := answerOk rq 0x5070 1 [] q } ∧ journalled1 rq 0x5070 1 (0xFF00 + m) s.part q ∧
        rd q 0x5070 2 = rd s.part 0x5070 2 + 1 ∧ replacedBy q 0x1A = some m ∧ spareOf q m = some 0x1A ∧ rxSt q m = 0 ∧ txSt q m = 0 ∧ lane q m = Lane.keepSent {} (lane s.part m)) ∧
    (∀ rq, s.part.pow.phase = .inReset → exec (.bypassEngage true rq) s = .next { s with part := { s.part with pow := { s.part.pow with bypass := true } } }) ∧
    (∀ rq, s.part.pow.phase ≠ .inReset → rxSt s.part 0 ≠ 6 →
      ∃ q, exec (.bypassEngage true rq) s = .next { s with part := q } ∧ q.pow = { s.part.pow with bypass := true } ∧ rxSt q 0 = 6 ∧ rxSt q 16 = 6 ∧ txSt q 0 = 4 ∧ txSt q 16 = 4 ∧
        linkSt q 0 = 7 ∧ linkSt q 16 = 7 ∧ rd q 0x5078 2 = 1) ∧
    (∀ rq, accepted s.part rq 0x5078 1 1 → rxSt s.part 0 ≠ 6 →
      ∃ q, exec (.bypassEngage false rq) s = .next { s with part := answerOk rq 0x5078 1 [] q } ∧ journalled1 rq 0x5078 1 1 s.part q ∧ rxSt q 0 = 6 ∧ rxSt q 16 = 6 ∧ linkSt q 0 = 7 ∧ linkSt q 16 = 7 ∧
        rd q 0x5078 2 = (if s.part.pow.bypass then 1 else 2)) ∧
    (∀ rq, s.part.pow.phase ≠ .inReset → rxSt s.part 0 = 6 → rd s.part 0x5078 1 = 0 →
      ∃ q, exec (.bypassRelease true rq) s = .next { s with part := q } ∧ q.pow = { s.part.pow with bypass := false } ∧ rxSt q 0 ≠ 6 ∧ rxSt q 16 ≠ 6 ∧
        rd q 0x5078 2 = 0 ∧ rd q 0x5078 3 = 0 ∧ rd q 0x5078 4 = 0xFF ∧ rd q 0x5078 5 = 0xFF ∧
        (rd s.part 0x5000 1 = 0 → rd s.part 0x5010 1 = 0 → rd s.part 0x5060 1 = 1 → bit (rd s.part 0x5060 3) 0 = false → spareOf s.part 16 = none →
          rxSt q 0 = 0 ∧ rxSt q 16 = 0 ∧ linkSt q 0 = 0 ∧ linkSt q 16 = 0)) ∧
    (∀ rq, accepted s.part rq 0x5078 1 0 → s.part.pow.bypass = false → rxSt s.part 0 = 6 →
      ∃ q, exec (.bypassRelease false rq) s = .next { s with part := answerOk rq 0x5078 1 [] q } ∧ journalled1 rq 0x5078 1 0 s.part q ∧ rxSt q 0 ≠ 6 ∧ rxSt q 16 ≠ 6 ∧ rd q 0x5078 2 = 0) ∧
    (∀ (rate : Fin 5) (d : Bool), (bypassOn s.part = false → exec (.retimerLock d rate) s = .next s ∧ exec (.retimerLockLoss d) s = .next s) ∧
      (bypassOn s.part = true →
        exec (.retimerLock true rate) s = .next { s with part := wr 0x5078 5 rate.val (wr 0x5078 3 (setBit (rd s.part 0x5078 3) 1) s.part) } ∧
        exec (.retimerLock false rate) s = .next { s with part := wr 0x5078 4 rate.val (wr 0x5078 3 (setBit (rd s.part 0x5078 3) 0) s.part) } ∧
        exec (.retimerLockLoss true) s = .next { s with part := wr 0x5078 5 0xFF (wr 0x5078 3 (clrBit (rd s.part 0x5078 3) 1) s.part) } ∧
        exec (.retimerLockLoss false) s = .next { s with part := wr 0x5078 4 0xFF (wr 0x5078 3 (clrBit (rd s.part 0x5078 3) 0) s.part) })) ∧
    (∀ (x : Fin 2) rq mode, mode ≠ rd s.part 0x5080 (x + 1) → accepted s.part rq 0x5080 (x + 1) mode →
      ∃ q, exec (.ethernetModeWrite rq x mode) s = .next { s with part := answerOk rq 0x5080 (x + 1) [] q } ∧ journalled1 rq 0x5080 (x + 1) mode s.part q ∧ ethernet q (0x18 + x) = (mode != 0) ∧
        rd q 0x5080 (x + 3) = 0 ∧ (mode ≠ 0 → rxSt q (0x18 + x) = 0 ∧ lane q (0x18 + x) = Lane.keepSent {} (lane s.part (0x18 + x)))) ∧
    (∀ (x : Fin 2), live s.part →
      (ethernet s.part (0x18 + x) = true →
        exec (.ethernetLinkUp x) s = .next { s with part := wr 0x5080 (x + 3) 1 s.part } ∧ exec (.ethernetLinkDown x) s = .next { s with part := wr 0x5080 (x + 3) 0 s.part }) ∧
      (ethernet s.part (0x18 + x) = false → exec (.ethernetLinkUp x) s = .next s ∧ exec (.ethernetLinkDown x) s = .next s))

/-! ### The link protocol (R300 to R330) -/

/-- R58 and R319 to R323: a group set whose groups are all there and pass their checks is delivered and acknowledged; one with a unit that fails parity, or out of its turn, delivers nothing and is
answered by a NAK of attempt 0, or of the next attempt where it is a replay, which is repeated until the REPLAY it asks for arrives, and the eighth failure is taken as it stands and retrains the link. Stated for what the elastic buffer and the receive FIFOs of the lanes hold. R319, R321, R322 and R325: at the sender an ACK of a set that is held frees every set up to its own, and one that names a set of which nothing is held is counted in 5120h + k.06; a NAK of a set that is held asks for its replay, a repeat of it is ignored, and one of a set no longer held retrains the link; the replay, where the link may send, begins with a REPLAY and its n and is counted. -/
def Obligations.GroupSetsAreAcknowledgedOrRepeated : Prop :=
  (∀ (s : State) (k : Fin 18) (drift : Int) (unread : List Nat) (x : Link) (ls : List Nat) (gs : List RxGroup) (us : List Nat) (seq want : Nat) (r : Parsed),
    live s.part → link s.part k = x → ls = byIndex s.part k →
    ((∃ l ∈ ls, (lane s.part l).groups = []) ∨ allIn s.part k 3 = false → exec (.groupSetReceived k drift unread) s = .next s) ∧
    (allIn s.part k 3 = true → x.lanes.Nodup → ls ≠ [] → (∀ l ∈ ls, (lane s.part l).groups ≠ []) → gs = (ls.filterMap fun l => (lane s.part l).groups.head?) → us = joinLanes gs →
      (∀ g ∈ gs, g.units.length = 256) → (∀ n ∈ unread, n ≤ 256) → 0 < (x.elastic : Int) + drift → (x.elastic : Int) + drift < 64 → seq = (gs.head?.map (·.seq)).getD 0 →
      want = (x.rxSeq.map fun n => (n + 1) % 4096).getD seq → r = parseWords us (if seq % 16 = 0 then {} else x.parse) → x.nak = none →
      (r.bad = false → (∀ g ∈ gs, g.bad = false ∧ g.seq = seq) → (∀ u ∈ us, unitOk u = true) → seq = want → (x.blind = false ∨ seq % 16 = 0) →
        ∃ q, exec (.groupSetReceived k drift unread) s = .next { s with part := q } ∧ q = { s.part with dict := q.dict, fab := { s.part.fab with fifos := q.fab.fifos }, lanes := q.lanes, links := q.links } ∧
          (∀ l ∈ ls, (lane q l).groups = (lane s.part l).groups.tail) ∧ (link q k).rxSeq = some seq ∧ (link q k).nak = none ∧ (link q k).delivered = (tagWords r.words x.redoLeft).1 ∧
          (link q k).ctl = (if (link q k).delivered = [] then x.ctl else x.ctl ++ [[0xF0000 + seq % 4096]])) ∧
      ((∃ u ∈ us, unitOk u = false) ∨ seq ≠ want →
        (x.redo = none →
          ∃ q, exec (.groupSetReceived k drift unread) s = .next { s with part := q } ∧ (∀ l ∈ ls, (lane q l).groups = (lane s.part l).groups.tail) ∧
            (link q k).delivered = [] ∧ (link q k).nak = some (want, 0) ∧ (link q k).ctl = x.ctl ++ [[0xF8000 + want % 4096]] ∧ rd q (0x5120 + k) 1 = satInc (rd s.part (0x5120 + k) 1)) ∧
        (∀ g a, x.redo = some (g, a) → a < 6 →
          ∃ q, exec (.groupSetReceived k drift unread) s = .next { s with part := q } ∧ (link q k).delivered = [] ∧ (link q k).nak = some (g, a + 1) ∧
            (link q k).ctl = x.ctl ++ [[nakWord (a + 1) g]] ∧ rd q (0x5120 + k) 1 = satInc (rd s.part (0x5120 + k) 1)) ∧
        (∀ g, x.redo = some (g, 6) → linkSt s.part k = 3 →
          ∃ q, exec (.groupSetReceived k drift unread) s = .next { s with part := q } ∧ linkSt q k = 1 ∧ rd q (0x5100 + k) 5 = 1 ∧ rd q (0x5120 + k) 5 = satInc (rd s.part (0x5120 + k) 5) ∧
            (link q k).sent = fw (ackWord g) :: List.replicate 4 (fw 0xF2001)))) ∧
    (∀ g a, x.nak = some (g, a) → exec (.nakRepeat k) s = .next { s with part := setLink k { x with ctl := x.ctl ++ [[nakWord a g]] } s.part }) ∧ (x.nak = none → exec (.nakRepeat k) s = .next s) ∧
    (∀ g a n, (x.nak ≠ some (g % 4096, a) → exec (.replayReceived k a g n) s = .next s) ∧
      (x.nak = some (g % 4096, a) → n % 2048 ≠ 0 →
        exec (.replayReceived k a g n) s = .next { s with part := setLink k { x with nak := none, redo := some (g % 4096, a), redoLeft := n % 2048, parse := {}, blind := false } s.part }) ∧
      (x.nak = some (g % 4096, a) → n % 2048 = 0 →
        exec (.replayReceived k a g n) s = .next { s with part := bump (0x5120 + k) 3 (setLink k { x with nak := none, redo := none, redoLeft := 0, parse := {}, blind := false } s.part) }))) ∧
  (∀ (s : State) (k : Fin 18) (x : Link), live s.part → link s.part k = x →
    (∀ seq c, seq < 4096 → c = counterOf x seq → x.replayed.map (·.1) ≠ some seq →
      (setHeld x c seq = true → (∃ h ∈ x.held, h.set = c) →
        ∃ q, exec (.ackReceived k seq) s = .next { s with part := q } ∧ q = { s.part with dict := q.dict, mem := { s.part.mem with cells := q.mem.cells }, links := q.links } ∧
          (link q k).acked = some c ∧ (link q k).held = x.held.filter (fun h => decide (c < h.set)) ∧ (∀ j, j ≠ k.val → link q j = link s.part j) ∧
          rd q (0x5100 + k) 6 = heldWords (link q k) ∧ otherThanCells [(0x5100 + k.val, 6)] s.part q) ∧
      (setHeld x c seq = false ∨ (∀ h ∈ x.held, h.set ≠ c) → exec (.ackReceived k seq) s = .next { s with part := bump (0x5120 + k) 6 s.part })) ∧
    (∀ (a : Fin 7) seq, seq < 4096 →
      (x.replayed = some (seq, a.val) ∨ x.replay = some (seq, a.val) → exec (.nakReceived k a seq) s = .next s) ∧
      (x.replayed ≠ some (seq, a.val) → x.replay ≠ some (seq, a.val) → setHeld x (counterOf x seq) seq = true ∨ x.replayed.map (·.1) = some seq →
        exec (.nakReceived k a seq) s = .next { s with part := setLink k { x with replay := some (seq, a.val) } s.part }) ∧
      (x.replayed.map (·.1) ≠ some seq → x.replay ≠ some (seq, a.val) → setHeld x (counterOf x seq) seq = false → linkSt s.part k = 3 →
        ∃ q, exec (.nakReceived k a seq) s = .next { s with part := q } ∧ linkSt q k = 1 ∧ rd q (0x5100 + k) 5 = 2)) ∧
    (x.replay = none ∨ maySend s.part k = false → exec (.replaySend k) s = .next s) ∧
    (∀ g a n, x.replay = some (g, a) → maySend s.part k = true → x.replayed.map (·.1) ≠ some g → n = (x.held.filter fun h => h.set == counterOf x g).foldl (fun b h => b + h.words.length) 0 →
      ∃ q before after, exec (.replaySend k) s = .next { s with part := q } ∧ q = { s.part with dict := q.dict, links := q.links } ∧ (link q k).replay = none ∧ (link q k).replayed = some (g, a) ∧
        (link q k).sent = before ++ [fw (0xF1000 + g), fw (a * 2 ^ 17 + n)] ++ after ∧ (before = [] ∨ before = [fw 0]) ∧
        rd q (0x5120 + k) 2 = satInc (rd s.part (0x5120 + k) 2) ∧ otherEntries [(0x5120 + k.val, 2), (0x5100 + k.val, 6)] s.part q))

/-- R325, R326 and R328: a link retrains on a RETRAIN received, on a request, 1 ms after sequenced words without an ACK, 1 ms after a NAK without its REPLAY,
and when a lane is out of READY for more than 100 µs: the retrain is counted with its cause, RETRAIN is sent in four group
sets, and a link in SERVICE goes to TRAIN. 100 ms later without SERVICE it is ISOLATED with cause 3, and a follower whose HELLO is not answered in
10 ms is ISOLATED with cause 5. None of this happens where its condition does not hold. -/
def Obligations.LinksRetrain : Prop :=
  ∀ (s : State) (k : Fin 18) (x : Link) (st : Nat), live s.part → link s.part k = x → linkSt s.part k = st →
    (∀ (c : Instr) (cause : Nat), 1 ≤ st → st ≤ 6 →
      ((c = .retrainReceived k ∧ cause = 6) ∨ (c = .ackTimeout k ∧ cause = 3 ∧ x.held ≠ []) ∨ (c = .replayTimeout k ∧ cause = 4 ∧ x.nak ≠ none) ∨
        (c = .laneNotReadyTimeout k ∧ cause = 5 ∧ x.notReady ≠ none ∧ (st = 1 ∨ st = 3 ∨ st = 6))) →
      ∃ q, exec c s = .next { s with part := q } ∧ linkSt q k = (if st = 6 then 6 else 1) ∧ rd q (0x5100 + k) 5 = cause ∧ rd q (0x5120 + k) 5 = satInc (rd s.part (0x5120 + k) 5) ∧
        (link q k).sent = List.replicate 4 (fw (0xF2000 + cause)) ∧ (link q k).retrainAt = some q.clk.rp ∧ (link q k).held = [] ∧
        ((∀ l ∈ x.lanes, linkOf s.part l = some k.val) → (link q k).lanes = freeLanes s.part k) ∧
        q.svc.lastRetrain = some q.clk.rp ∧ s.part.clk.rp ≤ q.clk.rp ∧ q.front = s.part.front ∧ q.cal = s.part.cal) ∧
    (st = 0 ∨ st = 7 → exec (.retrainReceived k) s = .next s) ∧ (x.held = [] → exec (.ackTimeout k) s = .next s) ∧ (x.nak = none → exec (.replayTimeout k) s = .next s) ∧
    (x.notReady = none → exec (.laneNotReadyTimeout k) s = .next s) ∧
    (∀ rq, serving s.part → quiet s.part → checkWrite s.part rq (0x5100 + k) 4 1 = .ok → 1 ≤ st → st ≤ 6 →
      ∃ q, exec (.retrainRequest rq k) s = .next { s with part := answerOk rq (0x5100 + k) 4 [] q } ∧ linkSt q k = (if st = 6 then 6 else 1) ∧ rd q (0x5100 + k) 5 = 7 ∧
        rd q (0x5120 + k) 5 = satInc (rd s.part (0x5120 + k) 5) ∧ (link q k).sent = List.replicate 4 (fw 0xF2007)) ∧
    (x.retrainAt = none ∨ st ≠ 1 → exec (.trainTimeout k) s = .next s) ∧
    (∀ t, x.retrainAt = some t → st = 1 →
      ∃ q, exec (.trainTimeout k) s = .next { s with part := q } ∧ q = { s.part with clk := s.part.clk.run (t + 100 * msRp - s.part.clk.rp), dict := q.dict, links := q.links, tim := q.tim } ∧
        linkSt q k = 6 ∧ isoCause q k = 3 ∧ (link q k).retrainAt = none ∧ otherEntries [(0x5100 + k.val, 1), (0x5100 + k.val, 2), (0x6010, 6)] s.part q) ∧
    (x.helloAt = none ∨ st ≠ 1 ∨ k.val < 16 → exec (.handshakeTimeout k) s = .next s) ∧
    (∀ t, x.helloAt = some t → st = 1 → 16 ≤ k.val → allIn s.part k 3 = true →
      ∃ q, exec (.handshakeTimeout k) s = .next { s with part := q } ∧ q = { s.part with clk := s.part.clk.run (t + 10 * msRp - s.part.clk.rp), dict := q.dict, tim := q.tim } ∧ linkSt q k = 6 ∧ isoCause q k = 5 ∧
        otherEntries [(0x5100 + k.val, 1), (0x5100 + k.val, 2), (0x6010, 6)] s.part q)

/-- R300, R306, R308, R309, R313, R315, R316 and R319: a link that may send takes its first credit return after entry to SERVICE before everything else, then link control, then a trigger command, then on an uplink a trigger request, which it holds for replay; with nothing to send, and
where a packet would leave 4,096 link words without one, it sends FILL; one that may not send sends nothing. R272, R307, R312 and R345: a marker group that the lanes of a link send carries its counter and the eyes of their receivers, is stamped on the first lane, and a probe follows it where the link carries time; a stamp for which the queue has no place is an overrun of island I2; a lane in no link sends its own. A credit return updates the
grants of the views it names, and one that goes back beyond 2^31, or names no view, is a defect, and one from below is not allowed; a port in SERVICE queues a return of the grants of all four views. -/
def Obligations.SendersTakeTheFirstReady : Prop :=
  (∀ (s : State) (k : Fin 18) (x : Link) (room st : Nat) (first : Bool), live s.part → link s.part k = x → room = roomInSet x → linkSt s.part k = st → first = (st == 3 && x.firstRet) →
    (maySend s.part k = false → exec (.packetSelect k) s = .next s) ∧
    (∀ w, maySend s.part k = true → first = true → x.ret = some w → w.length < room → fillDue x w.length = false →
      ∃ q, exec (.packetSelect k) s = .next { s with part := q } ∧ q = { s.part with links := q.links } ∧ (∀ j, j ≠ k.val → link q j = link s.part j) ∧
        link q k = { x with ret := none, firstRet := false, txPos := x.txPos + w.length, sent := w.map fw, sinceFill := x.sinceFill + w.length }) ∧
    (∀ w r, maySend s.part k = true → first = false → x.ctl = w :: r → w.length < room → fillDue x w.length = false →
      ∃ q, exec (.packetSelect k) s = .next { s with part := q } ∧ q = { s.part with links := q.links } ∧ (∀ j, j ≠ k.val → link q j = link s.part j) ∧
        link q k = { x with ctl := r, txPos := x.txPos + w.length, sent := w.map fw, sinceFill := x.sinceFill + w.length }) ∧
    (∀ c r, maySend s.part k = true → st = 3 → first = false → x.ctl = [] → x.cmds = c :: r → x.replay = none → 8 < room → heldWords x + 8 ≤ 4096 → fillDue x 8 = false →
      ∃ q, exec (.packetSelect k) s = .next { s with part := q } ∧ q = { s.part with dict := q.dict, links := q.links } ∧ (link q k).cmds = r ∧ (link q k).sent = c.words.map fw ∧
        (link q k).held = x.held ++ [{ set := x.txSet, words := c.words.map fw, size := c.words.length }] ∧ rd q (0x5100 + k) 6 = heldWords x + 8 ∧ otherEntries [(0x5100 + k.val, 6)] s.part q) ∧
    (∀ c r, maySend s.part k = true → st = 3 → 16 ≤ k.val → first = false → x.ctl = [] → x.cmds = [] → x.reqs = c :: r → x.replay = none → 6 < room → heldWords x + 6 ≤ 4096 → fillDue x 6 = false →
      ∃ q, exec (.packetSelect k) s = .next { s with part := q } ∧ q = { s.part with dict := q.dict, links := q.links } ∧ (link q k).reqs = r ∧ (link q k).sent = c.words.map fw ∧
        (link q k).held = x.held ++ [{ set := x.txSet, words := c.words.map fw, size := c.words.length }] ∧ rd q (0x5100 + k) 6 = heldWords x + 6 ∧ otherEntries [(0x5100 + k.val, 6)] s.part q) ∧
    (maySend s.part k = true → 1 < room → (x.ctl = [] ∧ st = 1 ∧ x.mgmt = []) ∨ (∃ w r, first = false ∧ x.ctl = w :: r ∧ w.length < room ∧ fillDue x w.length = true) →
      ∃ q, exec (.packetSelect k) s = .next { s with part := q } ∧ q = { s.part with links := q.links } ∧ (∀ j, j ≠ k.val → link q j = link s.part j) ∧
        link q k = { x with txPos := x.txPos + 1, sent := [fw 0], sinceFill := 0 })) ∧
  (∀ (s : State), live s.part →
    (∀ (l : Fin 28) (k l0 : Nat) (r : List Nat) (dt ctr : Nat) (tap : Fin 64) (hb : Bool) (x : Link), linkOf s.part l = some k → link s.part k = x → x.lanes = l0 :: r → linkStopped s.part k = false → txSt s.part l0 = 2 →
      islandStopped s.part 2 = false → ctr % 1024 = 0 → x.txSet < ctr → ctr < 2 ^ 60 →
      ∃ t q, exec (.markerGroupSent l dt ctr tap hb) s = .next { s with part := q } ∧ q = { s.part with clk := s.part.clk.run dt, dict := q.dict, lanes := q.lanes, links := q.links } ∧
        t = quadStamp (advance dt s.part) l0 tap hb ∧ (link q k).txSet = ctr ∧ (link q k).txPos = 0 ∧ (∀ m ∈ x.lanes, (lane q m).marker = toWords 3 ctr ++ [eyeReport s.part m]) ∧
        (carriesTime s.part k = true → x.probes.length < 8 → (link q k).txMarks = ((ctr, t) :: x.txMarks).take 16 ∧ (link q k).probes = x.probes ++ [probeWords x ctr t] ∧ q.dict = s.part.dict) ∧
        (carriesTime s.part k = false → (link q k).txMarks = ((ctr, t) :: x.txMarks).take 16 ∧ (link q k).probes = x.probes ∧ q.dict = s.part.dict) ∧
        (carriesTime s.part k = true → 8 ≤ x.probes.length → (link q k).txMarks = x.txMarks ∧ (link q k).probes = x.probes ∧ rd q 0x1211 3 = satInc (rd s.part 0x1211 3))) ∧
    (∀ (l : Fin 28) (dt ctr : Nat) (tap : Fin 64) (hb : Bool), linkOf s.part l = none → islandStopped s.part (laneIsland l) = false → txSt s.part l = 2 → ctr % 1024 = 0 → (lane s.part l).txCtr ≤ ctr → ctr < 2 ^ 60 →
      ∃ q, exec (.markerGroupSent l dt ctr tap hb) s = .next { s with part := q } ∧ q = { s.part with clk := s.part.clk.run dt, lanes := q.lanes } ∧
        lane q l = { lane s.part l with txCtr := ctr, marker := toWords 3 ctr ++ [eyeReport s.part l] }) ∧
    (∀ (k : Fin 18) mask gs, k.val < 16 ∨ inService s.part k = false → exec (.creditReturnReceived k mask gs) s = .next { s with part := bump (0x5120 + k) 9 s.part }) ∧
    (∀ (k : Fin 18) v g, 16 ≤ k.val → inService s.part k = true → v < 4 → g < 2 ^ 32 →
      (∀ gs, exec (.creditReturnReceived k 0 gs) s = .next { s with part := bump (0x5120 + k) 6 s.part }) ∧
      (subMod 32 g (credit s.part k v).charged < 2 ^ 31 →
        ∃ q, exec (.creditReturnReceived k (2 ^ v) [g]) s = .next { s with part := q } ∧ q = { s.part with dict := q.dict, bld := { s.part.bld with credits := q.bld.credits } } ∧
          credit q k v = { credit s.part k v with grant := g } ∧ (∀ w, w ≠ v → credit q k w = credit s.part k w) ∧ rd q (0x5100 + k) (9 + v) = subMod 32 g (credit s.part k v).charged ∧
          otherEntries [(0x5100 + k.val, 9), (0x5100 + k.val, 10), (0x5100 + k.val, 11), (0x5100 + k.val, 12)] s.part q) ∧
      (2 ^ 31 ≤ subMod 32 g (credit s.part k v).charged →
        exec (.creditReturnReceived k (2 ^ v) [g]) s = .next { s with part := bump (0x5120 + k) 6 s.part })) ∧
    (∀ (j : Fin 16), (inService s.part j = true → s.part.pow.role = .bough →
        exec (.creditReturnSend j) s = .next { s with part := setLink j { link s.part j with ret := some (0x4F000 :: (List.range 4).flatMap fun v => toWords 2 (credit s.part j v).grant) } s.part }) ∧
      (inService s.part j = false ∨ s.part.pow.role = .leaf → exec (.creditReturnSend j) s = .next s)))

/-- R25 to R27, R306, R311, R326, R327, R329 and R330: a Bough with an address answers a good HELLO with the address of the position its port has, refuses one that does not come from an uplink with cause 4, and enters SERVICE when the child does, with its first packet a credit return;
the child takes the address and enters SERVICE, or is ISOLATED with cause 4 where a host assigns to a part that is not root; a refusal and an isolation put a follower in ISOLATED, from which it says HELLO again; and a hold that is cleared lets a loop-timed link train on. -/
def Obligations.HandshakeReachesService : Prop :=
  ∀ (s : State),
    (live s.part → s.part.pow.role = .bough → ∀ (k : Fin 16), allIn s.part k 3 = true → linkSt s.part k = 1 →
      (∀ ws h, helloOf ws = some h → (k.val ≠ 15 ∨ localOn s.part = false) → isolated s.part (portOf s.part k) = false → rd s.part 0x1100 3 ≠ 0 → (∀ j, j < 16 → j ≠ k.val → (link s.part j).pos = none) →
        ((h.side = 1 ∨ h.side = 2) → rd s.part 0x1100 2 < 4 → h.live = false → (link s.part k).mgmt = [] → linkStopped s.part k = false →
          ∃ q w, exec (.helloReceived k ws) s = .next { s with part := q } ∧ q = { s.part with dict := q.dict, links := q.links } ∧ rd q (0x5100 + k) 7 = h.serial ∧ rd q (0x5100 + k) 8 = h.side ∧
            (link q k).pos = some (h.ov.getD k.val) ∧ (link q k).mgmt = [[w, 2 * 2 ^ 16 + (childAddr s.part (h.ov.getD k.val)).2 * 2 ^ 12, (childAddr s.part (h.ov.getD k.val)).1]] ∧
            otherEntries [(0x5100 + k.val, 7), (0x5100 + k.val, 8)] s.part q) ∧
        ((h.side = 0 ∨ h.side = 3) →
          ∃ q, exec (.helloReceived k ws) s = .next { s with part := q } ∧ linkSt q k = 6 ∧ isoCause q k = 2 ∧ rd q 0x1100 0xA = 4 ∧ rd q 0x1100 9 = satInc (rd s.part 0x1100 9))) ∧
      ((link s.part k).pos = none → exec (.serviceReceived k) s = .next s) ∧
      (∀ pos, (link s.part k).pos = some pos →
        ∃ q, exec (.serviceReceived k) s = .next { s with part := q } ∧ linkSt q k = 3 ∧ (link q k).ret ≠ none ∧ (link q k).firstRet = true ∧ (link q k).helloAt = none ∧
          (∀ v, v < 4 → (credit q k v).charged = 0) ∧ q.front = s.part.front ∧ q.mem = s.part.mem)) ∧
    (live s.part → ∀ (k : Fin 18), 16 ≤ k.val →
      (∀ (port : Fin 16) tier addr w, linkSt s.part k = 1 → tier ≤ 7 → addr < 2 ^ 20 → (link s.part k).mgmt = [] → linkStopped s.part k = false → w = 5 * 2 ^ 16 + 2 ^ 13 + 1 →
        ∃ q, exec (.assignReceived k port [2 * 2 ^ 16 + tier * 2 ^ 12, addr]) s = .next { s with part := q } ∧ linkSt q k = 3 ∧ rd q 0x1100 1 = addr ∧ rd q 0x1100 2 = tier ∧
          rd q 0x1100 3 = (if s.part.pow.override < 16 then 2 else 1) ∧ rd q 0x1100 (k - 9) = port ∧ (link q k).mgmt = [[w, 0x40000]]) ∧
      (∀ (port : Fin 16) n, linkSt s.part k = 1 ∨ linkSt s.part k = 3 → s.part.pow.root = false →
        ∃ q, exec (.assignReceived k port [2 * 2 ^ 16 + 2 ^ 15, n]) s = .next { s with part := q } ∧ linkSt q k = 6 ∧ isoCause q k = 4) ∧
      (linkSt s.part k = 1 ∨ linkSt s.part k = 3 →
        (∃ q, exec (.refuseReceived k) s = .next { s with part := q } ∧ linkSt q k = 6 ∧ isoCause q k = 2 ∧
          (linkSt s.part k = 1 → q = { s.part with dict := q.dict, tim := q.tim } ∧ otherEntries [(0x5100 + k.val, 1), (0x5100 + k.val, 2), (0x6010, 6)] s.part q)) ∧
        (∃ q, exec (.isolateReceived k true) s = .next { s with part := q } ∧ linkSt q k = 6 ∧ isoCause q k = 1 ∧
          (linkSt s.part k = 1 → q = { s.part with dict := q.dict, tim := q.tim } ∧ otherEntries [(0x5100 + k.val, 1), (0x5100 + k.val, 2), (0x6010, 6)] s.part q))) ∧
      (linkSt s.part k ≠ 1 → linkSt s.part k ≠ 3 → exec (.refuseReceived k) s = .next s ∧ exec (.isolateReceived k true) s = .next s) ∧
      (linkSt s.part k = 6 → isoCause s.part k = 1 → allIn s.part k 3 = true →
        ∃ q, exec (.isolateReceived k false) s = .next { s with part := q } ∧ linkSt q k = 1 ∧ (link q k).helloAt = some s.part.clk.rp) ∧
      (linkSt s.part k = 6 → (isoCause s.part k = 2 ∨ isoCause s.part k = 4 ∨ isoCause s.part k = 5) → allIn s.part k 3 = true → (link s.part k).mgmt = [] → linkStopped s.part k = false →
        ∃ q w, exec (.helloRepeat k) s = .next { s with part := q } ∧ q = { s.part with clk := q.clk, dict := q.dict, links := q.links, tim := q.tim } ∧ linkSt q k = 1 ∧ (link q k).mgmt = [w] ∧ w.length = 6 ∧ (link q k).helloAt = some q.clk.rp) ∧
      (linkSt s.part k = 1 → allIn s.part k 3 = true → (link s.part k).mgmt = [] → linkStopped s.part k = false →
        ∃ q w, exec (.helloRepeat k) s = .next { s with part := q } ∧ q = { s.part with links := q.links } ∧ (link q k).mgmt = [w] ∧ w.length = 6)) ∧
    (∀ (k : Fin 18) rq, serving s.part → quiet s.part → checkWrite s.part rq (0x5100 + k) 3 0 = .ok →
      ∃ q, exec (.holdLooptimedClear rq k) s = .next { s with part := answerOk rq (0x5100 + k) 3 [] q } ∧ rd q (0x5100 + k) 3 = 0 ∧ linkSt q k = (if linkSt s.part k = 2 then 1 else linkSt s.part k) ∧ (link q k).hold = false ∧
        (∀ l ∈ (link s.part k).lanes, 16 ≤ k.val → l < 28 → rxSt s.part l = 2 → (lane s.part l).step = 3 → rd s.part (0x5020 + l) 4 = 1 → rd q (0x5020 + l) 4 = 2))

/-! ### System time (R331 to R361) -/

/-- R333, R335 to R338, R340, R341 and R347: a measurement θ within its bounds moves the rate word by the proportional and integral rule over the ring periods since the last one, within its limits,
and the eighth in a row within the lock threshold locks the servo, which one beyond the unlock threshold unlocks; a lead beyond the step threshold slews at the limit; a lag beyond the step threshold steps the counter forward at the
next coarse cycle; in HOLDOVER a measurement is reported, and the servo leaves for ACQUIRE once the ring is locked to REF and the
source usable; in FREE it is dropped; another source starts in ACQUIRE, and source 0 is FREE; a forced acquisition waits for the next measurement, which steps the counter either way; and 20 ms without a
paired probe are a holdover at a part with a parent. -/
def Obligations.ServoFollowsMeasurements : Prop :=
  ∀ (s : State) (st : Nat), live s.part → servoState s.part = st →
    (s.part.tim.meas = [] → exec .servoUpdate s = .next s) ∧
    (∀ th t, s.part.tim.meas = th :: t → (st = 1 ∨ st = 2) → rd s.part 0x6040 2 ≠ 1 → s.part.tim.switchRate = none → s.part.tim.reacq = false → th.natAbs < 2 ^ 31 →
      (∀ ts x i a, ts = s.part.clk.rp - s.part.tim.last → 0 < ts → th.natAbs ≤ 256 * rd s.part 0x6000 9 →
        x = th * 2 ^ 24 / ts → i = freqEst s.part + asr x (rd s.part 0x6000 6) → a = -(asr x (rd s.part 0x6000 5) + clampTo 109951162 i) →
        ∃ q, exec .servoUpdate s = .next { s with part := q } ∧ q.tim.meas = t ∧ q.tim.last = s.part.clk.rp ∧ q.clk = { s.part.clk with rate := clampTo 109951162 a } ∧ rd q 0x6000 2 = ofI32 (clampTo 109951162 a) ∧
          rd q 0x6000 0xB = ofI32 (clampTo 109951162 i) ∧ rd q 0x6000 0xA = ofI32 th ∧ rd q 0x6001 1 = satInc (rd s.part 0x6001 1) ∧
          rd q 0x6001 3 = (if 109951162 < i.natAbs ∨ 109951162 < a.natAbs then satInc (rd s.part 0x6001 3) else rd s.part 0x6001 3) ∧
          rd q 0x6001 4 = (if st = 2 ∧ 256 * rd s.part 0x6000 8 < th.natAbs then satInc (rd s.part 0x6001 4) else rd s.part 0x6001 4) ∧
          (st = 2 → servoState q = (if 256 * rd s.part 0x6000 8 < th.natAbs then 1 else 2)) ∧ (st = 1 → servoState q = (if th.natAbs ≤ 256 * rd s.part 0x6000 7 ∧ 7 ≤ s.part.tim.run then 2 else 1)) ∧
          (st = 1 → servoState q = 1 → q.tim.run = (if th.natAbs ≤ 256 * rd s.part 0x6000 7 then s.part.tim.run + 1 else 0)) ∧
          otherEntries [(0x6000, 2), (0x6000, 3), (0x6000, 10), (0x6000, 11), (0x6001, 1), (0x6001, 3), (0x6001, 4)] s.part q) ∧
      (256 * (rd s.part 0x6000 9 : Int) < th →
        ∃ q, exec .servoUpdate s = .next { s with part := q } ∧ q.tim.meas = t ∧ q.clk = { s.part.clk with rate := -109951162 } ∧ rd q 0x6000 2 = ofI32 (-109951162) ∧
          rd q 0x6000 0xA = ofI32 th ∧ otherEntries [(0x6000, 2), (0x6000, 3), (0x6000, 10), (0x6001, 4)] s.part q) ∧
      (th < -(256 * (rd s.part 0x6000 9 : Int)) →
        ∃ q, exec .servoUpdate s = .next { s with part := q } ∧ q.clk.fx = ((s.part.clk.run (8 - s.part.clk.rp % 8)).fx + (roundDiv (-th) 256).toNat * 2 ^ 32) % 2 ^ 112 ∧ q.clk.rp = s.part.clk.rp + (8 - s.part.clk.rp % 8) ∧
          q.clk.steps.head? = some (now (advance (8 - s.part.clk.rp % 8) s.part), ((roundDiv (-th) 256).toNat : Int), 1) ∧ rd q 0x6001 2 = satInc (rd s.part 0x6001 2) ∧ servoState q = 1)) ∧
    (∀ th t, s.part.tim.meas = th :: t → (st = 1 ∨ st = 2) → rd s.part 0x6040 2 ≠ 1 → s.part.tim.reacq = true → 0 < roundDiv th 256 → roundDiv th 256 ≤ now (advance (8 - s.part.clk.rp % 8) s.part) →
      ∃ q, exec .servoUpdate s = .next { s with part := q } ∧ q.tim.reacq = false ∧ q.clk.fx = (((s.part.clk.run (8 - s.part.clk.rp % 8)).fx : Int) - roundDiv th 256 * 2 ^ 32).toNat % 2 ^ 112 ∧
        q.clk.steps.head? = some (now (advance (8 - s.part.clk.rp % 8) s.part), -roundDiv th 256, 2) ∧ rd q 0x6001 2 = satInc (rd s.part 0x6001 2) ∧ servoState q = 1) ∧
    (∀ (th : Int) t, s.part.tim.meas = th :: t →
      (th.natAbs < 2 ^ 31 → st = 3 →
        ∃ q, exec .servoUpdate s = .next { s with part := q } ∧ q.clk = s.part.clk ∧ q.tim.meas = t ∧ rd q 0x6000 0xA = ofI32 th ∧
          servoState q = (if ringLocked s.part = true ∧ sourceUsable s.part = true then 1 else 3) ∧ otherEntries [(0x6000, 3), (0x6000, 10)] s.part q) ∧
      (st = 0 → exec .servoUpdate s = .next { s with part := { s.part with tim := { s.part.tim with meas := t } } })) ∧
    (∀ rq v, accepted s.part rq 0x6000 4 v →
      ∃ q, exec (.timeSourceWrite rq v) s = .next { s with part := answerOk rq 0x6000 4 [] q } ∧ journalled1 rq 0x6000 4 v s.part q ∧
        servoState q = (if v = rd s.part 0x6000 4 ∧ st ≠ 0 then st else if v = 0 then 0 else 1) ∧ (v ≠ rd s.part 0x6000 4 → q.tim.meas = []) ∧ (st = 0 → rd q 0x6000 0xB = 0)) ∧
    (∀ rq, serving s.part → quiet s.part → checkWrite s.part rq 0x6000 0xC 1 = .ok →
      ∃ q, exec (.reacquireRequest rq) s = .next { s with part := answerOk rq 0x6000 0xC [] q } ∧ servoState q = 1 ∧ q.tim.reacq = true ∧ rd q 0x6000 0xB = 0 ∧ q.clk = s.part.clk ∧ otherEntries [(0x6000, 3), (0x6000, 11)] s.part q) ∧
    (s.part.tim.lastPaired = none ∨ rd s.part 0x6000 4 ≠ 1 ∨ rd s.part 0x1100 2 = 0 → exec .probeSourceLost s = .next s) ∧
    (∀ r, s.part.tim.lastPaired = some r → rd s.part 0x6000 4 = 1 → rd s.part 0x1100 2 ≠ 0 →
      ∃ q, exec .probeSourceLost s = .next { s with part := q } ∧ q.tim.lost = true ∧ q.tim.lastPaired = none ∧ q.clk.rp = max s.part.clk.rp (r + 20 * msRp) ∧
        (st = 1 ∨ st = 2 → servoState q = 3 ∧ q.clk.rate = freqEst s.part ∧ rd q 0x6001 5 = satInc (rd s.part 0x6001 5) ∧ otherEntries [(0x6000, 2), (0x6000, 3), (0x6001, 5)] s.part q) ∧
        (st = 0 ∨ st = 3 → q.dict = s.part.dict))

/-- R300, R304, R344 to R346, R349, R350 and R361: a probe whose stamps the child has is added to the average of the link in use and counted, and 2^m of them are a measurement unless their delay has jumped; one it cannot pair is counted and no more, and one that the link's state does not allow, or that is poisoned, is discarded and counted; the first
PPS edge after a second number is written marks that second, an edge within its window marks its own, and with source 2 either is a measurement; an edge that is not within its window is
counted as stray; and two expected times without a good edge are a loss, and with source 2 a holdover. -/
def Obligations.ProbesAndPpsMeasure : Prop :=
  ∀ (s : State), live s.part →
    (∀ (k : Fin 18) pois ws, carriesTime s.part k = false → exec (.timeProbeReceived k pois ws) s = .next { s with part := bump (0x5120 + k) 9 s.part }) ∧
    (∀ (k : Fin 18) ws, carriesTime s.part k = true →
      exec (.timeProbeReceived k true ws) s = .next { s with part := bump (0x5120 + k) 6 s.part } ∧ (k.val < 16 ∨ rd s.part 0x6000 4 ≠ 1 → exec (.timeProbeReceived k false ws) s = .next s)) ∧
    (∀ (k : Fin 18) ws r1 r3, 16 ≤ k.val → carriesTime s.part k = true → rd s.part 0x6000 4 = 1 →
      r1 = ((link s.part k).rxMarks.find? fun m => m.1 == ofWords ((ws.drop 1).take 3)) → r3 = ((link s.part k).txMarks.find? fun m => m.1 == ofWords ((ws.drop 8).take 3)) →
      (r1 = none ∨ r3 = none ∨ rd s.part 0x6010 6 ≠ k.val ∨ ofWords ((ws.drop 8).take 3) = 2 ^ 60 - 1 → exec (.timeProbeReceived k false ws) s = .next { s with part := bump 0x6010 9 s.part }) ∧
      (∀ t2 t3 l r m a b n, r1.map (·.2) = some t2 → r3.map (·.2) = some t3 → rd s.part 0x6010 6 = k.val → ofWords ((ws.drop 8).take 3) ≠ 2 ^ 60 - 1 → l = (link s.part k).lanes.headD 16 →
        r = probeOffset (ofWords ((ws.drop 4).take 4)) t2 t3 (ofWords ((ws.drop 11).take 4)) (asymmetry (rd s.part (0x5020 + l) 3) l) (s20 (rd s.part 0x6010 (k - 13))) →
        m = (if s.part.tim.avgN = 0 then rd s.part 0x6010 2 else s.part.tim.avgM) → n = 2 ^ m → a = s.part.tim.avgTh + r.1 → b = s.part.tim.avgD + r.2 →
        ∃ q, exec (.timeProbeReceived k false ws) s = .next { s with part := q } ∧ q = { s.part with dict := q.dict, tim := q.tim } ∧ rd q 0x6010 8 = satInc (rd s.part 0x6010 8) ∧ q.tim.lastPaired = some s.part.clk.rp ∧
          otherEntries [(0x6010, 7), (0x6010, 8), (0x6010, 10), (0x6001, 6)] s.part q ∧
          (s.part.tim.avgN + 1 < n → q.tim.avgN = s.part.tim.avgN + 1 ∧ q.tim.avgTh = a ∧ q.tim.avgD = b ∧ q.tim.meas = s.part.tim.meas ∧ rd q 0x6010 7 = rd s.part 0x6010 7) ∧
          (n ≤ s.part.tim.avgN + 1 → q.tim.avgN = 0 ∧ q.tim.refD = some (roundDiv b (2 * n)) ∧
            ((∀ d, s.part.tim.refD = some d → (roundDiv b (2 * n) - d).natAbs ≤ 256 * rd s.part 0x6010 5) →
              q.tim.meas = s.part.tim.meas ++ [roundDiv a (2 * n)] ∧ q.tim.lost = false ∧ rd q 0x6010 7 = min (roundDiv b (2 * n)).toNat (2 ^ 32 - 1) ∧ rd q 0x6001 6 = rd s.part 0x6001 6) ∧
            (∀ d, s.part.tim.refD = some d → 256 * rd s.part 0x6010 5 < (roundDiv b (2 * n) - d).natAbs →
              q.tim.meas = s.part.tim.meas ∧ rd q 0x6010 0xA = satInc (rd s.part 0x6010 0xA) ∧ rd q 0x6001 6 = satInc (rd s.part 0x6001 6))))) ∧
    (∀ dt rising (tap : Fin 64) hb x n, x = auxStamp (advance dt s.part) .pps tap hb →
      ((rd s.part 0x6020 1 == 0) ≠ rising ∨ (s.part.tim.ppsWait = none ∧ s.part.tim.ppsNext = none) → exec (.ppsEdge dt rising tap hb) s = .next { s with part := advance dt s.part }) ∧
      ((rd s.part 0x6020 1 == 0) = rising →
        (s.part.tim.ppsWait = some n ∨ (s.part.tim.ppsWait = none ∧ n = nearestSecond s.part x ∧
          ∃ e, s.part.tim.ppsNext = some e ∧ (rd s.part 0x6020 5 = 0 ∨ (e ≤ n ∧ (ppsOffset s.part x n).natAbs ≤ 256 * rd s.part 0x6020 4)))) →
        ∃ q, exec (.ppsEdge dt rising tap hb) s = .next { s with part := q } ∧ q = { s.part with clk := s.part.clk.run dt, dict := q.dict, tim := q.tim } ∧ rd q 0x6020 2 = n % 2 ^ 40 ∧ rd q 0x6020 5 = 1 ∧
          rd q 0x6020 6 = satInc (rd s.part 0x6020 6) ∧ q.tim.ppsNext = some (n + 1) ∧ q.tim.ppsWait = none ∧
          q.tim.meas = (if rd s.part 0x6000 4 = 2 then s.part.tim.meas ++ [ppsOffset s.part x n] else s.part.tim.meas) ∧ otherEntries [(0x6020, 2), (0x6020, 5), (0x6020, 6)] s.part q) ∧
      (∀ e, (rd s.part 0x6020 1 == 0) = rising → s.part.tim.ppsWait = none → s.part.tim.ppsNext = some e → rd s.part 0x6020 5 ≠ 0 → n = nearestSecond s.part x → (n < e ∨ 256 * rd s.part 0x6020 4 < (ppsOffset s.part x n).natAbs) →
        exec (.ppsEdge dt rising tap hb) s = .next { s with part := bump 0x6020 7 (advance dt s.part) })) ∧
    (s.part.tim.ppsNext = none ∨ rd s.part 0x6020 5 ≠ 1 → exec .ppsLoss s = .next s) ∧
    (∀ e, s.part.tim.ppsNext = some e → rd s.part 0x6020 5 = 1 →
      ∃ q, exec .ppsLoss s = .next { s with part := q } ∧ rd q 0x6020 5 = 0 ∧ rd q 0x6020 8 = satInc (rd s.part 0x6020 8) ∧
        (rd s.part 0x6000 4 ≠ 2 ∨ servoState s.part = 0 ∨ servoState s.part = 3 → servoState q = servoState s.part ∧ otherEntries [(0x6020, 5), (0x6020, 8)] s.part q) ∧
        (rd s.part 0x6000 4 = 2 → (servoState s.part = 1 ∨ servoState s.part = 2) → servoState q = 3 ∧ q.clk.rate = freqEst s.part ∧ rd q 0x6001 5 = satInc (rd s.part 0x6001 5)))

/-- R351 to R357: an instance keeps the masters whose Announces it gets and follows the best of those that qualify; a Sync of its master, with its Follow_Up where it is two-step, is used, and the last of a window of W gives its estimate and mean path delay from the
smallest offsets of the window, makes the instance SLAVE and is the servo's measurement where it is selected; a delay request leaves with its stamp, and its answer is an exchange; what an instance does not support is counted; without Announces the instance listens, without Syncs it is
UNCALIBRATED; a selected instance that has left SLAVE is replaced by the other where that is SLAVE and automatic switching is on, and is a holdover otherwise; and an ARP request for the instance's
address is answered, and any other frame counted. -/
def Obligations.PtpFollowsItsMaster : Prop :=
  ∀ (s : State), live s.part →
    (∀ dt (x : Fin 2) (m : PtpMsg) (tap : Fin 64) hb turn (tap2 : Fin 64) hb2, rd s.part 0x5080 (x + 1) = 0 → exec (.ptpMessageReceived dt x m tap hb turn tap2 hb2) s = .next { s with part := advance dt s.part }) ∧
    (∀ dt (x d : Fin 2) (m : PtpMsg) (tap : Fin 64) hb turn (tap2 : Fin 64) hb2 pi w, rd s.part 0x5080 (x + 1) ≠ 0 → pi = ptpInst s.part d → w = ptpSet s.part d 8 →
      (ptpState s.part (1 - d) = 0 ∨ ptpSet s.part (1 - d) 2 ≠ x.val ∨ ptpSet s.part (1 - d) 3 ≠ m.domain) → ptpState s.part d ≠ 0 → ptpSet s.part d 2 = x.val → ptpSet s.part d 3 = m.domain →
      (unsupported m = true ∨ (ptpSet s.part d 5 == 1) ≠ m.udp → m.kind ≠ .pdelayReq →
        exec (.ptpMessageReceived dt x m tap hb turn tap2 hb2) s = .next { s with part := bump (0x6038 + d) 7 (advance dt s.part) }) ∧
      (unsupported m = false → (ptpSet s.part d 5 == 1) = m.udp →
        (m.kind = .announce → m.steps < 255 → (∀ a ∈ pi.masters, a.port = m.src ∧ (s.part.clk.run dt).rp ≤ a.last + 4 * logRp m.logInt) → pi.masters.length ≤ 1 → pi.chosen ≠ some m.src →
          ∃ q a, exec (.ptpMessageReceived dt x m tap hb turn tap2 hb2) s = .next { s with part := q } ∧ (ptpInst q d).masters = [a] ∧ a.port = m.src ∧ a.last = q.clk.rp ∧
            (pi.masters = [] → (ptpInst q d).chosen = pi.chosen ∧ q.dict = s.part.dict) ∧ (pi.masters ≠ [] → (ptpInst q d).chosen = some m.src ∧ ptpState q d = 2 ∧ rd q (0x6038 + d) 5 = m.utc % 65536)) ∧
        (∀ ms, pi.chosen = some m.src → ((m.kind = .sync ∧ m.twoStep = false ∧ ms = diffT256 (ingress (advance dt s.part) x tap hb - ptpTime m.sec m.ns m.corr)) ∨
            (m.kind = .followUp ∧ ∃ y, pi.wait = some y ∧ y.seq = m.seq ∧ ms = diffT256 (y.t2 - ptpTime m.sec m.ns (y.corr + m.corr)))) →
          ∃ q lo, exec (.ptpMessageReceived dt x m tap hb turn tap2 hb2) s = .next { s with part := q } ∧ q = { s.part with clk := s.part.clk.run dt, dict := q.dict, tim := q.tim } ∧
            (pi.msMin = none → lo = ms) ∧ (∀ b, pi.msMin = some b → lo = min b ms) ∧ rd q (0x6038 + d) 6 = satInc (rd s.part (0x6038 + d) 6) ∧
            (pi.count + 1 < w → (ptpInst q d).count = pi.count + 1 ∧ (ptpInst q d).msMin = some lo ∧ otherEntries [(0x6038 + d.val, 6)] s.part q ∧ q.tim.meas = s.part.tim.meas) ∧
            (w ≤ pi.count + 1 → (ptpInst q d).count = 0 ∧ (ptpInst q d).msMin = none ∧
              (∀ sm, minInt pi.exchanges = some sm →
                ∃ th dl, (ptpSet s.part d 4 = 0 → th = roundDiv (lo - sm) 2 ∧ dl = roundDiv (lo + sm) 2) ∧ (ptpSet s.part d 4 ≠ 0 → th = roundDiv (2 * lo - sm) 2 ∧ dl = roundDiv sm 2) ∧
                  (ptpInst q d).theta = some th ∧ ptpState q d = (if ptpState s.part d = 2 then 3 else ptpState s.part d) ∧ rd q (0x6038 + d) 8 = satInc (rd s.part (0x6038 + d) 8) ∧
                  rd q (0x6038 + d) 3 = ofI32 (satI32 th) ∧ rd q (0x6038 + d) 4 = min dl.toNat (2 ^ 32 - 1) ∧
                  q.tim.meas = (if rd s.part 0x6000 4 = 3 ∧ rd s.part 0x6040 1 = d.val then s.part.tim.meas ++ [th] else s.part.tim.meas)))) ∧
        (m.kind = .sync → m.twoStep = true → pi.chosen = some m.src →
          ∃ q, exec (.ptpMessageReceived dt x m tap hb turn tap2 hb2) s = .next { s with part := q } ∧ q.dict = s.part.dict ∧ (ptpInst q d).wait = some { seq := m.seq, t2 := ingress (advance dt s.part) x tap hb, corr := m.corr }) ∧
        (∀ y, m.kind = .delayResp → pi.chosen = some m.src → ptpSet s.part d 4 = 0 → pi.delay = some y → m.mine = true → y.seq = m.seq →
          ∃ q, exec (.ptpMessageReceived dt x m tap hb turn tap2 hb2) s = .next { s with part := q } ∧ q.dict = s.part.dict ∧ (ptpInst q d).delay = none ∧
            (ptpInst q d).exchanges = (diffT256 (ptpTime m.sec m.ns (-m.corr) - y.dep) :: pi.exchanges).take w) ∧
        (m.kind = .pdelayReq → ptpSet s.part d 4 = 1 → ptpSet s.part d 9 = 0 →
          ∃ q, exec (.ptpMessageReceived dt x m tap hb turn tap2 hb2) s = .next { s with part := q } ∧ q.clk = (s.part.clk.run dt).run turn ∧ q.dict = s.part.dict ∧
            (ptpInst q d).sent = [{ kind := 3, seq := m.seq, corr := m.corr + roundDiv (diffT256 (egress (advance turn (advance dt s.part)) x tap2 hb2 - ingress (advance dt s.part) x tap hb) * 25) 32 }]))) ∧
    (∀ dt (d : Fin 2) tap hb p n, p = (match (ptpInst s.part d).lastReq with | some r => advance dt (advanceRp (r + logRp (s20 (ptpSet s.part d 7))) s.part) | none => advance dt s.part) → n = ((ptpInst s.part d).delaySeq + 1) % 65536 →
      (ptpState s.part d = 0 ∨ rd s.part 0x5080 (ptpSet s.part d 2 + 1) = 0 ∨ (ptpSet s.part d 4 ≠ 1 ∧ (ptpInst s.part d).chosen = none) → exec (.ptpDelayRequestSend dt d tap hb) s = .next s) ∧
      (ptpState s.part d ≠ 0 → rd s.part 0x5080 (ptpSet s.part d 2 + 1) ≠ 0 → (ptpSet s.part d 4 = 1 ∨ (ptpInst s.part d).chosen ≠ none) →
        ∃ q, exec (.ptpDelayRequestSend dt d tap hb) s = .next { s with part := q } ∧ q = { p with tim := q.tim } ∧
          ptpInst q d = { ptpInst s.part d with lastReq := some p.clk.rp, delaySeq := n, delay := some { seq := n, dep := egress p (ptpSet s.part d 2) tap hb }, sent := [{ kind := if ptpSet s.part d 4 = 1 then 2 else 1, seq := n }] })) ∧
    (∀ (d : Fin 2) r, r = ((ptpInst s.part d).masters.find? fun a => (ptpInst s.part d).chosen == some a.port) → (r = none → exec (.announceTimeout d) s = .next s) ∧
      (∀ m, r = some m →
        ∃ q, exec (.announceTimeout d) s = .next { s with part := q } ∧ ptpState q d = 1 ∧ (ptpInst q d).chosen = none ∧ (ptpInst q d).left = ((ptpInst s.part d).left || ptpState s.part d == 3) ∧
          q.clk.rp = max s.part.clk.rp (m.last + 3 * logRp m.logInt) ∧ otherEntries [(0x6038 + d.val, 1)] s.part q)) ∧
    (∀ (d : Fin 2), (ptpState s.part d ≠ 3 → exec (.syncTimeout d) s = .next s) ∧
      (ptpState s.part d = 3 →
        ∃ q, exec (.syncTimeout d) s = .next { s with part := q } ∧ ptpState q d = 2 ∧ (ptpInst q d).left = true ∧ (ptpInst q d).chosen = (ptpInst s.part d).chosen ∧
          q.clk.rp = max s.part.clk.rp ((ptpInst s.part d).lastSync + 3 * logRp (ptpInst s.part d).logSync) ∧ otherEntries [(0x6038 + d.val, 1)] s.part q)) ∧
    (∀ d, d < 2 → rd s.part 0x6040 1 = d → ((ptpInst s.part d).left = false → exec .instanceLeftSlave s = .next s) ∧
      ((ptpInst s.part d).left = true →
        (rd s.part 0x6000 4 ≠ 3 ∨ ptpState s.part d = 3 → exec .instanceLeftSlave s = .next { s with part := setPtp d { ptpInst s.part d with left := false } s.part }) ∧
        (rd s.part 0x6000 4 = 3 → ptpState s.part d ≠ 3 →
          (rd s.part 0x6040 3 = 1 → ptpState s.part (1 - d) = 3 →
            ∃ q, exec .instanceLeftSlave s = .next { s with part := q } ∧ rd q 0x6040 1 = 1 - d ∧ rd q 0x6040 6 = satInc (rd s.part 0x6040 6) ∧ q.tim.switchOld = some (d, (ptpInst s.part d).theta.getD 0) ∧
              otherEntries [(0x6040, 1), (0x6040, 6)] s.part q) ∧
          (rd s.part 0x6040 3 ≠ 1 ∨ ptpState s.part (1 - d) ≠ 3 → (servoState s.part = 1 ∨ servoState s.part = 2) →
            ∃ q, exec .instanceLeftSlave s = .next { s with part := q } ∧ servoState q = 3 ∧ q.clk.rate = freqEst s.part ∧ rd q 0x6001 5 = satInc (rd s.part 0x6001 5) ∧
              otherEntries [(0x6000, 2), (0x6000, 3), (0x6001, 5)] s.part q)))) ∧
    (∀ rq v, accepted s.part rq 0x6040 1 v →
      ∃ q, exec (.domainSwitchRequest rq v) s = .next { s with part := answerOk rq 0x6040 1 [] q } ∧ journalled1 rq 0x6040 1 v s.part q ∧
        (v ≠ rd s.part 0x6040 1 → rd s.part 0x6000 4 = 3 → rd q 0x6040 6 = satInc (rd s.part 0x6040 6) ∧ q.tim.switchOld = some (rd s.part 0x6040 1, (ptpInst s.part (rd s.part 0x6040 1)).theta.getD 0)) ∧
        (v = rd s.part 0x6040 1 ∨ rd s.part 0x6000 4 ≠ 3 → rd q 0x6040 6 = rd s.part 0x6040 6 ∧ q.tim = s.part.tim)) ∧
    (∀ (x : Fin 2) arp target asker, (rd s.part 0x5080 (x + 1) = 0 → exec (.arpRequest x arp target asker) s = .next s) ∧
      (rd s.part 0x5080 (x + 1) ≠ 0 →
        (∀ d, d < 2 → arp = true → ptpState s.part d ≠ 0 → ptpSet s.part d 2 = x.val → ptpSet s.part d 5 = 1 → ptpSet s.part d 6 = target →
          exec (.arpRequest x arp target asker) s = .next { s with part := { s.part with tim := { s.part.tim with arp := some (x.val, target, asker) } } }) ∧
        (arp = false ∨ (∀ d, d < 2 → ptpState s.part d = 0 ∨ ptpSet s.part d 5 ≠ 1 ∨ ptpSet s.part d 6 ≠ target) → exec (.arpRequest x arp target asker) s = .next { s with part := bump 0x6050 5 s.part })))

/-! ### Housekeeping (R362 to R407) -/

/-- R365, R371 to R373, R376, R378, R392 to R398, R400 and R401: a converter that runs delivers its next result whole, with its value, the main one less the lead result in use, its tags, READY, the next sequence and, over a record not yet
read, OVERRUN, which is counted; autoranging steps on it, a loop of the converter shows it, and what waits for it follows: an injected conversion, or the lead measurement that is due. A lead result is reported and used unless it is flagged, and an injected result ends its conversion. A read clears READY, and one of a record already read is counted; an open-wire detector that trips makes its converter
not clean, and its release is held with the trip. -/
def Obligations.ResultsAreDelivered : Prop :=
  ∀ (s : State) (m : Fin 4) (x : Conv) (st : Nat), conv s.part m = x → convSt s.part m = st →
    (live s.part → ∀ bs clip f r k1 settling, f = form m bs clip s.part → r = rd s.part (0x8058 + m) 1 → k1 = firstValid x.chain → settling = decide (f.k < k1) →
      (x.reset = none ∨ (st ≠ 1 ∧ st ≠ 2 ∧ st ≠ 4) → exec (.resultDelivery m bs clip) s = .next s) ∧
      (x.reset ≠ none → (st = 1 ∨ st = 2 ∨ st = 4) →
        (∀ three extra v fl, x.job = .main → three = (rd s.part (0x8000 + m) 3 == 1 && !settling) → extra = (if three then x.leadFlags else 0) →
          (three = false ∨ x.lead = none → v = f.x) → (∀ l, three = true → x.lead = some l → v = compensated f.x f.range l.1 l.2) → fl = (f.clip || bit extra 0, f.suspect || bit extra 1, f.open_ || bit extra 2) →
          ∃ q, exec (.resultDelivery m bs clip) s = .next { s with part := q } ∧ q = { s.part with clk := q.clk, dict := q.dict, hk := q.hk } ∧ (conv q m).k = f.k ∧ rd q (0x8058 + m) 2 = now q ∧
            rd q (0x8058 + m) 1 = recordBits v f.range (decide (f.k = k1)) settling (decide (f.k = k1) && x.exc) (decide (f.k = k1) && x.rng) fl.1 (swapped s.part m) (three && x.lead.isSome) fl.2.1 fl.2.2 false f.iosc +
              2 ^ 56 + flagAt (bit r 56) 55 + (rd s.part (0x8058 + m) 3 + 1) % 2 ^ 20 * 2 ^ 20 ∧
            rd q (0x8058 + m) 3 = (rd s.part (0x8058 + m) 3 + 1) % 2 ^ 20 ∧ rd q (0x8068 + m) 2 = (if bit r 56 = true then satInc (rd s.part (0x8068 + m) 2) else rd s.part (0x8068 + m) 2) ∧
            rd q (0x8068 + m) 1 = (if settling = true then rd s.part (0x8068 + m) 1 else satInc (rd s.part (0x8068 + m) 1)) ∧
            (fl.2.2 = true → rd q 0x8020 (m + 1) = 2) ∧ (fl.2.2 = false → fl.2.1 = true → rd q 0x8020 (m + 1) = 1) ∧ (fl.2.2 = false → fl.2.1 = false → x.trips = [] → rd q 0x8020 (m + 1) = 0) ∧
            (settling = true → x.trips = [] → otherEntries [(0x8058 + m.val, 1), (0x8058 + m.val, 2), (0x8058 + m.val, 3), (0x8068 + m.val, 2), (0x8020, m.val + 1)] s.part q) ∧
            (settling = false → rd s.part (0x8000 + m) 7 = 1 → rd q 0x8020 (m + 1) = 0 →
              (471860 ≤ f.x.natAbs → 0 < rd s.part (0x8000 + m) 0xB → rd q (0x8000 + m) 0xB = rd s.part (0x8000 + m) 0xB - 1 ∧ rd q (0x8000 + m) 0xD = satInc (rd s.part (0x8000 + m) 0xD)) ∧
              (f.x.natAbs ≤ 104857 → rd s.part (0x8000 + m) 0xB < 7 → x.low = 3 → rd q (0x8000 + m) 0xB = rd s.part (0x8000 + m) 0xB + 1 ∧ rd q (0x8000 + m) 0xD = satInc (rd s.part (0x8000 + m) 0xD))) ∧
            (∀ (j : Fin 2) c, settling = false → loopSource s.part j = m.val → (loopSt s.part j = 1 ∨ loopSt s.part j = 2 ∨ loopSt s.part j = 3) → fl = (false, false, false) → c = loopCode s.part j (v * (2 ^ (7 - f.range) : Nat)) →
              loopSt q j = (if c < 9500 ∨ 51250 < c then 2 else 1) ∧ rd q (0x8040 + j) 9 = (max 9500 (min 51250 c)).toNat) ∧
            (settling = false → st = 2 → injSt s.part m = 1 → convSt q m = 4 ∧ (conv q m).job = .injected) ∧
            (settling = false → injSt s.part m ≠ 1 → hkCalSt s.part m ≠ 1 → rd s.part (0x8000 + m) 3 = 1 → rd s.part (0x8000 + m) 6 ≤ x.mains + 1 → (conv q m).job = .lead ∧ (conv q m).mains = 0)) ∧
        (x.job = .lead →
          ∃ q, exec (.resultDelivery m bs clip) s = .next { s with part := q } ∧ (conv q m).job = .main ∧ rd q (0x8000 + m) 0xF = ofSigned 20 f.x ∧ rd q (0x8000 + m) 0x10 = satInc (rd s.part (0x8000 + m) 0x10) ∧
            (f.clip = false → f.suspect = false → f.open_ = false → (conv q m).lead = some (f.x, f.range) ∧ (conv q m).leadFlags = 0) ∧
            (f.clip = true ∨ f.suspect = true ∨ f.open_ = true → (conv q m).lead = x.lead ∧ (conv q m).leadFlags ≠ 0) ∧ (st = 2 → convSt q m = 3)) ∧
        (x.job = .injected → st = 4 →
          ∃ q, exec (.resultDelivery m bs clip) s = .next { s with part := q } ∧ injSt q m = 2 ∧ rd q (0x805C + m) 6 = 0 ∧ rd q (0x8058 + m) 2 = now q ∧ rd q (0x8068 + m) 1 = satInc (rd s.part (0x8068 + m) 1) ∧
            rd q (0x8058 + m) 1 = recordBits f.x f.range true false x.exc x.rng f.clip (swapped s.part m) false f.suspect f.open_ true f.iosc + 2 ^ 56 + flagAt (bit r 56) 55 + (rd s.part (0x8058 + m) 3 + 1) % 2 ^ 20 * 2 ^ 20 ∧
            (hkCalSt s.part m = 6 → hkCalSt q m = 1 ∧ convSt q m = 5) ∧ (hkCalSt s.part m ≠ 6 → convSt q m = 3 ∧ (conv q m).job = .main)))) ∧
    (∀ rq, serving s.part → quiet s.part → checkRead s.part rq (0x8058 + m) 1 = .ok →
      exec (.resultRead rq m) s = .next { s with part := answerOk rq (0x8058 + m) 1 (toWords 4 (rd s.part (0x8058 + m) 1)) (if bit (rd s.part (0x8058 + m) 1) 56 = true then wr (0x8058 + m) 1 (clrBit (rd s.part (0x8058 + m) 1) 56) (renew rq s.part) else bump (0x8068 + m) 3 (renew rq s.part)) }) ∧
    (live s.part → ∀ dt high,
      (bit (rd s.part (0x8000 + m) 0xA) (if high then 0 else 1) = false ∨ 0x1F < watchedPin s.part m high ∨ st = 5 ∨ tripOpen s.part m high = true →
        exec (.openWireTrip dt m high) s = .next { s with part := advance dt s.part }) ∧
      (bit (rd s.part (0x8000 + m) 0xA) (if high then 0 else 1) = true → watchedPin s.part m high ≤ 0x1F → st ≠ 5 → tripOpen s.part m high = false →
        ∃ q, exec (.openWireTrip dt m high) s = .next { s with part := q } ∧ (conv q m).trips = x.trips ++ [{ high := high, start := s.part.clk.rp + dt }] ∧
          rd q 0x8020 (m + 1) = (if rd s.part 0x8020 (m + 1) = 0 then 1 else rd s.part 0x8020 (m + 1)) ∧ otherEntries [(0x8020, m.val + 1)] s.part q) ∧
      (tripOpen s.part m high = false → exec (.openWireRelease dt m high) s = .next { s with part := advance dt s.part }) ∧
      (tripOpen s.part m high = true →
        ∃ q, exec (.openWireRelease dt m high) s = .next { s with part := q } ∧
          (conv q m).trips = x.trips.map (fun t => if t.high == high && t.stop.isNone then { t with stop := some (max t.start (s.part.clk.rp + dt - msRp)) } else t) ∧
          (rd s.part 0x8020 (m + 1) = 2 → (∀ t ∈ x.trips, t.stop = none → t.high = high) → rd q 0x8020 (m + 1) = 1) ∧ otherEntries [(0x8020, m.val + 1)] s.part q))

/-- R385 to R387, R391, R399 to R406: a start of the converters of the mask gives those that are not blanked a synchronising reset at the next sample, or at the compare time, and one that cannot is REJECTED; a stop stops
those of the mask; a change of chain settings blanks a converter that runs, and once its settling time is over its chain starts again at
the next sample; an injected conversion and a calibration are taken by a converter that runs, and refused by one that does not; a
calibration whose terms are in range raises completion with its new table, and one whose terms are not a failure; and an abort of it
waits at the arbiter. -/
def Obligations.ConvertersStartSettleAndCalibrate : Prop :=
  ∀ (s : State) (m : Fin 4) (x : Conv) (st mask : Nat) (rejected : Prop), conv s.part m = x → convSt s.part m = st → rd s.part 0x8054 1 = mask →
    (rejected ↔ mask = 0 ∨ ∃ j, j < 4 ∧ bit mask j = true ∧ (convSt s.part j = 4 ∨ convSt s.part j = 5)) →
    (∀ rq, serving s.part → quiet s.part → checkWrite s.part rq 0x8054 2 1 = .ok →
      (rejected → ∃ q, exec (.converterStartNow rq) s = .next { s with part := answerOk rq 0x8054 2 [] q } ∧ rd q 0x8054 6 = 5 ∧ otherEntries [(0x8054, 6)] s.part q) ∧
      (¬ rejected →
        ∃ q, exec (.converterStartNow rq) s = .next { s with part := answerOk rq 0x8054 2 [] q } ∧ rd q 0x8054 6 = 2 ∧ rd q 0x8054 5 = now q ∧ q.clk.rp = gridUp (s.part.clk.rp + 1) ∧
          (bit mask m = true → st = 0 ∨ st = 2 ∨ (st = 1 ∧ x.settle = none) → convSt q m = 2 ∧ (conv q m).reset = some (gridUp (s.part.clk.rp + 1)) ∧ (conv q m).k = 0 ∧ (conv q m).chain = chainSet s.part m) ∧
          (bit mask m = true → st = 3 ∨ (st = 1 ∧ x.settle ≠ none) → convSt q m = 3 ∧ (conv q m).settle = x.settle) ∧ (bit mask m = false → convSt q m = st ∧ conv q m = x) ∧
          otherEntries [(0x8054, 5), (0x8054, 6), (0x8058, 4), (0x8059, 4), (0x805A, 4), (0x805B, 4)] s.part q)) ∧
    (∀ rq, serving s.part → quiet s.part → checkWrite s.part rq 0x8054 2 2 = .ok →
      (rejected ∨ before (rd s.part 0x8054 3) (now s.part) = true →
        ∃ q, exec (.converterStartAtCompare rq) s = .next { s with part := answerOk rq 0x8054 2 [] q } ∧ rd q 0x8054 6 = 5 ∧ otherEntries [(0x8054, 6)] s.part q) ∧
      (¬ rejected → before (rd s.part 0x8054 3) (now s.part) = false →
        ∃ q, exec (.converterStartAtCompare rq) s = .next { s with part := answerOk rq 0x8054 2 [] q } ∧ rd q 0x8054 6 = 1 ∧ q.hk = { s.part.hk with armed := mask } ∧
          convSt q m = (if bit mask m = true ∧ (st = 0 ∨ st = 2) then 1 else st) ∧ otherEntries [(0x8054, 6), (0x8058, 4), (0x8059, 4), (0x805A, 4), (0x805B, 4)] s.part q)) ∧
    (live s.part →
      (rd s.part 0x8054 6 ≠ 1 → exec .converterStartEvent s = .next s) ∧
      (rd s.part 0x8054 6 = 1 →
        ∃ q, exec .converterStartEvent s = .next { s with part := q } ∧ q.clk.rp % 1250 = 0 ∧ rd q 0x8054 6 = 2 ∧ rd q 0x8054 5 = now q ∧ q.hk.armed = 0 ∧
          (bit s.part.hk.armed m = true → st = 0 ∨ st = 2 ∨ (st = 1 ∧ x.settle = none) → convSt q m = 2 ∧ (conv q m).reset = some q.clk.rp ∧ (conv q m).k = 0) ∧
          (bit s.part.hk.armed m = true → st = 3 ∨ (st = 1 ∧ x.settle ≠ none) → convSt q m = 3 ∧ (conv q m).settle = x.settle) ∧ (bit s.part.hk.armed m = false → convSt q m = st ∧ conv q m = x))) ∧
    (∀ rq, serving s.part → quiet s.part → checkWrite s.part rq 0x8054 2 3 = .ok →
      ∃ q, exec (.converterStop rq) s = .next { s with part := answerOk rq 0x8054 2 [] q } ∧
        (rd s.part 0x8054 6 = 1 → (∀ j, j < 4 → bit s.part.hk.armed j = true → bit mask j = true) → rd q 0x8054 6 = 4) ∧
        (rd s.part 0x8054 6 ≠ 1 ∨ (∃ j, j < 4 ∧ bit s.part.hk.armed j = true ∧ bit mask j = false) → rd q 0x8054 6 = rd s.part 0x8054 6) ∧ (bit mask m = false → convSt q m = st ∧ conv q m = x) ∧
        (bit mask m = true → convSt q m = 0 ∧ (st ≠ 0 → (conv q m).reset = none ∧ (injSt s.part m = 1 → injSt q m = 4 ∧ rd q (0x805C + m) 6 = 3) ∧ (hkCalSt s.part m = 6 → hkCalSt q m = 5 ∧ rd q (0x8060 + m) 3 = 3) ∧
          (hkCalSt s.part m = 1 → arbOf s.part (.hkCal m) = [] → arbOf q (.hkCal m) = [{ kind := .failure 3 }])))) ∧
    (∀ rq sub v, accepted s.part rq (0x8050 + m) sub v → 1 ≤ sub → sub ≤ 6 →
      ∃ q, exec (.chainSettingsWrite rq m sub v) s = .next { s with part := answerOk rq (0x8050 + m) sub [] q } ∧ journalled1 rq (0x8050 + m) sub v s.part q ∧
        (sub ≤ 5 → (st = 2 ∨ st = 3 → convSt q m = 3 ∧ (conv q m).reset = none ∧ (conv q m).exc = true ∧ ∃ r, (conv q m).settle = some r ∧ s.part.clk.rp + 50 * usRp ≤ r) ∧
          (injSt s.part m = 1 → st ≠ 4 → injSt q m = 4 ∧ rd q (0x805C + m) 6 = 3) ∧ (hkCalSt s.part m = 6 → st ≠ 4 → hkCalSt q m = 5)) ∧
        (sub = 6 → convSt q m = st ∧ conv q m = x)) ∧
    (live s.part →
      (x.settle = none ∨ (st ≠ 1 ∧ st ≠ 3 ∧ st ≠ 4) → exec (.converterSettled m) s = .next s) ∧
      (∀ r, x.settle = some r → (st = 1 ∨ st = 3 ∨ st = 4) →
        ∃ q, exec (.converterSettled m) s = .next { s with part := q } ∧ convSt q m = (if st = 3 then 2 else st) ∧ (conv q m).reset = some (gridUp r) ∧ (conv q m).k = 0 ∧ (conv q m).settle = none ∧
          (conv q m).chain = chainSet s.part m ∧ q.clk.rp = max s.part.clk.rp (gridUp r) ∧ otherEntries [(0x8058 + m.val, 4)] s.part q)) ∧
    (∀ rq, serving s.part → quiet s.part → checkWrite s.part rq (0x805C + m) 1 1 = .ok →
      ∃ q, exec (.injectedRequest rq m) s = .next { s with part := answerOk rq (0x805C + m) 1 [] q } ∧ onlyEntries [(0x805C + m.val, 5), (0x805C + m.val, 6)] (renew rq s.part) q ∧
        (st = 0 ∨ st = 1 → injSt q m = 5 ∧ rd q (0x805C + m) 6 = 1) ∧ (st ≠ 0 → st ≠ 1 → hkCalSt s.part m = 1 ∨ hkCalSt s.part m = 6 → injSt q m = 5 ∧ rd q (0x805C + m) 6 = 2) ∧
        (st ≠ 0 → st ≠ 1 → hkCalSt s.part m ≠ 1 → hkCalSt s.part m ≠ 6 → injSt q m = 1 ∧ rd q (0x805C + m) 6 = 0)) ∧
    (∀ rq, serving s.part → quiet s.part → checkWrite s.part rq (0x8060 + m) 1 1 = .ok →
      ∃ q, exec (.hkCalibrationRequest rq m) s = .next { s with part := answerOk rq (0x8060 + m) 1 [] q } ∧ onlyEntries [(0x8060 + m.val, 2), (0x8060 + m.val, 3)] (renew rq s.part) q ∧
        (st = 0 ∨ st = 1 → hkCalSt q m = 5 ∧ rd q (0x8060 + m) 3 = 4) ∧ (st ≠ 0 → st ≠ 1 → hkCalSt q m = (if injSt s.part m = 1 then 6 else 1) ∧ rd q (0x8060 + m) 3 = 0)) ∧
    (∀ rq, serving s.part → quiet s.part → checkWrite s.part rq (0x8060 + m) 1 2 = .ok →
      (hkCalSt s.part m = 1 → arbOf s.part (.hkCal m) = [] →
        exec (.hkCalibrationAbort rq m) s = .next { s with part := { renew rq s.part with fab := { s.part.fab with arb := s.part.fab.arb ++ [(.hkCal m, { kind := .abort, rqs := [rq] })] } } }) ∧
      (hkCalSt s.part m = 6 → ∃ q, exec (.hkCalibrationAbort rq m) s = .next { s with part := answerOk rq (0x8060 + m) 1 [] q } ∧ hkCalSt q m = 3 ∧ onlyEntries [(0x8060 + m.val, 2), (0x8060 + m.val, 3)] (renew rq s.part) q) ∧
      (hkCalSt s.part m ≠ 1 → hkCalSt s.part m ≠ 6 → exec (.hkCalibrationAbort rq m) s = .next { s with part := answerOk rq (0x8060 + m) 1 [] (bump 0x1230 1 (renew rq s.part)) })) ∧
    (∀ rs t, live s.part → t = hkTable (rs.map fun l => l.map clampX) →
      (st ≠ 5 ∨ hkCalSt s.part m ≠ 1 ∨ unsettled s.part (.hkCal m) = false → exec (.hkCalibrationComplete m rs) s = .next s) ∧
      (st = 5 → hkCalSt s.part m = 1 → unsettled s.part (.hkCal m) = true →
        ∃ q k, exec (.hkCalibrationComplete m rs) s = .next { s with part := q } ∧ q.dict = s.part.dict ∧ (conv q m).cal = x.cal ∧ q.fab.arb = s.part.fab.arb ++ [(.hkCal m, { kind := k })] ∧
          ((∃ r, r < 8 ∧ 8192 < (t.getD (2 * r) 0).natAbs) → k = .failure 1) ∧
          ((∀ r, r < 8 → (t.getD (2 * r) 0).natAbs ≤ 8192) → (∃ r, r < 8 ∧ 52428 < (t.getD (2 * r + 1) 0).natAbs) → k = .failure 2) ∧
          ((∀ r, r < 8 → (t.getD (2 * r) 0).natAbs ≤ 8192 ∧ (t.getD (2 * r + 1) 0).natAbs ≤ 52428) → k = .completion ∧ (conv q m).newCal = some t)))

/-- R366 to R371, R377 to R381: an excitation change, of a pair's level, pins or mask or of a converter's inputs, connection or burnout current, blanks the converters it serves for its settling time; a source that loses its compliance is reported
and counted, and reported clear again; a loop whose current stays 750 counts low ten checks in a row is reported open, one whose current stays 1,250 counts high is switched off, and one without
a result for its source timeout goes to FAULT with the fault level. -/
def Obligations.ExcitationAndLoops : Prop :=
  ∀ (s : State),
    (∀ rq idx sub v (n m : Fin 4) us mask, accepted s.part rq idx sub v → v ≠ rd s.part idx sub → mask = rd s.part (0x8010 + n) 5 →
      ((idx = 0x8010 + n.val ∧ sub = 1 ∧ us = settleLevel v ∧ bit mask m = true) ∨ (idx = 0x8010 + n.val ∧ (sub = 2 ∨ sub = 3) ∧ us = 200 ∧ bit mask m = true) ∨
        (idx = 0x8010 + n.val ∧ sub = 5 ∧ us = 200 ∧ bit (v ^^^ mask) m = true) ∨ (idx = 0x8000 + m.val ∧ (sub = 1 ∨ sub = 2 ∨ sub = 3) ∧ us = 50) ∨ (idx = 0x8000 + m.val ∧ sub = 9 ∧ us = 5000)) →
      ∃ q, exec (.excitationChange rq idx sub v) s = .next { s with part := answerOk rq idx sub [] q } ∧ journalled1 rq idx sub v s.part q ∧ (conv q m).exc = true ∧ (conv q m).lead = none ∧ (conv q m).changed = s.part.clk.rp ∧
        (convSt s.part m = 2 ∨ convSt s.part m = 3 → convSt q m = 3 ∧ (conv q m).reset = none ∧
          (conv q m).settle = some (max (s.part.clk.rp + us * usRp) (if (conv s.part m).changed = s.part.clk.rp then (conv s.part m).settle.getD 0 else 0)))) ∧
    (∀ rq idx sub v, alive s.part = true → ¬ (0x8010 ≤ idx ∧ idx ≤ 0x8013 ∧ 1 ≤ sub ∧ sub ≤ 5) → ¬ (0x8000 ≤ idx ∧ idx ≤ 0x8003 ∧ (sub = 1 ∨ sub = 2 ∨ sub = 3 ∨ sub = 9)) → exec (.excitationChange rq idx sub v) s = .next s) ∧
    (∀ (n : Fin 4) b i, live s.part → i = (if b then 1 else 0) →
      (s.part.pow.phase ≠ .powerFail → rd s.part (0x8010 + n) 1 ≠ 0 → drivenPin s.part n b ≠ 0xFF → bit (rd s.part (0x8010 + n) 7) i = false →
        exec (.complianceLoss n b) s = .next { s with part := bump (0x8010 + n) 8 (wr (0x8010 + n) 7 (setBit (rd s.part (0x8010 + n) 7) i) s.part) }) ∧
      (s.part.pow.phase = .powerFail ∨ rd s.part (0x8010 + n) 1 = 0 ∨ drivenPin s.part n b = 0xFF ∨ bit (rd s.part (0x8010 + n) 7) i = true → exec (.complianceLoss n b) s = .next s) ∧
      exec (.complianceRegained n b) s = .next { s with part := wr (0x8010 + n) 7 (clrBit (rd s.part (0x8010 + n) 7) i) s.part }) ∧
    (∀ (j : Fin 2) i c y b a w, live s.part → i < 65536 → c = rd s.part (0x8040 + j) 9 → y = loopOut s.part j → b = (if i + 750 < c then y.below + 1 else 0) → a = (if c + 1250 < i then y.above + 1 else 0) →
      w = (if i ≤ c + 750 ∧ c ≤ i + 750 then y.within + 1 else 0) →
      ∃ q, exec (.loopCurrentCheck j i) s = .next { s with part := q } ∧ rd q (0x8048 + j) 3 = i ∧ q.clk.rp = max s.part.clk.rp (y.checked + msRp) ∧ (loopOut q j).checked = q.clk.rp ∧
        (c = 0 → (loopOut q j).below = 0 ∧ (loopOut q j).above = 0 ∧ (loopOut q j).within = 0 ∧ otherEntries [(0x8048 + j.val, 3)] s.part q) ∧
        (c ≠ 0 → a < 10 → (loopOut q j).below = b ∧ (loopOut q j).above = a ∧ (loopOut q j).within = w ∧ loopSt q j = loopSt s.part j ∧
          (b < 10 → w < 10 → otherEntries [(0x8048 + j.val, 3)] s.part q) ∧ (10 ≤ w → rd q (0x8048 + j) 4 = 0) ∧
          (10 ≤ b → rd s.part (0x8048 + j) 4 = 0 → rd q (0x8048 + j) 4 = 1 ∧ rd q (0x8040 + j) 0xA = satInc (rd s.part (0x8040 + j) 0xA))) ∧
        (c ≠ 0 → 10 ≤ a → loopSt q j = 4 ∧ loopCause q j = 4 ∧ rd q (0x8040 + j) 9 = 0 ∧ (loopSt s.part j ≠ 4 → rd q (0x8040 + j) 0xB = satInc (rd s.part (0x8040 + j) 0xB)))) ∧
    (∀ (j : Fin 2), live s.part →
      (4 ≤ loopSource s.part j ∨ loopSt s.part j = 0 ∨ (loopSt s.part j = 4 ∧ (loopCause s.part j = 2 ∨ loopCause s.part j = 4)) → exec (.loopSourceTimeout j) s = .next s) ∧
      (loopSource s.part j < 4 → loopSt s.part j ≠ 0 → ¬ (loopSt s.part j = 4 ∧ (loopCause s.part j = 2 ∨ loopCause s.part j = 4)) →
        ∃ q, exec (.loopSourceTimeout j) s = .next { s with part := q } ∧ q = { s.part with clk := q.clk, dict := q.dict } ∧ loopSt q j = 4 ∧ loopCause q j = 2 ∧ rd q (0x8040 + j) 9 = faultLevel s.part j ∧
          q.clk.rp = max s.part.clk.rp ((loopOut s.part j).last + rd s.part (0x8040 + j) 8 * msRp) ∧
          rd q (0x8040 + j) 0xB = (if loopSt s.part j = 4 then rd s.part (0x8040 + j) 0xB else satInc (rd s.part (0x8040 + j) 0xB)) ∧
          otherEntries [(0x8040 + j.val, 9), (0x8040 + j.val, 11), (0x8048 + j.val, 1), (0x8048 + j.val, 2)] s.part q))

/-! ### The object dictionary (R407 to R443) -/

/-- R12, R397, R409, R413 to R416, R418 and R443: with the controller free, a read that passes its checks is answered with the words of the entry's value: its committed one, its default where the part's role or a bond makes it inactive, what a chapter's structure holds where one does, or a string's octets; a describe of an entry that names the
requester's class is answered with the entry's descriptor; and a refused read with its code: the refusal is counted in 1000h.06 and recorded in
1000h.07, and without a session or a broadcast nothing else changes. A read of the Vendor's block is answered in Vendor sessions alone. -/
def Obligations.ReadsAreAnswered : Prop :=
  ∀ (s : State) (rq : Rq) (idx sub : Nat) (p : Part), serving s.part → quiet s.part → p = (if idx = 0x2104 then ivNow (renew rq s.part) else renew rq s.part) →
    (∀ r, vendorIdx idx = false → checkRead p rq idx sub = .ok → lookup idx sub = some r →
      ∃ ws, exec (.dictionaryRead rq idx sub) s = .next { s with part := answerOk rq idx sub ws (readEffect idx sub p) } ∧
        (r.ty ≠ .str → readsDefault p idx sub = true → ws = valueWords r (dflt p.pow.role idx sub)) ∧
        (r.ty ≠ .str → readsDefault p idx sub = false → liveValue p rq idx sub = none → ws = valueWords r (rd p idx sub)) ∧
        (∀ v, r.ty ≠ .str → readsDefault p idx sub = false → liveValue p rq idx sub = some v → ws = valueWords r v) ∧
        (r.ty = .str → ws = strWords (if sub = 1 then strVendor else if sub = 2 then strFamily else strOrder p))) ∧
    (∀ r, vendorIdx idx = false → entry p idx sub = some r → (mayRead p r idx sub rq.cls = true ∨ mayWrite p r idx sub rq.cls = true) →
      exec (.describe rq idx sub) s = .next { s with part := answerOk rq idx sub (descriptor p r idx sub) p }) ∧
    (∀ c, vendorIdx idx = false → c ≠ .ok → checkRead p rq idx sub = c →
      ∃ q, exec (.dictionaryRead rq idx sub) s = .next { s with part := q } ∧
        q.svc.answer = some { rq, idx, sub, code := c } ∧ rd q 0x1000 6 = satInc (rd p 0x1000 6) ∧
        rd q 0x1000 7 = idx * 2 ^ 24 + sub * 2 ^ 16 + c.code * 2 ^ 8 + rq.cls ∧
        (rq.sess = none → rq.path % 2 = 0 →
          q = { p with dict := q.dict, svc := { p.svc with answer := q.svc.answer } } ∧ otherEntries [(0x1000, 6), (0x1000, 7)] p q)) ∧
    (vendorIdx idx = true →
      (Config.vendorHas idx sub = true → rq.cls = 7 →
        exec (.dictionaryRead rq idx sub) s = .next { s with part := answerOk rq idx sub ((Config.vendorWords idx sub p.free).map BitVec.toNat) { p with free := p.free + 1 } }) ∧
      (∀ c, (Config.vendorHas idx sub = false ∧ c = .noEntry) ∨ (Config.vendorHas idx sub = true ∧ rq.cls ≠ 7 ∧ c = .denied) →
        exec (.dictionaryRead rq idx sub) s = .next { s with part := refuse rq idx sub c p }))

/-- R34, R82, R415 to R418, R421 to R423 and R487: with the controller free, a write that passes its checks, of an entry that the journal does not keep, commits at once: the entry holds the value, a frame-bound one keeps its old value in effect, and what the entry asks for then follows. A write of a journalled entry is staged, and,
of an entry that is not write-limited, changes nothing until its commit; during compaction it waits, and while the journal is failed it is refused. A refused write leaves every entry but the counts and the record of refusals. -/
def Obligations.WritesCommitOrAreStaged : Prop :=
  ∀ (s : State) (rq : Rq) (idx sub v w : Nat) (p : Part), serving s.part → quiet s.part → vendorIdx idx = false → p = (if idx = 0x2104 then ivNow (renew rq s.part) else renew rq s.part) →
    w = (if 0x1310 ≤ idx ∧ idx < 0x1318 ∧ sub = 1 then unwrapped p rq v else v) → abortOf p rq idx sub w = none →
    (∀ r, checkWrite p rq idx sub w = .ok → lookup idx sub = some r → journalled r = false →
      ∃ q, q = { p with dict := q.dict, effOld := q.effOld } ∧ rd q idx sub = (if stores r = true then w else rd p idx sub) ∧ (r.frame = true → stores r = true → eff q idx sub = eff p idx sub) ∧
        ((idx, sub) ≠ (0x1110, 9) → rd q 0x1110 9 = (if epochEntry idx sub = true ∧ rq.cls = 1 then (rd p 0x1110 9 + 1) % 65536 else rd p 0x1110 9)) ∧ otherEntries [(idx, sub), (0x1110, 9)] p q ∧
        (idx ≠ 0x9000 ∨ (w ≠ 3 ∧ w ≠ 4) → exec (.dictionaryWrite rq idx sub v) s = .next { s with part := noteAck s.part.clk.rp (answerOk rq idx sub [] (commitAction rq idx sub w (rd p idx sub) q)) }) ∧
        (idx = 0x9000 → (w = 3 ∨ w = 4) → exec (.dictionaryWrite rq idx sub v) s = .next { s with part := commitAction rq idx sub w 0 (answerOk rq idx sub [] q) })) ∧
    (∀ r, lookup idx sub = some r → journalled r = true →
      (journalState s.part = 0 → checkWrite p rq idx sub w = .ok →
        ∃ q, exec (.dictionaryWrite rq idx sub v) s = .next { s with part := q } ∧
          q.svc = { p.svc with staged := some { rq, idx, sub, v := w, action := writeAction r, since := s.part.clk.rp } } ∧
          q = { p with dict := q.dict, svc := q.svc } ∧
          (r.acc ≠ .wl → q.dict = p.dict) ∧
          (r.acc = .wl → rd q idx (sub + 1) = wlUsed p idx sub + 1 ∧ otherEntries [(idx, sub + 1)] p q)) ∧
      (journalState s.part = 1 → exec (.dictionaryWrite rq idx sub v) s = .next { s with part := enqueue { rq, idx, sub, op := .write v, since := s.part.clk.rp } s.part }) ∧
      (journalState s.part = 2 → checkWrite p rq idx sub w = .ok → exec (.dictionaryWrite rq idx sub v) s = .next { s with part := refuse rq idx sub .journal p })) ∧
    (∀ c, c ≠ .ok → checkWrite p rq idx sub w = c → (∀ r, lookup idx sub = some r → journalled r = true → journalState s.part ≠ 1) →
      ∃ q, exec (.dictionaryWrite rq idx sub v) s = .next { s with part := q } ∧
        q.svc.answer = some { rq, idx, sub, code := c } ∧ rd q 0x1000 6 = satInc (rd p 0x1000 6) ∧
        rd q 0x1000 7 = idx * 2 ^ 24 + sub * 2 ^ 16 + c.code * 2 ^ 8 + rq.cls ∧
        (rq.sess = none → rq.path % 2 = 0 →
          q = { p with dict := q.dict, svc := { p.svc with answer := q.svc.answer } } ∧
            otherEntries [(0x1000, 6), (0x1000, 7), (0x4020, 6), (idx + 8, 4)] p q))

/-- R34, R421 to R423, R427, R428 and R437: a staged write whose commit mark is programmed, at its place or at the second one, commits: the value
is placed, the commit is counted in 1400h.04, an audit record of it is written, the front-end epoch follows a Custodian's write of an entry of R34, what the entry asks for follows, and it is
acknowledged, or, of a scheduled one, its pending entry is held; if neither is programmed the entry keeps its value,
the failure is counted in 1400h.05, the third in a row fails the journal, and the write is refused with JOURNAL. During compaction
writes wait; its end keeps, of an entry's values, those at the layout versions of the firmware in slots A and B. -/
def Obligations.JournalCommitsOrFails : Prop :=
  ∀ (s : State), serving s.part →
    (∀ dt ok retryOk, s.part.svc.staged = none ∨ journalState s.part = 1 → exec (.journalCommit dt ok retryOk) s = .next { s with part := advance dt s.part }) ∧
    (∀ (dt : Nat) (ok retryOk : Bool) (w : Staged) (r : Row), s.part.svc.staged = some w → s.part.svc.waiting = [] → lookup w.idx w.sub = some r → journalState s.part ≠ 1 →
      (∀ t, w.time = some t → (ok || retryOk) = true →
        exec (.journalCommit dt ok retryOk) s = .next { s with part := noteAck w.since (answerOk w.rq w.idx w.sub [] (holdScheduled { rq := w.rq, idx := w.idx, sub := w.sub, v := w.v, time := t }
          (advance dt { s.part with svc := { s.part.svc with staged := none, fails := 0 } }))) }) ∧
      (w.time = none → (ok || retryOk) = true → journalled r = true → stores r = true → w.idx ≠ 0x1400 → (w.idx, w.sub) ≠ (0x1110, 9) →
        ∃ q, exec (.journalCommit dt ok retryOk) s = .next { s with part := noteAck w.since (answerOk w.rq w.idx w.sub [] (commitAction w.rq w.idx w.sub w.v (rd s.part w.idx w.sub) q)) } ∧
          q = { s.part with clk := s.part.clk.run dt, dict := q.dict, effOld := q.effOld, svc := q.svc } ∧ q.svc.staged = none ∧ q.svc.fails = 0 ∧ journalled1 w.rq w.idx w.sub w.v s.part q ∧
          (r.frame = true → eff q w.idx w.sub = eff s.part w.idx w.sub) ∧
          rd q 0x1110 9 = (if epochEntry w.idx w.sub = true ∧ w.rq.cls = 1 then (rd s.part 0x1110 9 + 1) % 65536 else rd s.part 0x1110 9) ∧
          otherEntries [(w.idx, w.sub), (0x1400, 1), (0x1400, 2), (0x1400, 3), (0x1400, 4), (0x1110, 9)] s.part q) ∧
      ((ok || retryOk) = false → ∃ q, exec (.journalCommit dt ok retryOk) s = .next { s with part := refuse w.rq w.idx w.sub .journal q } ∧
        q = { s.part with clk := s.part.clk.run dt, dict := q.dict, svc := q.svc, pow := q.pow, upd := q.upd } ∧
        q.svc = { s.part.svc with staged := none, fails := s.part.svc.fails + 1 } ∧ rd q 0x1400 5 = satInc (rd s.part 0x1400 5) ∧
        (2 ≤ s.part.svc.fails → journalState q = 2) ∧ (s.part.svc.fails < 2 → journalState q = journalState s.part) ∧
        otherEntries [(0x1400, 5), (0x1400, 7)] s.part q)) ∧
    (journalState s.part ≠ 0 → exec .compactionStart s = .next s) ∧
    (journalState s.part = 0 → ∃ q, exec .compactionStart s = .next { s with part := q } ∧ q = { s.part with dict := q.dict, upd := q.upd } ∧ journalState q = 1 ∧
      (s.part.upd.trial = false → q.upd = s.part.upd) ∧ otherEntries [(0x1400, 7)] s.part q) ∧
    (journalState s.part ≠ 1 → exec .compactionDone s = .next s) ∧
    (journalState s.part = 1 → s.part.svc.waiting = [] → tasc none s.part.svc.journal = true →
      ∃ q, exec .compactionDone s = .next { s with part := q } ∧ q = { s.part with dict := q.dict, svc := { s.part.svc with journal := q.svc.journal }, upd := q.upd } ∧
        journalState q = 0 ∧ otherEntries [(0x1400, 7)] s.part q ∧
        ∀ k x, x ∈ tget [] q.svc.journal k ↔ x ∈ keptLayouts s.part k (tget [] s.part.svc.journal k))

/-- R431 to R433: a DOMAIN write that passes its checks begins a transfer of its session, at most the entry's elements and over the service bus, and any other is refused;
each segment at the next offset extends it and is answered with the words held, one that repeats what is held is answered so too, one that contradicts it fails the transfer with cause 2, and one past the end, after a gap or of no transfer is refused with TRANSFER; 1 s without a segment fails it
with cause 1; an abort of one that runs goes to its commit arbiter. -/
def Obligations.TransfersBeginExtendAndEnd : Prop :=
  ∀ (s : State) (rq : Rq) (idx sub i : Nat) (p : Part), serving s.part → idx ≠ 0x2104 → i = instanceOf rq → p = renew rq s.part →
    (∀ (total : Nat) (r : Row), quiet s.part → checkDomain p rq idx sub true = .ok → lookup idx sub = some r →
      (total ≤ r.len → beginBusy p rq idx sub = false → rq.path < 2 →
        ∃ q, exec (.domainWriteBegin rq idx sub total) s = .next { s with part := answerOk rq idx sub [] q } ∧
          q = { p with svc := { p.svc with transfers := q.svc.transfers, inst := q.svc.inst } } ∧
          transferOf q i = some { rq, idx, sub, total, last := s.part.clk.rp, full := total == 0 } ∧
          instOf q i 1 = idx * 2 ^ 16 + sub * 2 ^ 8 ∧ instOf q i 2 = 1 ∧ instOf q i 3 = 0 ∧ instOf q i 4 = 0 ∧ instOf q i 5 = total) ∧
      (∀ c, (r.len < total ∧ c = .badValue) ∨ (total ≤ r.len ∧ beginBusy p rq idx sub = true ∧ c = .busy) ∨ (total ≤ r.len ∧ beginBusy p rq idx sub = false ∧ 2 ≤ rq.path ∧ c = .rule) →
        exec (.domainWriteBegin rq idx sub total) s = .next { s with part := refuse rq idx sub c p })) ∧
    (∀ (off : Nat) (ws : List Nat), quiet s.part → checkDomain p rq idx sub true = .ok →
      (ws = [] ∨ 128 < ws.length → exec (.domainWriteSegment rq idx sub off ws) s = .next { s with part := refuse rq idx sub .badValue p }) ∧
      (ws ≠ [] → ws.length ≤ 128 → 2 ≤ rq.path → exec (.domainWriteSegment rq idx sub off ws) s = .next { s with part := refuse rq idx sub .rule p }) ∧
      (ws ≠ [] → ws.length ≤ 128 → rq.path < 2 →
        ((∀ t, takingTransfer p i = some t → t.idx ≠ idx ∨ t.sub ≠ sub) → exec (.domainWriteSegment rq idx sub off ws) s = .next { s with part := refuse rq idx sub .transfer p }) ∧
        (∀ t h, takingTransfer p i = some t → t.idx = idx → t.sub = sub → (∀ w ∈ ws, w < 2 ^ 20) → h = t.words.length →
          (off = h → h + ws.length ≤ t.total →
            ∃ q, exec (.domainWriteSegment rq idx sub off ws) s = .next { s with part := answerOk rq idx sub [h + ws.length] q } ∧
              q = { p with svc := { p.svc with transfers := q.svc.transfers, inst := q.svc.inst } } ∧
              transferOf q i = some { t with words := t.words ++ ws, last := s.part.clk.rp, full := h + ws.length == t.total } ∧ instOf q i 4 = h + ws.length) ∧
          (off + ws.length ≤ h → (t.words.drop off).take ws.length = ws →
            ∃ q, exec (.domainWriteSegment rq idx sub off ws) s = .next { s with part := answerOk rq idx sub [h] q } ∧ q = { p with svc := { p.svc with transfers := q.svc.transfers } } ∧ transferOf q i = some { t with last := s.part.clk.rp }) ∧
          (off < h → (t.words.drop off).take ws.length ≠ ws.take (h - off) → instOf p i 2 = 1 → arbOf p (transferOp i) = [] →
            exec (.domainWriteSegment rq idx sub off ws) s = .next { s with part := refuse rq idx sub .transfer { p with fab := { p.fab with arb := p.fab.arb ++ [(transferOp i, { kind := .failure 2 })] } } }) ∧
          ((off = h ∧ t.total < h + ws.length) ∨ h < off →
            ∃ q, exec (.domainWriteSegment rq idx sub off ws) s = .next { s with part := refuse rq idx sub .transfer q } ∧ q = { p with svc := { p.svc with transfers := q.svc.transfers } } ∧
              transferOf q i = some { t with last := s.part.clk.rp })))) ∧
    (∀ (j : Fin 8), ((∀ t, transferOf s.part j = some t → t.full = true) → exec (.domainTransferTimeout j) s = .next s) ∧
      (∀ t, transferOf s.part j = some t → t.full = false →
        ∃ q, exec (.domainTransferTimeout j) s = .next { s with part := q } ∧ q = { s.part with clk := q.clk, fab := { s.part.fab with arb := q.fab.arb } } ∧ q.clk.rp = max s.part.clk.rp (t.last + secRp) ∧
          q.fab.arb = s.part.fab.arb ++ (if instOf s.part j 2 = 1 ∧ unsettled s.part (.transfer j) = true then [(.transfer j, { kind := .failure 1 })] else []))) ∧
    (∀ (j : Fin 8) t c, transferOf s.part j = some t → arbOf s.part (.transfer j) = [{ kind := .failure c }] →
      ∃ q, exec (.commitArbiterGrant (.transfer j) 0) s = .next { s with part := q } ∧ transferOf q j = none ∧ instOf q j 2 = 4 ∧ instOf q j 3 = c ∧ arbOf q (.transfer j) = [] ∧ q.upd = s.part.upd ∧ q.acq = s.part.acq ∧
        ∀ k : Fin 8, k ≠ j → transferOf q k = transferOf s.part k) ∧
    (quiet s.part → checkWrite p rq 0x1420 6 2 = .ok →
      (instOf p i 2 = 1 → exec (.domainTransferAbort rq) s = .next { s with part := raise (transferOp i) { kind := .abort, rqs := [rq] } p }) ∧
      (instOf p i 2 = 6 → exec (.domainTransferAbort rq) s = .next { s with part := answerOk rq 0x1420 6 [] p }) ∧
      (instOf p i 2 ≠ 1 → instOf p i 2 ≠ 6 → exec (.domainTransferAbort rq) s = .next { s with part := answerOk rq 0x1420 6 [] (bump 0x1230 1 p) }))

/-- R428, R431, R433 and R480: the complete value of a delta for 9010h that is well formed raises completion with the journal's mark, and at its grant the staging area holds it,
the transfer is DONE, the commit is counted and its audit record has action 3; one that is not well formed, or that the journal does not take, raises a failure
and leaves the staging area. A read segment of a DOMAIN entry returns its offset and words of the session's snapshot, which is released with
its last word, or after 1 s. -/
def Obligations.DomainValuesCommitAndAreRead : Prop :=
  ∀ (s : State), serving s.part →
    (∀ (i : Fin 8) (t : Transfer) ok, transferOf s.part i = some t →
      (t.idx ≠ 0x9010 ∨ t.full = false ∨ journalState s.part = 1 ∨ unsettled s.part (.transfer i) = false → exec (.domainTransferCommit i ok) s = .next s) ∧
      (t.idx = 0x9010 → t.full = true → journalState s.part ≠ 1 → unsettled s.part (.transfer i) = true →
        (∀ k, (stagingOk t.words = false ∧ k = .failure 3) ∨ (stagingOk t.words = true ∧ journalState s.part = 2 ∧ k = .failure 4) ∨ (stagingOk t.words = true ∧ journalState s.part ≠ 2 ∧ ok = true ∧ k = .completion) →
          exec (.domainTransferCommit i ok) s = .next { s with part := { s.part with fab := { s.part.fab with arb := s.part.fab.arb ++ [(.transfer i, { kind := k })] } } }) ∧
        (stagingOk t.words = true → journalState s.part ≠ 2 → ok = false →
          ∃ q, exec (.domainTransferCommit i ok) s = .next { s with part := q } ∧ q.fab.arb = s.part.fab.arb ++ [(.transfer i, { kind := .failure 4 })] ∧ q.svc.fails = s.part.svc.fails + 1 ∧
            rd q 0x1400 5 = satInc (rd s.part 0x1400 5) ∧ otherEntries [(0x1400, 5), (0x1400, 7)] s.part q))) ∧
    (∀ (i : Fin 8), transferOf s.part i = none → ∀ ok, exec (.domainTransferCommit i ok) s = .next s) ∧
    (∀ (i : Fin 8) (t : Transfer), transferOf s.part i = some t → t.idx = 0x9010 → stagingOk t.words = true → arbOf s.part (.transfer i) = [{ kind := .completion }] →
      ∃ q, exec (.commitArbiterGrant (.transfer i) 0) s = .next { s with part := q } ∧ q = { s.part with dict := q.dict, fab := { s.part.fab with arb := q.fab.arb }, svc := q.svc, upd := q.upd } ∧
        transferOf q i = none ∧ instOf q i 2 = 2 ∧ instOf q i 3 = 0 ∧ arbOf q (.transfer i) = [] ∧ q.svc.fails = 0 ∧
        q.upd = { s.part.upd with staged := (elementOctets t.words).take (64 + fieldAt (elementOctets t.words) 44 4) } ∧
        rd q 0x9011 1 = 64 + fieldAt (elementOctets t.words) 44 4 ∧ rd q 0x9011 2 = (elementOctets t.words).getD 5 0 + 1 ∧
        rd q 0x1400 4 = satInc (rd s.part 0x1400 4) ∧
        (∃ r, q.svc.audit.head? = some r ∧ r.num = s.part.svc.nextRec ∧ r.action = 3 ∧ r.idx = 0x9010 ∧ r.sub = t.sub ∧ r.cls = t.rq.cls ∧ r.len = t.words.length) ∧
        otherEntries [(0x9011, 1), (0x9011, 2), (0x1400, 1), (0x1400, 2), (0x1400, 3), (0x1400, 4)] s.part q) ∧
    (∀ (rq : Rq) (idx sub off n : Nat) p snap, idx ≠ 0x2104 → quiet s.part → p = renew rq s.part → checkDomain p rq idx sub false = .ok → snap = snapshotFor p rq idx sub →
      (n = 0 ∨ 128 < n → exec (.domainReadSegment rq idx sub off n) s = .next { s with part := refuse rq idx sub .badValue p }) ∧
      (0 < n → n ≤ 128 →
        ∃ q, exec (.domainReadSegment rq idx sub off n) s = .next { s with part := if off + n ≤ snap.length then answerOk rq idx sub (off :: (snap.drop off).take n) q else refuse rq idx sub .transfer q } ∧
          q = { p with svc := { p.svc with snaps := q.svc.snaps } } ∧
          tget none q.svc.snaps (instanceOf rq) = (if off + n = snap.length then none else some { idx, sub, words := snap, last := s.part.clk.rp }))) ∧
    (∀ (i : Fin 8), (tget none s.part.svc.snaps i = none → exec (.snapshotTimeout i) s = .next s) ∧
      (∀ x, tget none s.part.svc.snaps i = some x →
        ∃ q, exec (.snapshotTimeout i) s = .next { s with part := q } ∧ q.clk.rp = max s.part.clk.rp (x.last + secRp) ∧
          q = { s.part with clk := q.clk, svc := { s.part.svc with snaps := q.svc.snaps } } ∧ tget none q.svc.snaps i = none ∧
          ∀ j : Fin 8, j ≠ i → tget none q.svc.snaps j = tget none s.part.svc.snaps j))

/-- R437: a scheduled write that passes its checks, for a time that has not passed and with fewer than 16 pending, is held in the order of times
and answered, one of a journalled entry once the journal has it; for a time that has passed, or as a seventeenth, it is refused with SCHEDULE. At its time it is checked again and commits,
what its entry asks for with it, with an audit record of action 6, or its refusal is recorded, and it is not answered. -/
def Obligations.ScheduledWritesCommitAtTheirTime : Prop :=
  ∀ (s : State), serving s.part →
    (∀ (rq : Rq) (idx sub time v w : Nat) (r : Row) p, quiet s.part → idx ≠ 0x2104 → p = renew rq s.part → checkWrite p rq idx sub v = .ok → lookup idx sub = some r → vendorIdx idx = false → time < 2 ^ 80 →
      (journalled r = true → journalState s.part ≠ 1) → w = (if 0x1310 ≤ idx ∧ idx < 0x1318 ∧ sub = 1 then unwrapped p rq v else v) →
      (diffMod 80 time (now s.part) < 0 ∨ 16 ≤ s.part.svc.scheduled.length →
        exec (.scheduledWrite rq idx sub time v) s = .next { s with part := refuse rq idx sub .schedule p }) ∧
      (0 ≤ diffMod 80 time (now s.part) → s.part.svc.scheduled.length < 16 →
        (journalled r = false →
          exec (.scheduledWrite rq idx sub time v) s = .next { s with part := answerOk rq idx sub [] { p with svc := { p.svc with scheduled := insertScheduled { rq, idx, sub, v := w, time } s.part.svc.scheduled } } }) ∧
        (journalled r = true → journalState s.part = 2 → exec (.scheduledWrite rq idx sub time v) s = .next { s with part := refuse rq idx sub .journal p }) ∧
        (journalled r = true → journalState s.part = 0 →
          exec (.scheduledWrite rq idx sub time v) s = .next { s with part := { p with svc := { p.svc with staged := some { rq, idx, sub, v := w, action := 6, since := s.part.clk.rp, time := some time } } } }))) ∧
    (∀ ok retryOk, s.part.svc.scheduled = [] → exec (.scheduledCommit ok retryOk) s = .next s) ∧
    (∀ ok retryOk (w : Scheduled) (l : List Scheduled) p, s.part.svc.scheduled = w :: l → p = advanceTo w.time { s.part with svc := { s.part.svc with scheduled := l } } →
      (∀ r, lookup w.idx w.sub = some r → journalled r = true → journalState s.part = 1 → exec (.scheduledCommit ok retryOk) s = .next s) ∧
      ((∀ r, lookup w.idx w.sub = some r → journalled r = true → journalState s.part ≠ 1) →
        (∀ c, c ≠ .ok → checkWrite p w.rq w.idx w.sub w.v = c → exec (.scheduledCommit ok retryOk) s = .next { s with part := ownRefusal w.idx w.sub c (noteRefusal w.rq w.idx w.sub c p) }) ∧
        (checkWrite p w.rq w.idx w.sub w.v = .ok →
          (∀ op st undo, abortOf p w.rq w.idx w.sub w.v = some (op, st, undo) →
            exec (.scheduledCommit ok retryOk) s = .next { s with part := if st = 1 then raise op { kind := .abort } p else if st = 6 then undo p else bump 0x1230 1 p }) ∧
          (∀ r, abortOf p w.rq w.idx w.sub w.v = none → lookup w.idx w.sub = some r →
            (journalled r = false ∨ (journalState s.part ≠ 2 ∧ (ok || retryOk) = true) → w.idx ≠ 0x1400 → (w.idx, w.sub) ≠ (0x1110, 9) →
              ∃ q, exec (.scheduledCommit ok retryOk) s = .next { s with part := commitAction w.rq w.idx w.sub w.v (rd s.part w.idx w.sub) q } ∧ q = { p with dict := q.dict, effOld := q.effOld, svc := q.svc } ∧
                q.svc.scheduled = l ∧ q.svc.answer = s.part.svc.answer ∧ (stores r = true → rd q w.idx w.sub = w.v) ∧
                (∃ a, q.svc.audit.head? = some a ∧ a.num = s.part.svc.nextRec ∧ a.action = 6 ∧ a.idx = w.idx ∧ a.sub = w.sub ∧ a.cls = w.rq.cls) ∧
                otherEntries [(w.idx, w.sub), (w.idx, w.sub + 1), (0x1400, 1), (0x1400, 2), (0x1400, 3), (0x1400, 4), (0x1110, 9)] s.part q) ∧
            (journalled r = true → journalState s.part = 2 → exec (.scheduledCommit ok retryOk) s = .next { s with part := noteRefusal w.rq w.idx w.sub .journal p }) ∧
            (journalled r = true → journalState s.part ≠ 2 → (ok || retryOk) = false → r.acc ≠ .wl →
              ∃ q, exec (.scheduledCommit ok retryOk) s = .next { s with part := noteRefusal w.rq w.idx w.sub .journal q } ∧ q.svc.fails = s.part.svc.fails + 1 ∧ rd q 0x1400 5 = satInc (rd s.part 0x1400 5) ∧
                otherEntries [(0x1400, 5), (0x1400, 7)] s.part q)))))

/-- R438, R439, R442 and R470: a crown report is formed at its time from the part's crown values, and a part with an address sends its CROWN frame by an uplink, or queues it
on the bus; a Bough keeps the last report of each child, and one that passes 1,000 ms of age is stale, as is a child that has sent none for 1,000 ms; an evaluation of health
keeps the temperature, the conditions and the level they give under the mask. -/
def Obligations.CrownReportsAndHealth : Prop :=
  ∀ (s : State), serving s.part →
    (∃ q f, exec .crownReport s = .next { s with part := q } ∧ q.svc.reportAt = q.clk.rp ∧ q.clk.rp = max s.part.clk.rp (s.part.svc.reportAt + 100 * msRp) ∧
      q.svc.report = some f ∧ f = { addr := ownAddr s.part, tier := ownTier s.part, time := now q, vals := crownNow (advanceRp (s.part.svc.reportAt + 100 * msRp) s.part) } ∧
      (addressed s.part = false → q = { s.part with clk := q.clk, svc := { s.part.svc with report := q.svc.report, reportAt := q.svc.reportAt } }) ∧
      (addressed s.part = true → reportPath s.part = none → s.part.svc.bus.up.length < 16 →
        q.svc.bus = { s.part.svc.bus with up := s.part.svc.bus.up ++ [(crownFrame f).octets] } ∧ q.dict = s.part.dict) ∧
      (∀ k, addressed s.part = true → reportPath s.part = some k → (link s.part k).mgmt = [] → linkStopped s.part k = false →
        (link q k).mgmt = framePackets (crownFrame f).octets ∧ q.dict = s.part.dict)) ∧
    (∀ (k : Fin 16) (tier addr time : Nat) (vals : List Nat), (isBough s.part = false → exec (.crownReceived k tier addr time vals) s = .next s) ∧
      (isBough s.part = true →
        ∃ q, exec (.crownReceived k tier addr time vals) s = .next { s with part := q } ∧ q = { s.part with svc := { s.part.svc with crowns := q.svc.crowns } } ∧
          tget none q.svc.crowns k = some { addr, tier, time := time % 2 ^ 80, vals := (List.range 34).map fun i => vals.getD i 0 } ∧
          ∀ j, j ≠ k.val → tget none q.svc.crowns j = tget none s.part.svc.crowns j)) ∧
    (∀ (k : Fin 16),
      (tget none s.part.svc.crowns k = none → tget none s.part.svc.crownFrom k = none → exec (.crownStale k) s = .next s) ∧
      (∀ t, tget none s.part.svc.crowns k = none → tget none s.part.svc.crownFrom k = some t →
        ∃ q, exec (.crownStale k) s = .next { s with part := q } ∧ q = { s.part with clk := q.clk } ∧ q.clk.rp = max s.part.clk.rp (t + secRp)) ∧
      (∀ r, tget none s.part.svc.crowns k = some r → 0 < s.part.clk.incr → s.part.clk.incr ≤ 2 ^ 40 → s.part.clk.fx < 2 ^ 112 →
        r.time ≤ now s.part → now s.part ≤ r.time + staleTk → r.time + staleTk + 2 ^ 20 < 2 ^ 79 →
        ∃ q, exec (.crownStale k) s = .next { s with part := q } ∧ q = { s.part with clk := q.clk } ∧ staleTk < reportAge q r)) ∧
    (∀ temp : Nat, ∃ q c, exec (.healthEvaluation temp) s = .next { s with part := q } ∧ c = maskOf (conditions (wr 0x1000 4 (temp % 2 ^ 20) (advanceRp (s.part.svc.healthAt + 100 * msRp) { s.part with svc := { s.part.svc with healthAt := max s.part.clk.rp (s.part.svc.healthAt + 100 * msRp) } }))) ∧
      rd q 0x1000 4 = temp % 2 ^ 20 ∧ rd q 0x1000 2 = c ∧ rd q 0x1000 1 = levelOf c (rd s.part 0x1000 3) ∧ q.svc.healthAt = q.clk.rp ∧ q.clk.rp = max s.part.clk.rp (s.part.svc.healthAt + 100 * msRp))

/-! ### The service bus and sessions (R444 to R472) -/

/-- R446 to R449: the octets of every frame with a kind of R449, bit 3 of its flags clear and a body of at most 512 octets are read back as that frame, and
octets that are read as a frame are the octets of that frame, check included. -/
def Obligations.FramesComeBack : Prop :=
  (∀ f : Frame, f.kind ∈ downKinds ++ upKinds → f.flags < 256 → bit f.flags 3 = false → f.addr < 2 ^ 20 → f.host < 16 → f.sess < 16 →
    f.body.length ≤ 512 → (∀ o ∈ f.body, o < 256) → frameOf f.octets = some f) ∧
  (∀ (os : List Nat) (f : Frame), frameOf os = some f → f.octets = os)

/-- R446 to R448, R453 and R454: a frame that is none (its check, its kind or a reserved bit is wrong), or that goes the wrong way, is discarded without an answer and counted in 1301h.01, and one that claims more than 512 octets in 1301h.08, by the bus or, where frames in band are enabled, in band; a slave passes over what other slaves answer on the segment; a Bough relays a downward
frame for its crown to the child's path and notes it in its relay table, or answers UNREACHABLE where the child has no path (cause 1, counted in
1301h.07) or the table is full (cause 2, counted in 1301h.04); an upward frame that answers an entry of the table goes back the way the entry names, and frees it, and one that answers none goes up;
an entry is dropped when it is 200 ms old. -/
def Obligations.FramesFindTheirWay : Prop :=
  ∀ (s : State), serving s.part →
    (∀ (via : Option (Fin 18)) (os : List Nat),
      (via ≠ none → rd s.part 0x1300 5 = 0 → exec (.busFrameReceived via os) s = .next s) ∧
      (via = none ∨ rd s.part 0x1300 5 ≠ 0 →
        (512 < claimedLength os → exec (.busFrameReceived via os) s = .next { s with part := bump 0x1301 8 s.part }) ∧
        (claimedLength os ≤ 512 → frameOf os = none → exec (.busFrameReceived via os) s = .next { s with part := bump 0x1301 1 s.part }) ∧
        (∀ f, claimedLength os ≤ 512 → frameOf os = some f → f.kind ∈ upKinds → f.up = true →
          exec (.busFrameReceived via os) s = .next { s with part := if via = none then s.part else bump 0x1301 1 s.part }) ∧
        (∀ f, claimedLength os ≤ 512 → frameOf os = some f → (f.kind ∈ upKinds ↔ f.up = false) →
          exec (.busFrameReceived via os) s = .next { s with part := bump 0x1301 1 s.part }))) ∧
    (∀ (via : Option (Fin 16)) (os : List Nat),
      (isBough s.part = false ∨ (via ≠ none ∧ rd s.part 0x1300 5 = 0) → exec (.upwardFrame via os) s = .next s) ∧
      (isBough s.part = true → via = none ∨ rd s.part 0x1300 5 ≠ 0 →
        (512 < claimedLength os → exec (.upwardFrame via os) s = .next { s with part := bump 0x1301 8 s.part }) ∧
        (claimedLength os ≤ 512 → frameOf os = none → exec (.upwardFrame via os) s = .next { s with part := bump 0x1301 1 s.part }) ∧
        (∀ f, claimedLength os ≤ 512 → frameOf os = some f → f.kind ∉ upKinds ∨ f.up = false → exec (.upwardFrame via os) s = .next { s with part := bump 0x1301 1 s.part }))) ∧
    (∀ (os : List Nat) (f : Frame) (e : Relay), frameOf os = some f → f.kind ∈ [kOpen, kProve, kRequest, kDiscover] → f.up = false → f.ser = false →
      isBough s.part = true → inCrown s.part f.addr f.tier = true → e = { origin := f.origin none, serial := 0, port := positionOf s.part f.addr, bus := true, since := s.part.clk.rp } →
      (pathTo s.part none (positionOf s.part f.addr) = some true → s.part.svc.bus.relays.length < 128 →
        exec (.busFrameReceived none os) s = .next { s with part := setBus { s.part.svc.bus with relays := s.part.svc.bus.relays ++ [e], sentDown := os } s.part }) ∧
      (pathTo s.part none (positionOf s.part f.addr) = some false → s.part.svc.bus.relays.length < 128 →
        exec (.busFrameReceived none os) s = .next { s with part := sendInBand (portAt s.part (positionOf s.part f.addr)) os (setBus { s.part.svc.bus with relays := s.part.svc.bus.relays ++ [{ e with bus := false }] } s.part) }) ∧
      (pathTo s.part none (positionOf s.part f.addr) = none →
        exec (.busFrameReceived none os) s = .next { s with part := bump 0x1301 7 (unreachable (f.origin none) 1 (positionOf s.part f.addr) s.part) }) ∧
      ((pathTo s.part none (positionOf s.part f.addr)).isSome = true → 128 ≤ s.part.svc.bus.relays.length →
        exec (.busFrameReceived none os) s = .next { s with part := bump 0x1301 4 (unreachable (f.origin none) 2 (positionOf s.part f.addr) s.part) })) ∧
    (∀ (via : Option (Fin 16)) (os : List Nat) (f : Frame), frameOf os = some f → f.up = true → isBough s.part = true → via = none ∨ rd s.part 0x1300 5 ≠ 0 → (via = none → s.part.svc.bus.polled = none) →
      (f.kind ∈ [kChallenge, kOpened, kResponse, kIdentity, kError, kUnreachable] →
        (∀ e, s.part.svc.bus.relays.find? (answers f) = some e →
          exec (.upwardFrame via os) s = .next { s with part := sendUp e.origin.via (withMore false os) (setBus { s.part.svc.bus with relays := s.part.svc.bus.relays.erase e } s.part) }) ∧
        (s.part.svc.bus.relays.find? (answers f) = none → exec (.upwardFrame via os) s = .next { s with part := sendUp (reportPath s.part) (withMore false os) s.part })) ∧
      (f.kind = kEmpty → exec (.upwardFrame via os) s = .next s)) ∧
    (∀ (os : List Nat) (f : Frame) (y : Polled) (polls : List (Nat × PollPos)), frameOf os = some f → f.kind ∈ upKinds → f.up = true → isBough s.part = true → s.part.svc.bus.polled = some y →
      polls = (match y.pos with | some n => tput {} s.part.svc.bus.polls n { last := some s.part.clk.rp, miss := 0, more := f.more } | none => s.part.svc.bus.polls) →
      exec (.upwardFrame none os) s = exec (.upwardFrame none os) { s with part := setBus { s.part.svc.bus with polled := none, polls } s.part }) ∧
    (s.part.svc.bus.relays = [] → exec .relayEntryTimeout s = .next s) ∧
    (∀ (e : Relay) (l : List Relay), s.part.svc.bus.relays = e :: l →
      ∃ q, exec .relayEntryTimeout s = .next { s with part := q } ∧
        q = { s.part with clk := q.clk, svc := { s.part.svc with bus := { s.part.svc.bus with relays := l } } } ∧ q.clk.rp = max s.part.clk.rp (e.since + 200 * msRp))

/-- R300, R304, R450, R451, R455 and R456: a POLL of the part takes the oldest upward frame, with MORE where others wait, or EMPTY; a master polls when no poll is unanswered, and 40 µs without a start bit
are a poll timeout, counted in 1301h.02 and against the position; a DISCOVER is answered by IDENTITY with the serial number; a management packet that the link's state does not allow, or that holds a poisoned word, is discarded and counted in 5120h + k.09 or .06; the packets of
a frame are collected from its first to its last, where the frame is received as from the bus, and one out of its place, or a frame whose check is wrong, is counted in 1301h.05. -/
def Obligations.PollingAndTheMirror : Prop :=
  ∀ (s : State) (b : Bus), serving s.part → b = s.part.svc.bus →
    (∀ o : Origin, (o.ser = false → addressed s.part = false → exec (.poll o) s = .next s) ∧ ((o.ser = true ∨ addressed s.part = true) →
      (∀ f l, b.up = f :: l → exec (.poll o) s = .next { s with part := setBus { b with up := l, sentUp := withMore (!l.isEmpty) f } s.part }) ∧
      (b.up = [] → exec (.poll o) s = .next { s with part := setBus { b with sentUp := (answerFrame o kEmpty [] s.part).octets } s.part }))) ∧
    (isBough s.part = false ∨ addressed s.part = false ∨ b.polled ≠ none ∨ pollNext s.part = none → exec .pollSend s = .next s) ∧
    (∀ x, isBough s.part = true → addressed s.part = true → b.polled = none → pollNext s.part = some x →
      ∃ q, exec .pollSend s = .next { s with part := q } ∧ q = setBus q.svc.bus { s.part with clk := q.clk } ∧
        (presses s.part x = false → pollDue s.part x.1 < q.clk.rp) ∧ s.part.clk.rp < q.clk.rp ∧
        q.svc.bus = { b with sentDown := (pollFrame s.part x).octets, polled := some { pos := x.2.1, serial := x.2.2, since := q.clk.rp }, polls := q.svc.bus.polls, turn := q.svc.bus.turn, idled := !presses s.part x } ∧
        (∀ n, x.2.1 = some n → (tget {} q.svc.bus.polls n : PollPos) = { (tget {} b.polls n : PollPos) with last := some q.clk.rp }) ∧
        (∀ n, x.2.1 ≠ some n → (tget {} q.svc.bus.polls n : PollPos) = tget {} b.polls n) ∧ q.svc.bus.turn = (if presses s.part x = true then x.1 else b.turn)) ∧
    (b.polled = none → exec .pollTimeout s = .next s) ∧
    (∀ y : Polled, b.polled = some y →
      ∃ q, exec .pollTimeout s = .next { s with part := q } ∧ q = setBus { b with polled := none, polls := q.svc.bus.polls } { s.part with clk := q.clk, dict := q.dict } ∧
        rd q 0x1301 2 = satInc (rd s.part 0x1301 2) ∧ q.clk.rp = max s.part.clk.rp (y.since + 40 * usRp) ∧
        (∀ n, y.pos = some n → (tget {} q.svc.bus.polls n : PollPos) = { (tget {} b.polls n : PollPos) with miss := min 3 ((tget {} b.polls n : PollPos).miss + 1), more := false }) ∧
        (∀ n, y.pos ≠ some n → (tget {} q.svc.bus.polls n : PollPos) = tget {} b.polls n) ∧ otherEntries [(0x1301, 2)] s.part q) ∧
    (∀ o : Origin, exec (.discover o) s = .next { s with part := sendUp o.via ({ kind := kIdentity, flags := 0xA0 + o.tier % 8, addr := o.addr, host := o.host, sess := o.sess, body := toOctets 8 (ownSerial s.part) ++ toOctets 3 (if addressed s.part then ownAddr s.part else 0) ++ [if addressed s.part then ownTier s.part else 0xFF, rd s.part 0x1020 3, rd s.part 0 4, rd s.part 0 7] } : Frame).octets s.part }) ∧
    (∀ (k : Fin 18) (pois : Bool) (ws : List Nat),
      (takesManagement s.part k = false → exec (.managementPacket k pois ws) s = .next { s with part := bump (0x5120 + k) 9 s.part }) ∧
      (takesManagement s.part k = true → pois = true → exec (.managementPacket k pois ws) s = .next { s with part := bump (0x5120 + k) 6 s.part }) ∧
      (takesManagement s.part k = true → pois = false → (rd s.part 0x1300 5 = 0 ∨ bits (ws.headD 0) 19 16 ≠ 5 ∨ bit (ws.headD 0) 13 = true) → exec (.managementPacket k pois ws) s = .next s)) ∧
    (∀ (k : Fin 18) (h : Nat) (ws got have_ : List Nat) (t : Part), takesManagement s.part k = true → rd s.part 0x1300 5 ≠ 0 → bits h 19 16 = 5 → bit h 13 = false →
      got = packetOctets h (ws.take (bits h 4 0)) → have_ = tget [] b.asm k → t = (if have_ = [] then s.part else bump 0x1301 5 s.part) →
      (bits h 15 14 = 1 → exec (.managementPacket k false (h :: ws)) s = .next { s with part := setAsm k got t }) ∧
      (2 ≤ bits h 15 14 → have_ = [] → exec (.managementPacket k false (h :: ws)) s = .next { s with part := bump 0x1301 5 s.part }) ∧
      (bits h 15 14 = 2 → have_ ≠ [] → exec (.managementPacket k false (h :: ws)) s = .next { s with part := setAsm k (have_ ++ got) s.part }) ∧
      (∀ os t', (bits h 15 14 = 0 ∧ os = got ∧ t' = t) ∨ (bits h 15 14 = 3 ∧ have_ ≠ [] ∧ os = have_ ++ got ∧ t' = s.part) →
        (os.drop (os.length - 4) ≠ toOctets 4 (crc32 (os.take (os.length - 4))) → exec (.managementPacket k false (h :: ws)) s = .next { s with part := bump 0x1301 5 (setAsm k [] t') }) ∧
        (os.drop (os.length - 4) = toOctets 4 (crc32 (os.take (os.length - 4))) → 16 ≤ k.val → exec (.managementPacket k false (h :: ws)) s = exec (.busFrameReceived (some k) os) { s with part := setAsm k [] t' }) ∧
        (∀ j : Fin 16, os.drop (os.length - 4) = toOctets 4 (crc32 (os.take (os.length - 4))) → j.val = k.val →
          exec (.managementPacket k false (h :: ws)) s = exec (.upwardFrame (some j) os) { s with part := setAsm k [] t' })))

/-- R460 to R463 and R467: an OPEN against an enabled slot that is not locked challenges the lowest free session, and a refused one is answered with its status and counted in
1330h.03, after the requests before it; the right PROVE opens the session with fresh instances, a wrong one closes it and is counted against the slot, the fourth in 10 s
locking it; 1 s without PROVE, the idle time, a write of its id to 1330h.01, and its own request to close, close a session, whose entries are cleared and whose transfer fails with cause 1; a lockout ends; a key that is written closes
every open session of its slot and no other one. -/
def Obligations.SessionsOpenAndClose : Prop :=
  ∀ (s : State), serving s.part →
    (∀ (o : Origin) (slot : Nat) (nonce nh : List Nat), nh = (nonce.map (· % 256)).take 16 →
      (¬ quiet s.part → exec (.openSession o slot nonce) s = .next { s with part := enqueue { rq := { cls := 0 }, idx := slot, sub := 0, op := .openSlot nh o, since := s.part.clk.rp } s.part }) ∧
      (quiet s.part → openStatus s.part slot ≠ 0 →
        exec (.openSession o slot nonce) s = .next { s with part := sessionError o (openStatus s.part slot) 0 (bump 0x1330 3 s.part) }) ∧
      (∀ i, quiet s.part → openStatus s.part slot = 0 → (List.range 8).find? (sessionFree s.part) = some i →
        ∃ q np, exec (.openSession o slot nonce) s = .next { s with part := answer { o with sess := i } kChallenge ([slot, i, slotClass s.part slot] ++ np) q } ∧
          q = { s.part with dict := q.dict, free := s.part.free + 1, svc := { s.part.svc with sessions := q.svc.sessions } } ∧ np.length = 16 ∧ session q i = { origin := o, nh, np, since := s.part.clk.rp } ∧
          sessSt q i = 1 ∧ rd q (0x1320 + i) 2 = slot ∧ rd q (0x1320 + i) 3 = slotClass s.part slot ∧ rd q (0x1320 + i) 4 = o.host ∧
          (∀ j, j ≠ i → session q j = session s.part j) ∧ otherEntries [(0x1320 + i, 1), (0x1320 + i, 2), (0x1320 + i, 3), (0x1320 + i, 4)] s.part q)) ∧
    (∀ (o : Origin) (slot : Nat) (i : Fin 8) (proof pr m : List Nat), pr = proof.map (· % 256) → m = openMessage s.part slot i (session s.part i).nh (session s.part i).np →
      (sessSt s.part i ≠ 1 ∨ rd s.part (0x1320 + i) 2 ≠ slot → exec (.prove o slot i proof) s = .next { s with part := sessionError o 1 0 s.part }) ∧
      (sessSt s.part i = 1 → rd s.part (0x1320 + i) 2 = slot → pr = hmac (slotKey s.part slot) (strOpen ++ m) →
        ∃ q, exec (.prove o slot i proof) s = .next { s with part := answer { o with sess := i } kOpened (slot :: hmac (slotKey s.part slot) (strAcpt ++ m)) q } ∧
          session q i = { session s.part i with origin := o, key := hmac (slotKey s.part slot) (strSkey ++ m), since := s.part.clk.rp, busy := none, last := [] } ∧
          sessSt q i = 2 ∧ rd q (0x1320 + i) 5 = 0 ∧ rd q (0x1320 + i) 6 = now s.part ∧ rd q 0x1330 2 = satInc (rd s.part 0x1330 2) ∧
          transferOf q i = none ∧ tget none q.svc.snaps i = none ∧ (∀ k ∈ [1, 2, 3, 4, 5], instOf q i k = 0) ∧ (∀ j : Fin 8, j ≠ i → session q j = session s.part j ∧ transferOf q j = transferOf s.part j) ∧
          otherEntries [(0x1320 + i, 1), (0x1320 + i, 5), (0x1320 + i, 6), (0x1330, 2)] s.part q) ∧
      (sessSt s.part i = 1 → rd s.part (0x1320 + i) 2 = slot → slot < 8 → pr ≠ hmac (slotKey s.part slot) (strOpen ++ m) →
        ∃ q l, exec (.prove o slot i proof) s = .next { s with part := sessionError o 2 0 q } ∧ l = (tget [] s.part.svc.badProofs slot).filter (fun t => decide (s.part.clk.rp < t + 10 * secRp)) ∧
          session q i = {} ∧ sessSt q i = 0 ∧ rd q (0x1320 + i) 2 = 0xFF ∧ (∀ k ∈ [3, 4, 5, 6], rd q (0x1320 + i) k = 0) ∧ rd q (0x1310 + slot) 5 = satInc (rd s.part (0x1310 + slot) 5) ∧
          (l.length < 3 → tget [] q.svc.badProofs slot = s.part.clk.rp :: l ∧ q.svc.locked = s.part.svc.locked ∧ rd q (0x1310 + slot) 6 = rd s.part (0x1310 + slot) 6) ∧
          (3 ≤ l.length → tget none q.svc.locked slot = some s.part.clk.rp ∧ tget [] q.svc.badProofs slot = [] ∧ rd q (0x1310 + slot) 6 = satInc (rd s.part (0x1310 + slot) 6)) ∧
          (∀ j : Fin 8, j ≠ i → session q j = session s.part j ∧ sessSt q j = sessSt s.part j))) ∧
    (∀ i : Fin 8, (sessSt s.part i ≠ 1 → exec (.challengeTimeout i) s = .next s) ∧ (sessSt s.part i = 1 →
      ∃ q, exec (.challengeTimeout i) s = .next { s with part := q } ∧ q = { s.part with clk := q.clk, dict := q.dict, svc := { s.part.svc with sessions := q.svc.sessions } } ∧
        q.clk.rp = max s.part.clk.rp ((session s.part i).since + secRp) ∧ session q i = {} ∧ sessSt q i = 0 ∧ rd q (0x1320 + i) 2 = 0xFF ∧ (∀ k ∈ [3, 4, 5, 6], rd q (0x1320 + i) k = 0) ∧
        otherEntries ([1, 2, 3, 4, 5, 6].map fun k => (0x1320 + i.val, k)) s.part q)) ∧
    (∀ (p q : Part) (i : Fin 8), q = closeSession i p → (sessSt p i = 0 → q = p) ∧ (sessSt p i ≠ 0 →
      q = { p with dict := q.dict, fab := { p.fab with arb := q.fab.arb }, svc := { p.svc with sessions := q.svc.sessions, snaps := q.svc.snaps } } ∧
        sessSt q i = 0 ∧ rd q (0x1320 + i) 2 = 0xFF ∧ (∀ k ∈ [3, 4, 5, 6], rd q (0x1320 + i) k = 0) ∧ tget none q.svc.snaps i = none ∧
        session q i = (if (session p i).busy.isSome then session p i else {}) ∧
        q.fab.arb = p.fab.arb ++ (if sessSt p i = 2 ∧ instOf p i 2 = 1 ∧ unsettled p (.transfer i) = true then [(.transfer i, { kind := .failure 1 })] else []) ∧
        (∀ j : Fin 8, j ≠ i → session q j = session p j ∧ tget none q.svc.snaps j = tget none p.svc.snaps j) ∧ otherEntries ([1, 2, 3, 4, 5, 6].map fun k => (0x1320 + i.val, k)) p q)) ∧
    (∀ i : Fin 8, (sessSt s.part i ≠ 2 → exec (.sessionIdleTimeout i) s = .next s) ∧ (sessSt s.part i = 2 →
      ∃ ck, exec (.sessionIdleTimeout i) s = .next { s with part := closeSession i (bump 0x1330 6 { s.part with clk := ck }) } ∧ ck.rp = max s.part.clk.rp ((session s.part i).since + rd s.part 0x1300 3 * secRp))) ∧
    (∀ (rq : Rq) (i : Fin 8) (p : Part), p = renew rq s.part →
      (¬ quiet s.part → exec (.sessionCloseWrite rq i) s = .next { s with part := enqueue { rq, idx := 0x1330, sub := 1, op := .write i, since := s.part.clk.rp } s.part }) ∧
      (quiet s.part → checkWrite p rq 0x1330 1 i = .ok → exec (.sessionCloseWrite rq i) s = .next { s with part := answerOk rq 0x1330 1 [] (closeSession i p) }) ∧
      (∀ c, quiet s.part → c ≠ .ok → checkWrite p rq 0x1330 1 i = c → exec (.sessionCloseWrite rq i) s = .next { s with part := refuse rq 0x1330 1 c p })) ∧
    (∀ rq : Rq, quiet s.part →
      (∀ i : Fin 8, rq.sess = some i.val → exec (.closeSession rq) s = .next { s with part := closeSession i (answerOk rq 0 0 [] (renew rq s.part)) }) ∧
      (rq.sess = none → exec (.closeSession rq) s = .next { s with part := answerOk rq 0 0 [] s.part })) ∧
    (∀ (k : Fin 8), (tget none s.part.svc.locked k = none → exec (.lockoutEnd k) s = .next s) ∧ (∀ t, tget none s.part.svc.locked k = some t → ∃ q, exec (.lockoutEnd k) s = .next { s with part := q } ∧
      q = { s.part with clk := q.clk, svc := { s.part.svc with locked := q.svc.locked } } ∧ tget none q.svc.locked k = none ∧ q.clk.rp = max s.part.clk.rp (t + 10 * secRp))) ∧
    (∀ (rq : Rq) (k : Fin 8) (v w : Nat) (p : Part), p = renew rq s.part → w = unwrapped s.part rq v →
      (¬ quiet s.part ∨ journalState s.part = 1 → exec (.keyWrite rq k v) s = .next { s with part := enqueue { rq, idx := 0x1310 + k, sub := 1, op := .write v, since := s.part.clk.rp } s.part }) ∧
      (∀ c, quiet s.part → journalState s.part ≠ 1 → c ≠ .ok → checkWrite p rq (0x1310 + k) 1 w = c → exec (.keyWrite rq k v) s = .next { s with part := refuse rq (0x1310 + k) 1 c p }) ∧
      (quiet s.part → checkWrite p rq (0x1310 + k) 1 w = .ok → journalState p = 2 → exec (.keyWrite rq k v) s = .next { s with part := refuse rq (0x1310 + k) 1 .journal p }) ∧
      (accepted p rq (0x1310 + k) 1 w →
        ∃ q, exec (.keyWrite rq k v) s = .next { s with part := answerOk rq (0x1310 + k) 1 [] q } ∧ journalled1 rq (0x1310 + k) 1 w p q ∧
          rd q (0x1310 + k) 4 = (if w = 0 then 2 else 1) ∧ rd q 0 7 = ((List.range 8).filter fun j => rd q (0x1310 + j) 4 == 1).length ∧
          (∀ i : Fin 8, sessSt s.part i = 2 → rd s.part (0x1320 + i) 2 = k.val → sessSt q i = 0) ∧
          (∀ i : Fin 8, sessSt s.part i ≠ 2 ∨ rd s.part (0x1320 + i) 2 ≠ k.val → sessSt q i = sessSt s.part i)))

/-- R415, R464 to R467: the answer to a request in processing of an open session is its response, which is sent and kept, and its sequence is the session's last; one of a session closed meanwhile is sent and frees it. A REQUEST to a session
that is not open is answered with status 1, one with a wrong tag with status 2 (counted in 1330h.04 and against the session's slot); one in processing is not answered twice, one of the last sequence is answered with the stored response, one of
another sequence but the next with status 3 (counted in 1330h.05), the next one while another is in processing with status 8, and otherwise the next is processed by its operation. -/
def Obligations.RequestsRunOnce : Prop :=
  ∀ (s : State), serving s.part →
    (∀ (rq : Rq) (i : Fin 8) (idx sub : Nat) (p : Part), quiet s.part → vendorIdx idx = false → p = (if idx = 0x2104 then ivNow (renew rq s.part) else renew rq s.part) →
      rq.sess = some i.val → rq.path % 2 = 0 → (session s.part i).busy = some rq.seq →
      ∃ q a os, exec (.dictionaryRead rq idx sub) s = .next { s with part := sendUp (session s.part i).origin.via os q } ∧ os = (responseFrame (session s.part i) a s.part).octets ∧
        q.svc.answer = some a ∧ a.rq = rq ∧ a.idx = idx ∧ a.sub = sub ∧ a.code = checkRead p rq idx sub ∧ q.svc.bus = s.part.svc.bus ∧
        (sessSt s.part i = 2 → session q i = { session s.part i with busy := none, last := os, since := s.part.clk.rp } ∧ rd q (0x1320 + i) 5 = rq.seq) ∧
        (sessSt s.part i ≠ 2 → session q i = {} ∧ rd q (0x1320 + i) 5 = rd s.part (0x1320 + i) 5) ∧
        ∀ j : Fin 8, j ≠ i → session q j = session s.part j) ∧
    (∀ (via : Option (Fin 18)) (os : List Nat) (f : Frame) (o : Origin) (seq : Nat), via = none ∨ rd s.part 0x1300 5 ≠ 0 → frameOf os = some f → f.kind = kRequest → f.up = false →
      (f.ser = true ∧ f.serial = ownSerial s.part) ∨ (f.ser = false ∧ isOwn s.part f.addr f.tier = true) → o = f.origin (via.map (·.val)) → seq = ofOctets (f.rest.take 3) →
      ((8 ≤ f.sess ∨ sessSt s.part f.sess ≠ 2) → exec (.busFrameReceived via os) s = .next { s with part := sessionError o 1 seq s.part }) ∧
      (∀ (x : Session) (last : Nat) (tag : List Nat), x = session s.part f.sess → last = rd s.part (0x1320 + f.sess) 5 → tag = (hmac x.key (0 :: f.head.take (f.head.length - 16))).take 16 →
        f.sess < 8 → sessSt s.part f.sess = 2 →
        (f.rest.length < 23 ∨ f.head.drop (f.head.length - 16) ≠ tag →
          exec (.busFrameReceived via os) s = .next { s with part := sessionError o 2 seq (bump (0x1310 + rd s.part (0x1320 + f.sess) 2) 5 (bump 0x1330 4 s.part)) }) ∧
        (23 ≤ f.rest.length → f.head.drop (f.head.length - 16) = tag →
          (x.busy = some seq → exec (.busFrameReceived via os) s = .next s) ∧
          (x.busy = none → seq = last → x.last ≠ [] → exec (.busFrameReceived via os) s = .next { s with part := sendUp o.via x.last s.part }) ∧
          ((x.busy = none ∧ (seq ≠ last ∨ x.last = []) ∧ seq ≠ nextSeq last) ∨ (∃ y, x.busy = some y ∧ seq ≠ y ∧ seq ≠ nextSeq y) →
            exec (.busFrameReceived via os) s = .next { s with part := sessionError o 3 seq (bump 0x1330 5 s.part) }) ∧
          (∀ y, x.busy = some y → seq = nextSeq y → seq ≠ y → exec (.busFrameReceived via os) s = .next { s with part := sessionError o 8 seq s.part }) ∧
          (∀ (rq : Rq) (op idx sub : Nat) (args : List Nat) (t : State), x.busy = none → seq = nextSeq last → (seq ≠ last ∨ x.last = []) → rq = { cls := rd s.part (0x1320 + f.sess) 3, slot := rd s.part (0x1320 + f.sess) 2, sess := some f.sess, path := if via = none then 0 else 2, seq } →
            op = f.rest.getD 3 0 → idx = ofOctets ((f.rest.drop 4).take 2) → sub = f.rest.getD 6 0 → args = (f.rest.drop 7).take (f.rest.length - 23) →
            t = { s with part := setSession f.sess { x with origin := o, busy := some seq, op } s.part } →
            (op = 1 → exec (.busFrameReceived via os) s = exec (.dictionaryRead rq idx sub) t) ∧
            (op = 2 → exec (.busFrameReceived via os) s = exec (.dictionaryWrite rq idx sub (valueOf idx sub args)) t) ∧
            (op = 3 → exec (.busFrameReceived via os) s = exec (.describe rq idx sub) t) ∧
            (op = 4 → args.length = 4 → exec (.busFrameReceived via os) s = exec (.domainReadSegment rq idx sub (ofOctets (args.take 3)) (args.getD 3 0)) t) ∧
            (op = 5 → args.length = 3 → exec (.busFrameReceived via os) s = exec (.domainWriteBegin rq idx sub (ofOctets args)) t) ∧
            (op = 6 → args.length % 3 = 0 → exec (.busFrameReceived via os) s = exec (.domainWriteSegment rq idx sub (ofOctets (args.take 3)) (crownVals.unOct ((args.length - 3) / 3) (args.drop 3))) t) ∧
            (op = 7 → exec (.busFrameReceived via os) s = exec (.scheduledWrite rq idx sub (ofOctets (args.take 10)) (valueOf idx sub (args.drop 10))) t) ∧
            (op = 6 → args.length % 3 ≠ 0 → exec (.busFrameReceived via os) s = exec (.domainWriteSegment rq idx sub (ofOctets (args.take 3)) []) t) ∧
            (op = 8 → quiet s.part → idx ≠ 0x2104 → exec (.busFrameReceived via os) s = .next { s with part := closeSession f.sess (answerOk rq idx sub [] (renew rq t.part)) }) ∧
            (op = 0 ∨ 8 < op ∨ (op = 4 ∧ args.length ≠ 4) ∨ (op = 5 ∧ args.length ≠ 3) → exec (.busFrameReceived via os) s = exec (.domainReadSegment rq idx sub 0 0) t)))))

/-- R434 to R436, R468 and R469: a broadcast that reaches the part is taken only if it is authentic and fresh: then it is counted in 1340h.01, its stamp is kept against its slot, an entry that may not be
broadcast is refused with NO_BROADCAST, and a write or a scheduled write runs as a request of the slot's class, once the broadcast is relayed to the children; otherwise it is counted in 1340h.02 and no stamp is kept, and a Leaf answers with a summary of one refusal. A summary from a child that a broadcast waits for
is added to its counts, and children that have not answered in time count as silent; a broadcast whose own outcome is known and that waits for no child is summarised upward. -/
def Obligations.BroadcastsAreAuthenticated : Prop :=
  ∀ (s : State) (bus : Bus), serving s.part → bus = s.part.svc.bus →
    (∀ (via : Option (Fin 18)) (os : List Nat), (∀ f, frameOf os = some f → f.kind ≠ kBroadcast) → exec (.broadcast via os) s = .next s) ∧
    (∀ (via : Option (Fin 18)) (os : List Nat) (f : Frame), via = none ∨ rd s.part 0x1300 5 ≠ 0 → frameOf os = some f → f.kind = kBroadcast → f.up = false → bcastReaches s.part f = true →
      (bcastOf f.body = none → exec (.broadcast via os) s = .next { s with part := bump 0x1340 2 s.part }) ∧
      (∀ (b : Bcast) (o : Origin) (g : Gather), bcastOf f.body = some b → o = f.origin (via.map (·.val)) → g = { slot := b.slot, stamp := b.stamp, origin := o, since := s.part.clk.rp } →
        (bcastAccepted s.part f b = false →
          (∃ q, exec (.broadcast via os) s = .next { s with part := q } ∧ rd q 0x1340 2 = satInc (rd s.part 0x1340 2) ∧ rd q 0x1340 1 = rd s.part 0x1340 1 ∧
            (∀ j, j < 8 → rd q 0x1340 (3 + j) = rd s.part 0x1340 (3 + j)) ∧ q.svc.waiting = s.part.svc.waiting ∧ q.svc.answer = s.part.svc.answer) ∧
          (isBough s.part = false → bus.gathers = [] →
            exec (.broadcast via os) s = .next { s with part := sendUp o.via (summaryFrame { g with own := some 2, refused := 1, first := some (ownAddr s.part, ownTier s.part, 2) } s.part).octets (bump 0x1340 2 s.part) })) ∧
        (bcastAccepted s.part f b = true → notBroadcast b.idx b.sub = true →
          ∃ q, exec (.broadcast via os) s = .next { s with part := q } ∧ rd q 0x1340 1 = satInc (rd s.part 0x1340 1) ∧ rd q 0x1340 (3 + b.slot) = b.stamp ∧
            q.svc.answer = some { rq := { cls := slotClass s.part b.slot, slot := b.slot, path := if via = none then 1 else 3 }, idx := b.idx, sub := b.sub, code := .noBroadcast }) ∧
        (∀ (rq : Rq) (t : State), bcastAccepted s.part f b = true → notBroadcast b.idx b.sub = false → rq = { cls := slotClass s.part b.slot, slot := b.slot, path := if via = none then 1 else 3 } →
          t = { s with part := bump 0x1340 1 (wr 0x1340 (3 + b.slot) b.stamp (relayAll (via.map (·.val)) os (setBus { bus with gathers := bus.gathers ++ [{ g with wait := servedPorts s.part }] } s.part))) } →
          (isBough s.part = false → t = { s with part := bump 0x1340 1 (wr 0x1340 (3 + b.slot) b.stamp (setBus { bus with gathers := bus.gathers ++ [g] } s.part)) }) ∧
          (b.op = 2 → exec (.broadcast via os) s = exec (.dictionaryWrite rq b.idx b.sub (valueOf b.idx b.sub b.args)) t) ∧
          (b.op = 7 → exec (.broadcast via os) s = exec (.scheduledWrite rq b.idx b.sub (ofOctets (b.args.take 10)) (valueOf b.idx b.sub (b.args.drop 10))) t) ∧
          (b.op ≠ 2 → b.op ≠ 7 → exec (.broadcast via os) s = exec (.dictionaryWrite rq b.idx b.sub noValue) t)))) ∧
    (∀ (via : Option (Fin 18)) (os : List Nat) (f : Frame) (b : Bcast) (r : Row) (rq : Rq) (w : Nat) (p : Part), via = none ∨ rd s.part 0x1300 5 ≠ 0 → frameOf os = some f → f.kind = kBroadcast → f.up = false → bcastReaches s.part f = true →
      bcastOf f.body = some b → bcastAccepted s.part f b = true → notBroadcast b.idx b.sub = false → b.op = 2 → isBough s.part = false → quiet s.part → w = valueOf b.idx b.sub b.args → lookup b.idx b.sub = some r → journalled r = false → stores r = true →
      b.idx ∉ [0x1340, 0x2104, 0x9000] → vendorIdx b.idx = false → rq = { cls := slotClass s.part b.slot, slot := b.slot, path := if via = none then 1 else 3 } →
      p = bump 0x1340 1 (wr 0x1340 (3 + b.slot) b.stamp (setBus { bus with gathers := bus.gathers ++ [{ slot := b.slot, stamp := b.stamp, origin := f.origin (via.map (·.val)), since := s.part.clk.rp }] } s.part)) →
      abortOf p rq b.idx b.sub w = none → checkWrite p rq b.idx b.sub w = .ok →
      ∃ q, exec (.broadcast via os) s = .next { s with part := answerOk rq b.idx b.sub [] (commitAction rq b.idx b.sub w (rd p b.idx b.sub) q) } ∧ rd q b.idx b.sub = w ∧
        rd q 0x1340 1 = satInc (rd s.part 0x1340 1) ∧ rd q 0x1340 (3 + b.slot) = b.stamp) ∧
    (∀ (k : Fin 16) (os : List Nat), (∀ f, frameOf os = some f → f.kind = kSummary → gatherOf s.part k f = none) → exec (.summaryReceived k os) s = .next s) ∧
    (∀ (k : Fin 16) (os : List Nat) (f : Frame) (g : Gather) (gs : List Gather), frameOf os = some f → f.kind = kSummary → gatherOf s.part k f = some g →
      gs = bus.gathers.map (fun x => if x = g then gatherChild s.part k f g else x) →
      ((∀ x ∈ gs, x.own = none ∨ x.wait ≠ []) → exec (.summaryReceived k os) s = .next { s with part := setBus { bus with gathers := gs } s.part }) ∧
      (bus.gathers = [g] → g.wait.any (· != k.val) = false → g.own.isSome = true →
        exec (.summaryReceived k os) s = .next { s with part := sendUp g.origin.via (summaryFrame (gatherChild s.part k f g) s.part).octets (setBus { bus with gathers := [] } s.part) })) ∧
    ((∀ g ∈ bus.gathers, g.wait = []) → exec .summaryTimeout s = .next s) ∧
    (∀ (g g' : Gather), bus.gathers = [g] → g.wait ≠ [] → g' = { g with silent := satAdd g.silent g.wait.length, wait := [] } →
      ∃ ck, ck.rp = max s.part.clk.rp (g.since + (5 - tierOr0 s.part) * 50 * msRp) ∧
        (g.own = none → exec .summaryTimeout s = .next { s with part := setBus { bus with gathers := [g'] } { s.part with clk := ck } }) ∧
        (g.own.isSome = true → exec .summaryTimeout s = .next { s with part := sendUp g.origin.via (summaryFrame g' s.part).octets (setBus { bus with gathers := [] } { s.part with clk := ck }) }))

/-! ### Firmware and trigger-table updates (R473 to R497) -/

/-- R70, R415, R475, R479, R481 to R483: a command written to 9000h.01 waits behind earlier requests and is refused where a check fails; a rebuild with a fitting staged delta empties the slot that does not run and marks it REBUILDING, and another is REJECTED with its cause; each sector appends what
the stream expands to and leaves a checkpoint; a malformed stream raises a failure with cause 1, the flash one with cause 5, an image that is not sound with cause 3 and an older one with cause 4, and a sound image raises its completion, whose grant makes the slot VALID; a failure or an abort that is granted empties the slot; an abort of a rebuild that
runs goes to its arbiter. -/
def Obligations.RebuildsRunToTheirCommit : Prop :=
  ∀ (s : State) (rq : Rq) (p : Part) (t : Nat), serving s.part → p = renew rq s.part → t = targetSlot s.part →
    (∀ (cmd : Instr) (v bad : Nat) (safe : Bool), (cmd, v) ∈ [(Instr.rebuildRequest rq, 1), (.rebuildAbort rq, 2), (.trialBoot rq bad safe, 3), (.fallbackRequest rq bad, 4), (.clearTrialStatus rq, 5)] →
      (¬ quiet s.part → exec cmd s = .next { s with part := enqueue { rq, idx := 0x9000, sub := 1, op := .write v, since := s.part.clk.rp } s.part }) ∧
      (∀ c, quiet s.part → c ≠ .ok → checkWrite p rq 0x9000 1 v = c → exec cmd s = .next { s with part := refuse rq 0x9000 1 c p })) ∧
    (quiet s.part → checkWrite p rq 0x9000 1 1 = .ok →
      (rebuildCause s.part = 0 →
        ∃ q, exec (.rebuildRequest rq) s = .next { s with part := answerOk rq 0x9000 1 [] q } ∧ q = { p with dict := q.dict, upd := q.upd } ∧
          rd q 0x9000 2 = 1 ∧ rd q 0x9000 3 = 0 ∧ rd q 0x9000 4 = 0 ∧ slotState q t = slotRebuilding ∧ slotImage q t = .empty ∧ (∀ k ∈ [2, 3, 4, 5, 6, 7], rd q (slotIdx t) k = 0) ∧
          slotImage q (1 - t) = slotImage s.part (1 - t) ∧ q.upd.rebuild = some { vendor := rq.cls == 7 } ∧ q.upd.check = none ∧ q.upd.staged = s.part.upd.staged ∧ q.upd.dirSeq = s.part.upd.dirSeq + 1 ∧
          otherEntries ([(0x9000, 2), (0x9000, 3), (0x9000, 4)] ++ [1, 2, 3, 4, 5, 6, 7].map fun k => (slotIdx t, k)) p q) ∧
      (rebuildCause s.part ≠ 0 →
        ∃ q, exec (.rebuildRequest rq) s = .next { s with part := answerOk rq 0x9000 1 [] q } ∧ rd q 0x9000 2 = 5 ∧ rd q 0x9000 3 = rebuildCause s.part ∧
          onlyEntries [(0x9000, 2), (0x9000, 3)] p q)) ∧
    (∀ ok : Bool, (s.part.upd.rebuild = none ∨ unsettled s.part .image = false → exec (.rebuildSector ok) s = .next s ∧ exec (.rebuildCommit ok) s = .next s) ∧
      (∀ r, s.part.upd.rebuild = some r → (r.ended = true → exec (.rebuildSector ok) s = .next s) ∧ (r.ended = false → exec (.rebuildCommit ok) s = .next s))) ∧
    (∀ (r : Rebuild) (x : Expansion), s.part.upd.rebuild = some r → r.ended = false → unsettled s.part .image = true →
      x = expand s.part.upd.staged (slotImage s.part (runningSlot s.part)).octetList (2 * s.part.upd.staged.length + 8) sectorLen r.out.length { pos := r.pos, rest := r.rest } →
      (x.stop ≠ .bad →
        ∃ q y, exec (.rebuildSector true) s = .next { s with part := q } ∧ q = { s.part with dict := q.dict, upd := { s.part.upd with rebuild := some y, check := q.upd.check } } ∧
          y = { r with pos := x.pos, rest := x.rest, out := r.out ++ x.pieces.reverse.flatten, ended := x.stop == .ended } ∧
          q.upd.check = some { digest := sha256 s.part.upd.staged, pos := y.pos, out := y.out.length, rest := y.rest, ended := y.ended } ∧
          rd q 0x9000 4 = y.out.length ∧ otherEntries [(0x9000, 4)] s.part q) ∧
      (∀ ok c, (ok = false ∧ c = 5 ∨ ok = true ∧ x.stop = .bad ∧ c = 1) →
        exec (.rebuildSector ok) s = .next { s with part := { s.part with fab := { s.part.fab with arb := s.part.fab.arb ++ [(.image, { kind := .failure c })] } } })) ∧
    (∀ (r : Rebuild) (ok : Bool) (k : ArbKind), s.part.upd.rebuild = some r → r.ended = true → unsettled s.part .image = true →
      (ok = false ∧ k = .failure 5) ∨ (ok = true ∧ sound s.part r.out = false ∧ k = .failure 3) ∨
        (ok = true ∧ sound s.part r.out = true ∧ r.vendor = false ∧ fieldAt r.out 10 4 < rd s.part 0x9000 0xB ∧ k = .failure 4) ∨
        (ok = true ∧ sound s.part r.out = true ∧ (r.vendor = true ∨ rd s.part 0x9000 0xB ≤ fieldAt r.out 10 4) ∧ k = .completion) →
      exec (.rebuildCommit ok) s = .next { s with part := { s.part with fab := { s.part.fab with arb := s.part.fab.arb ++ [(.image, { kind := k })] } } }) ∧
    (∀ r : Rebuild, s.part.upd.rebuild = some r →
      (arbOf s.part .image = [{ kind := .completion }] →
        ∃ q, exec (.commitArbiterGrant .image 0) s = .next { s with part := q } ∧ q = { s.part with dict := q.dict, fab := { s.part.fab with arb := q.fab.arb }, upd := q.upd } ∧ arbOf q .image = [] ∧
          rd q 0x9000 2 = 2 ∧ rd q 0x9000 3 = 0 ∧ slotState q t = slotValid ∧ slotImage q t = .octets r.out ∧ slotImage q (1 - t) = slotImage s.part (1 - t) ∧
          rd q (slotIdx t) 2 = fieldAt r.out 10 4 ∧ rd q (slotIdx t) 3 = r.out.length ∧ rd q (slotIdx t) 4 = fieldAt r.out 18 4 ∧ rd q (slotIdx t) 5 = ofOctets ((sha256 r.out).take 10) ∧
          rd q (slotIdx t) 6 = now s.part ∧ q.upd.rebuild = none ∧ q.upd.check = none ∧ q.upd.dirSeq = s.part.upd.dirSeq + 1 ∧
          otherEntries ([(0x9000, 2), (0x9000, 3)] ++ [1, 2, 3, 4, 5, 6].map fun k => (slotIdx t, k)) s.part q) ∧
      (∀ (w : ArbReq) (st c : Nat) (rq : Rq), arbOf s.part .image = [w] → (w = { kind := .failure c } ∧ st = 4) ∨ (w = { kind := .abort, rqs := [rq] } ∧ st = 3 ∧ c = 0) →
        ∃ q, exec (.commitArbiterGrant .image 0) s = .next { s with part := if st = 3 then answerOk rq 0x9000 1 [] q else q } ∧ q = { s.part with dict := q.dict, fab := { s.part.fab with arb := q.fab.arb }, upd := q.upd } ∧ arbOf q .image = [] ∧
          rd q 0x9000 2 = st ∧ rd q 0x9000 3 = c ∧ slotState q t = slotEmpty ∧ slotImage q t = .empty ∧ (∀ k ∈ [2, 3, 4, 5, 6, 7], rd q (slotIdx t) k = 0) ∧ slotImage q (1 - t) = slotImage s.part (1 - t) ∧
          q.upd.rebuild = none ∧ q.upd.check = none ∧ otherEntries ([(0x9000, 2), (0x9000, 3)] ++ [1, 2, 3, 4, 5, 6, 7].map fun k => (slotIdx t, k)) s.part q)) ∧
    (quiet s.part → checkWrite p rq 0x9000 1 2 = .ok →
      (s.part.upd.rebuild.isSome = true → exec (.rebuildAbort rq) s = .next { s with part := raise .image { kind := .abort, rqs := [rq] } p }) ∧
      (s.part.upd.rebuild = none → exec (.rebuildAbort rq) s = .next { s with part := answerOk rq 0x9000 1 [] (bump 0x1230 1 p) }))

/-- R484 to R488, for a part whose journal holds values of none but hosts' entries: a trial with a VALID slot that reads back sound and BOOT_SAFE low arms it and restarts the controller with it, with every session closed, once its request is answered; one that cannot be taken is REJECTED with its cause;
with BOOT_SAFE high, with a slot that does not read back, at a fallback request while it runs, and at the end of the health window it fails with causes 4, 6, 4 and 3, its slot is FAILED, the fallback is counted, and the last confirmed slot
runs, or, where neither slot reads back, the part is in recovery mode; a trial whose conditions have held for 10 s before the window's end confirms its slot; a trial status is cleared where no trial runs. -/
def Obligations.TrialsConfirmOrFallBack : Prop :=
  ∀ (s : State) (rq : Rq) (p : Part), serving s.part → journalOfHosts s.part → p = renew rq s.part →
    (∀ (bad : Nat) (safe : Bool), quiet s.part → checkWrite p rq 0x9000 1 3 = .ok → trialCause s.part ≠ 0 →
      exec (.trialBoot rq bad safe) s = .next { s with part := trialStatus 5 (trialCause s.part) (responseSent (answerOk rq 0x9000 1 [] p)) }) ∧
    (∀ (bad t : Nat), quiet s.part → checkWrite p rq 0x9000 1 3 = .ok → trialCause s.part = 0 → slotWith s.part slotValid = some t → bit bad t = false →
      ∃ q, exec (.trialBoot rq bad false) s = .next { s with part := q } ∧ runningSlot q = t ∧ slotState q t = slotTrial ∧ rd q 0x9000 6 = 1 ∧ rd q 0x9000 7 = 0 ∧
        q.upd.trial = true ∧ q.upd.armed = (List.range 18).filter (inService s.part) ∧ q.upd.trialAt = s.part.clk.rp ∧ q.svc.waiting = [] ∧ ∀ i : Fin 8, sessSt q i = 0) ∧
    (∀ (bad t c cz : Nat) (safe : Bool), quiet s.part → checkWrite p rq 0x9000 1 3 = .ok → trialCause s.part = 0 → slotWith s.part slotValid = some t → slotWith s.part slotTrial = none →
      (safe = true ∧ cz = 4) ∨ (safe = false ∧ bit bad t = true ∧ cz = 6) → confirmedSlot s.part = c → c < 2 → slotState s.part c = slotConfirmed → bit bad c = false →
      ∃ q, exec (.trialBoot rq bad safe) s = .next { s with part := q } ∧ runningSlot q = c ∧ slotState q t = slotFailed ∧ rd q 0x9000 6 = 4 ∧ rd q 0x9000 7 = cz ∧
        rd q 0x9000 0xC = satInc (rd s.part 0x9000 0xC) ∧ q.upd.trial = false ∧ q.svc.waiting = [] ∧ ∀ i : Fin 8, sessSt q i = 0) ∧
    (∀ bad : Nat, s.part.upd.trial = false → (quiet s.part → checkWrite p rq 0x9000 1 4 = .ok → exec (.fallbackRequest rq bad) s = .next { s with part := answerOk rq 0x9000 1 [] p }) ∧
      exec (.healthWindowEnd bad) s = .next s) ∧
    (∀ (bad t c : Nat), s.part.upd.trial = true → slotWith s.part slotTrial = some t → confirmedSlot s.part = c → c < 2 → slotState s.part c = slotConfirmed → bit bad c = false →
      (quiet s.part → checkWrite p rq 0x9000 1 4 = .ok →
        ∃ q, exec (.fallbackRequest rq bad) s = .next { s with part := q } ∧ runningSlot q = c ∧ slotState q t = slotFailed ∧ rd q 0x9000 6 = 4 ∧ rd q 0x9000 7 = 4 ∧
          rd q 0x9000 0xC = satInc (rd s.part 0x9000 0xC) ∧ q.upd.trial = false ∧ q.svc.waiting = [] ∧ ∀ i : Fin 8, sessSt q i = 0) ∧
      (∃ q, exec (.healthWindowEnd bad) s = .next { s with part := q } ∧ runningSlot q = c ∧ slotState q t = slotFailed ∧ rd q 0x9000 6 = 4 ∧ rd q 0x9000 7 = 3 ∧
          rd q 0x9000 0xC = satInc (rd s.part 0x9000 0xC) ∧ q.upd.trial = false ∧ q.clk.rp = max s.part.clk.rp (windowEndAt s.part) ∧ q.svc.waiting = [] ∧ ∀ i : Fin 8, sessSt q i = 0)) ∧
    (∀ bad : Nat, s.part.upd.trial = true → ordered s.part → bit bad 0 = true → bit bad 1 = true →
      ∃ q, exec (.healthWindowEnd bad) s = .next { s with part := q } ∧ recovery q = true ∧ rd q 0x1000 1 = 2 ∧ rd q 0x9000 6 = 4 ∧ rd q 0x9000 7 = 3 ∧ q.upd.trial = false) ∧
    (s.part.upd.trial = false ∨ confirmable s.part = false ∨ slotWith s.part slotTrial = none ∨ windowEndAt s.part < max s.part.clk.rp (s.part.upd.okFrom + 10 * secRp) → exec .trialConfirm s = .next s) ∧
    (∀ t, s.part.upd.trial = true → slotWith s.part slotTrial = some t → confirmable s.part = true → max s.part.clk.rp (s.part.upd.okFrom + 10 * secRp) ≤ windowEndAt s.part →
      ∃ q, exec .trialConfirm s = .next { s with part := q } ∧ q = { s.part with clk := q.clk, dict := q.dict, upd := q.upd } ∧ slotState q t = slotConfirmed ∧ confirmedSlot q = t ∧
        rd q 0x9000 6 = 2 ∧ rd q 0x9000 7 = 0 ∧ rd q (slotIdx t) 7 = now q ∧ q.clk.rp = max s.part.clk.rp (s.part.upd.okFrom + 10 * secRp) ∧ q.upd = { s.part.upd with trial := false, dirSeq := s.part.upd.dirSeq + 1 } ∧
        otherEntries [(0x9000, 6), (0x9000, 7), (0x9000, 0xA), (slotIdx t, 1), (slotIdx t, 7)] s.part q) ∧
    (quiet s.part → checkWrite p rq 0x9000 1 5 = .ok →
      (s.part.upd.trial = true → exec (.clearTrialStatus rq) s = .next { s with part := answerOk rq 0x9000 1 [] p }) ∧
      (s.part.upd.trial = false → ∃ q, exec (.clearTrialStatus rq) s = .next { s with part := answerOk rq 0x9000 1 [] q } ∧ rd q 0x9000 6 = 0 ∧ rd q 0x9000 7 = 0 ∧
        onlyEntries [(0x9000, 6), (0x9000, 7)] p q))

/-- R433, R491 to R494: the complete value of 9020h with no fault raises the completion of its transfer, whose grant begins an installation, with the ROM default table due at the next boundary and an audit record of action 3; one with a fault raises a failure with cause 3, whose grant is
counted with its own cause; an image that reads back as written is due at the next boundary, otherwise it is to be written again; the end of the confirmation window stores the table in both copies, or fails it with its cause; a revert clears
the store, and fails an installation in progress with cause 5. -/
def Obligations.TheTransomInstallsAndReverts : Prop :=
  ∀ (s : State), serving s.part →
    (∀ (i : Fin 8) ok, transferOf s.part i = none → exec (.transomInstall i ok) s = .next s) ∧
    (∀ (i : Fin 8) (t : Transfer) ok, transferOf s.part i = some t →
      (t.idx ≠ 0x9020 ∨ t.full = false ∨ journalState s.part = 1 ∨ unsettled s.part (.transfer i) = false → exec (.transomInstall i ok) s = .next s) ∧
      (t.idx = 0x9020 → t.full = true → journalState s.part ≠ 1 → unsettled s.part (.transfer i) = true →
        (∀ k, (installCause s.part t.words ≠ 0 ∧ k = .failure 3) ∨ (installCause s.part t.words = 0 ∧ journalState s.part = 2 ∧ k = .failure 4) ∨ (installCause s.part t.words = 0 ∧ journalState s.part ≠ 2 ∧ ok = true ∧ k = .completion) →
          exec (.transomInstall i ok) s = .next { s with part := { s.part with fab := { s.part.fab with arb := s.part.fab.arb ++ [(.transfer i, { kind := k })] } } }) ∧
        (installCause s.part t.words = 0 → journalState s.part ≠ 2 → ok = false →
          ∃ q, exec (.transomInstall i ok) s = .next { s with part := q } ∧ q.fab.arb = s.part.fab.arb ++ [(.transfer i, { kind := .failure 4 })] ∧ q.svc.fails = s.part.svc.fails + 1 ∧ q.acq = s.part.acq ∧
            rd q 0x1400 5 = satInc (rd s.part 0x1400 5) ∧ otherEntries [(0x1400, 5), (0x1400, 7)] s.part q))) ∧
    (∀ (i : Fin 8) (t : Transfer), transferOf s.part i = some t → t.idx = 0x9020 →
      (arbOf s.part (.transfer i) = [{ kind := .completion }] →
        ∃ q, exec (.commitArbiterGrant (.transfer i) 0) s = .next { s with part := q } ∧ q = { s.part with dict := q.dict, fab := { s.part.fab with arb := q.fab.arb }, svc := q.svc, acq := q.acq } ∧ transferOf q i = none ∧ instOf q i 2 = 2 ∧ instOf q i 3 = 0 ∧
          rd q 0x9021 2 = 1 ∧ rd q 0x9021 3 = 0 ∧ rd q 0x9021 4 = 0 ∧ q.acq = { s.part.acq with pendTab := some [], trans := { s.part.acq.trans with stage := .committed, image := t.words } } ∧
          rd q 0x1400 4 = satInc (rd s.part 0x1400 4) ∧
          (∃ r, q.svc.audit.head? = some r ∧ r.num = s.part.svc.nextRec ∧ r.action = 3 ∧ r.idx = 0x9020 ∧ r.sub = t.sub ∧ r.cls = t.rq.cls ∧ r.len = t.words.length) ∧
          otherEntries [(0x9021, 2), (0x9021, 3), (0x9021, 4), (0x1400, 1), (0x1400, 2), (0x1400, 3), (0x1400, 4)] s.part q) ∧
      (arbOf s.part (.transfer i) = [{ kind := .failure 3 }] →
        ∃ q, exec (.commitArbiterGrant (.transfer i) 0) s = .next { s with part := q } ∧ transferOf q i = none ∧ instOf q i 2 = 4 ∧ instOf q i 3 = 3 ∧
          rd q 0x9021 3 = installCause s.part t.words ∧ rd q 0x9021 7 = satInc (rd s.part 0x9021 7) ∧ otherEntries [(0x9021, 3), (0x9021, 7)] s.part q ∧ q.acq = s.part.acq)) ∧
    (∀ (ok good : Bool) (p q : Part), (good, q) = tableStands ok s.part.acq.trans.image p → p = writeImage (placesOf s.part 0) (s.part.acq.trans.image.map fw) s.part →
      (s.part.acq.trans.stage ≠ .writing ∨ 16 ≤ activeRegion s.part 0 → exec (.transomReadback ok) s = .next s) ∧
      (s.part.acq.trans.stage = .writing → activeRegion s.part 0 < 16 →
        (good = false → exec (.transomReadback ok) s = .next { s with part := q }) ∧
        (good = true → exec (.transomReadback ok) s = .next { s with part := { q with acq := { s.part.acq with pendTab := some s.part.acq.trans.image, trans := { s.part.acq.trans with stage := .readBack } } } }) ∧
        q = { s.part with dict := q.dict, svc := q.svc, mem := q.mem, free := q.free } ∧ (ok = false → good = false) ∧
        (good = true → ((readList managementCode (placesOf s.part 0) p).1.map wv) = s.part.acq.trans.image.map (· % 2 ^ 20)))) ∧
    (∀ ok : Bool, (s.part.acq.trans.stage ≠ .window ∨ rd s.part 0x9021 4 ≠ 0 → exec (.transomWindowEnd ok) s = .next s) ∧ (∀ (good : Bool) (p : Part), s.part.acq.trans.stage = .window → rd s.part 0x9021 4 = 0 → (good, p) = tableStands ok s.part.acq.trans.image s.part →
      ∃ q, exec (.transomWindowEnd ok) s = .next { s with part := q } ∧ q = { p with dict := q.dict, acq := q.acq } ∧ q.acq.trans.stage = .none ∧ q.acq.trans.image = [] ∧ rd q 0x9021 4 = 0 ∧
        (windowCause p good = 0 → rd q 0x9021 2 = 2 ∧ rd q 0x9021 3 = 0 ∧ rd q 0x9021 6 = satInc (rd p 0x9021 6) ∧ rd q 0x9021 8 = s.part.acq.trans.image.getD 1 0 ∧
          q.acq.trans.copy0 = s.part.acq.trans.image ∧ q.acq.trans.copy1 = s.part.acq.trans.image ∧ q.acq.pendTab = s.part.acq.pendTab ∧ otherEntries [(0x9021, 2), (0x9021, 3), (0x9021, 4), (0x9021, 6), (0x9021, 8)] p q) ∧
        (windowCause p good ≠ 0 → rd q 0x9021 2 = 4 ∧ rd q 0x9021 3 = windowCause p good ∧ rd q 0x9021 7 = satInc (rd p 0x9021 7) ∧ q.acq.pendTab = some [] ∧
          q.acq.trans.copy0 = s.part.acq.trans.copy0 ∧ q.acq.trans.copy1 = s.part.acq.trans.copy1 ∧ otherEntries [(0x9021, 2), (0x9021, 3), (0x9021, 4), (0x9021, 7)] p q))) ∧
    (∀ (rq : Rq) (p : Part), p = renew rq s.part →
      (¬ quiet s.part → exec (.transomRevert rq) s = .next { s with part := enqueue { rq, idx := 0x9021, sub := 1, op := .write 1, since := s.part.clk.rp } s.part }) ∧
      (∀ c, quiet s.part → c ≠ .ok → checkWrite p rq 0x9021 1 1 = c → exec (.transomRevert rq) s = .next { s with part := refuse rq 0x9021 1 c p }) ∧
      (quiet s.part → checkWrite p rq 0x9021 1 1 = .ok →
        ∃ q, exec (.transomRevert rq) s = .next { s with part := answerOk rq 0x9021 1 [] q } ∧ q = { p with dict := q.dict, acq := q.acq } ∧
          q.acq.pendTab = some [] ∧ q.acq.trans.copy0 = [] ∧ q.acq.trans.copy1 = [] ∧ rd q 0x9021 8 = 0 ∧
          (transomBusy s.part = true → rd q 0x9021 2 = 4 ∧ rd q 0x9021 3 = 5 ∧ q.acq.trans.stage = .none ∧ otherEntries [(0x9021, 2), (0x9021, 3), (0x9021, 4), (0x9021, 8)] p q) ∧
          (transomBusy s.part = false → q.acq.trans.stage = s.part.acq.trans.stage ∧ otherEntries [(0x9021, 8)] p q)))

/-! ### Power and reset (R498 to R513) -/

/-- R498 to R500, R507, R511 and R512: a supply that rises is good; one that fails, the warning pin, and the loss of LREF begin power-fail handling, with loop gates and excitation off, and after
LREF's loss the transmitters that ran from it silent; 250 µs later the part is in reset: the journal, the audit ring, the trigger-table store and the images are kept, an entry that neither OTP nor the directory keeps reads its default, and one they keep reads as before, as do the retimer's own entries while the bypass is
on. Where power-fail handling or reset is under way already, none of these begins it anew. -/
def Obligations.PowerFailsIntoReset : Prop :=
  ∀ (s : State),
    (∀ n : Fin 6, ∃ q, exec (.supplyRise n) s = .next { s with part := q } ∧ q = { s.part with pow := { s.part.pow with bad := q.pow.bad } } ∧
      ∀ j, bit q.pow.bad j = (bit s.part.pow.bad j && decide (j ≠ n.val))) ∧
    (∀ n : Fin 6, ∃ q, exec (.supplyFail n) s = .next { s with part := q } ∧ (∀ j, bit q.pow.bad j = (bit s.part.pow.bad j || decide (j = n.val))) ∧
      (s.part.pow.phase = .running →
        q = { s.part with dict := q.dict, pow := { s.part.pow with bad := q.pow.bad, phase := .powerFail, failAt := s.part.clk.rp } } ∧
          (∀ j, j < 2 → rd q (0x8040 + j) 9 = 0 ∧ rd q (0x8048 + j) 1 = 0 ∧ rd q (0x8048 + j) 2 = 0) ∧ (∀ j, j < 4 → rd q (0x8010 + j) 7 = 0) ∧
          otherEntries [(0x8040, 9), (0x8041, 9), (0x8048, 1), (0x8048, 2), (0x8049, 1), (0x8049, 2), (0x8010, 7), (0x8011, 7), (0x8012, 7), (0x8013, 7)] s.part q) ∧
      (s.part.pow.phase ≠ .running → q = { s.part with pow := { s.part.pow with bad := q.pow.bad } })) ∧
    (s.part.pow.phase ≠ .running → exec .pfailAssert s = .next s ∧ exec .lrefLoss s = .next s) ∧
    (s.part.pow.phase = .running →
      ∃ q, exec .pfailAssert s = .next { s with part := q } ∧ q = { s.part with dict := q.dict, pow := { s.part.pow with phase := .powerFail, failAt := s.part.clk.rp } } ∧
        (∀ j, j < 2 → rd q (0x8040 + j) 9 = 0 ∧ rd q (0x8048 + j) 1 = 0 ∧ rd q (0x8048 + j) 2 = 0) ∧ (∀ j, j < 4 → rd q (0x8010 + j) 7 = 0) ∧
        otherEntries [(0x8040, 9), (0x8041, 9), (0x8048, 1), (0x8048, 2), (0x8049, 1), (0x8049, 2), (0x8010, 7), (0x8011, 7), (0x8012, 7), (0x8013, 7)] s.part q) ∧
    (s.part.pow.phase = .running →
      ∃ q, exec .lrefLoss s = .next { s with part := q } ∧ q = { s.part with dict := q.dict, pow := { s.part.pow with phase := .powerFail, failAt := s.part.clk.rp, lrefLost := true } } ∧
        (∀ j, j < 2 → rd q (0x8040 + j) 9 = 0 ∧ rd q (0x8048 + j) 1 = 0) ∧ (∀ j, j < 4 → rd q (0x8010 + j) 7 = 0) ∧
        ∀ l, l < 28 → txSt q l = (if txSt s.part l = txSend ∧ rd s.part (0x5020 + l) 4 ≠ 1 then txSilent else txSt s.part l)) ∧
    (s.part.pow.phase ≠ .powerFail → exec .powerFailReset s = .next s) ∧
    (s.part.pow.phase = .powerFail →
      ∃ q, exec .powerFailReset s = .next { s with part := q } ∧ q.pow.phase = .inReset ∧ q.clk = {} ∧ q.mem = {} ∧ q.links = [] ∧ q.fab = {} ∧ q.svc.journal = s.part.svc.journal ∧ q.svc.audit = s.part.svc.audit ∧
        q.svc.sessions = [] ∧ q.svc.waiting = [] ∧ q.svc.staged = none ∧ q.upd.slotA = s.part.upd.slotA ∧ q.upd.slotB = s.part.upd.slotB ∧ q.upd.staged = s.part.upd.staged ∧
        q.acq.trans.copy0 = s.part.acq.trans.copy0 ∧ q.acq.trans.copy1 = s.part.acq.trans.copy1 ∧
        (∀ i a, a < 256 → ¬(i = 0x5078 ∧ 3 ≤ a ∧ a ≤ 5) → rd q i a = (if keptEntry (ekey i a) = true then rd s.part i a else dflt s.part.pow.role i a)) ∧
        (∀ a, 3 ≤ a → a ≤ 5 → (s.part.pow.bypass = false → rd q 0x5078 a = dflt s.part.pow.role 0x5078 a) ∧ (s.part.pow.bypass = true → ordered s.part → rd q 0x5078 a = rd s.part 0x5078 a)))

/-- R246, R483, R484, R486, R499, R502, R503 and R505: reset is not released while a supply is not good; when it is, the role follows the lock and the straps, BOOT_SAFE is sampled, a trial that was running has failed with cause 5, a rebuild that was running resumes from a checkpoint that reads back and fits the staged delta, and is abandoned with cause 6 otherwise, the last confirmed slot is
loaded into region 0 where it is CONFIRMED and reads back sound, and start-up runs; with no last confirmed slot and slot A not CONFIRMED the part, whose journal holds hosts' entries, is in recovery mode, at health level 2. -/
def Obligations.ResetReleaseStartsThePart : Prop :=
  ∀ (s : State) (straps : Fin 4) (safe : Bool) (bad : Nat) (ok : Bool),
    (s.part.pow.phase ≠ .inReset ∨ s.part.pow.bad ≠ 0 → exec (.resetRelease straps safe bad ok) s = .next s) ∧
    (∀ c, s.part.pow.phase = .inReset → s.part.pow.bad = 0 → confirmedSlot s.part = c → c < 2 → slotState s.part c = slotConfirmed → bit bad c = false →
      ∃ q, exec (.resetRelease straps safe bad ok) s = .next { s with part := startUp q } ∧ q = { s.part with dict := q.dict, mem := q.mem, pow := q.pow, upd := q.upd } ∧
        q.pow.phase = .running ∧ q.pow.role = roleOf (rd s.part 0x1020 1) straps ∧ q.pow.safe = safe ∧ runningSlot q = c ∧ rd q 0x9000 0xB = rd s.part (slotIdx c) 2 ∧ rd q 0x1020 4 = straps.val ∧
        q.mem.fills.head? = some { regionArea q 0 with body := slotImage s.part c } ∧
        (s.part.upd.trial = false → q.upd.trial = false ∧ rd q 0x9000 6 = rd s.part 0x9000 6 ∧ rd q 0x9000 7 = rd s.part 0x9000 7) ∧
        (∀ t, s.part.upd.trial = true → slotWith s.part slotTrial = some t → q.upd.trial = false ∧ slotState q t = slotFailed ∧ rd q 0x9000 6 = 4 ∧ rd q 0x9000 7 = 5) ∧
        (slotState s.part (1 - c) ≠ slotRebuilding → q.upd.rebuild = none ∧ q.upd.check = none) ∧
        (∀ r k, slotState s.part (1 - c) = slotRebuilding → s.part.upd.rebuild = some r → s.part.upd.check = some k → ok = true → k.digest = sha256 s.part.upd.staged →
          q.upd.rebuild = some r ∧ q.upd.check = some k ∧ rd q 0x9000 2 = 1 ∧ rd q 0x9000 3 = 0 ∧ rd q 0x9000 4 = r.out.length ∧ slotState q (1 - c) = slotRebuilding) ∧
        (slotState s.part (1 - c) = slotRebuilding → (s.part.upd.rebuild = none ∨ s.part.upd.check = none ∨ ok = false ∨ ∃ k, s.part.upd.check = some k ∧ k.digest ≠ sha256 s.part.upd.staged) →
          q.upd.rebuild = none ∧ q.upd.check = none ∧ rd q 0x9000 2 = 4 ∧ rd q 0x9000 3 = 6 ∧ slotState q (1 - c) = slotEmpty)) ∧
    (s.part.pow.phase = .inReset → s.part.pow.bad = 0 → s.part.upd.trial = false → slotState s.part 0 ≠ slotRebuilding → slotState s.part 1 ≠ slotRebuilding → confirmedSlot s.part = 0xFF → slotState s.part 0 ≠ slotConfirmed → journalOfHosts s.part →
      ∃ q, exec (.resetRelease straps safe bad ok) s = .next { s with part := q } ∧ q.pow.phase = .running ∧ recovery q = true ∧ rd q 0x1000 1 = 2 ∧ q.pow.role = roleOf (rd s.part 0x1020 1) straps ∧ q.pow.safe = safe)

/-! ### Testing and bypassing in service (R514 to R527) -/

/-- R517 to R520: a lane test starts with its counts at 0 and its checker hunting (or off in transmit-only mode), and the lane DOWN at the test's rate and equaliser code, or is REJECTED with its cause; a checker that finds 64 predicted bits in a row locks, and counts the bits after them;
a locked checker that loses lock hunts again and is counted; a stop and the duration end the test with DONE, after which the lane rejoins its link; no test, or a checker that does not hunt, takes no bits. -/
def Obligations.LaneTestsRun : Prop :=
  ∀ (s : State) (l : Fin 28), serving s.part →
    (∀ (cmd : Instr) (v : Nat) (rq : Rq) (p : Part) (bs : List Bool), p = renew rq s.part → (cmd, v) ∈ [(Instr.laneTestStart rq l, 1), (.laneTestStop rq l bs, 2)] →
      (¬ quiet s.part → exec cmd s = .next { s with part := enqueue { rq, idx := 0xA010 + l, sub := 1, op := .write v, since := s.part.clk.rp } s.part }) ∧
      (∀ c, quiet s.part → c ≠ .ok → checkWrite p rq (0xA010 + l) 1 v = c → exec cmd s = .next { s with part := refuse rq (0xA010 + l) 1 c p })) ∧
    (∀ (rq : Rq) (p : Part), p = renew rq s.part → quiet s.part → checkWrite p rq (0xA010 + l) 1 1 = .ok →
      (testCause s.part l ≠ 0 → ∃ q, exec (.laneTestStart rq l) s = .next { s with part := answerOk rq (0xA010 + l) 1 [] q } ∧ rd q (0xA010 + l) 6 = 5 ∧ rd q (0xA010 + l) 7 = testCause s.part l ∧
        onlyEntries [(0xA010 + l, 6), (0xA010 + l, 7)] p q) ∧
      (testCause s.part l = 0 → ∃ q, exec (.laneTestStart rq l) s = .next { s with part := answerOk rq (0xA010 + l) 1 [] q } ∧ rd q (0xA010 + l) 6 = 1 ∧ rd q (0xA010 + l) 7 = 0 ∧
        rd q (0xA010 + l) 8 = 0 ∧ rd q (0xA010 + l) 9 = 0 ∧ rd q (0xA010 + l) 0xB = (if rd s.part (0xA010 + l) 2 = 3 then 0 else 1) ∧ laneTest q l = { since := s.part.clk.rp } ∧
        rxSt q l = laneDown ∧ rd q (0x5020 + l) 3 = rd s.part (0xA010 + l) 4 ∧ rd q (0x5020 + l) 8 = testEqualiser s.part l (rd s.part (0xA010 + l) 4))) ∧
    (∀ bs : List Bool, (underTest s.part l = false ∨ rd s.part (0xA010 + l) 0xB ≠ 1 → exec (.checkerLock l bs) s = .next s) ∧
      (underTest s.part l = false ∨ rd s.part (0xA010 + l) 0xB ≠ 2 → exec (.checkerLockLoss l bs) s = .next s) ∧
      (underTest s.part l = false ∨ rd s.part (0xA010 + l) 5 = 0 → exec (.laneTestDurationEnd l bs) s = .next s)) ∧
    (∀ bs : List Bool, underTest s.part l = true → rd s.part (0xA010 + l) 0xB = 1 →
      (∀ reg rest, huntBits (patternTaps (rd s.part (0xA010 + l) 3)) [] 0 bs = some (reg, rest) →
        exec (.checkerLock l bs) s = .next { s with part := takeBits l rest (setTest l { laneTest s.part l with reg, hist := [] } (wr (0xA010 + l) 0xB 2 s.part)) }) ∧
      (huntBits (patternTaps (rd s.part (0xA010 + l) 3)) [] 0 bs = none → exec (.checkerLock l bs) s = .next s)) ∧
    (∀ (bs : List Bool) (c : Counted), underTest s.part l = true → rd s.part (0xA010 + l) 0xB = 2 →
      c = countBits (patternTaps (rd s.part (0xA010 + l) 3)) { reg := (laneTest s.part l).reg, hist := (laneTest s.part l).hist } bs →
      ∃ q, exec (.checkerLockLoss l bs) s = .next { s with part := q } ∧ q = { s.part with dict := q.dict, tests := q.tests } ∧
        rd q (0xA010 + l) 8 = min maxU40 (rd s.part (0xA010 + l) 8 + c.bits) ∧ rd q (0xA010 + l) 9 = min maxU40 (rd s.part (0xA010 + l) 9 + c.errs) ∧
        (c.lost = true → rd q (0xA010 + l) 0xB = 1 ∧ rd q (0xA010 + l) 0xA = satInc (rd s.part (0xA010 + l) 0xA) ∧ (laneTest q l).reg = [] ∧ (laneTest q l).hist = []) ∧
        (c.lost = false → rd q (0xA010 + l) 0xB = 2 ∧ rd q (0xA010 + l) 0xA = rd s.part (0xA010 + l) 0xA ∧ (laneTest q l).reg = c.reg ∧ (laneTest q l).hist = c.hist) ∧
        otherEntries [(0xA010 + l, 8), (0xA010 + l, 9), (0xA010 + l, 0xA), (0xA010 + l, 0xB)] s.part q) ∧
    (∀ (rq : Rq) (bs : List Bool) (p : Part), p = renew rq s.part → quiet s.part → checkWrite p rq (0xA010 + l) 1 2 = .ok →
      (underTest s.part l = false → exec (.laneTestStop rq l bs) s = .next { s with part := answerOk rq (0xA010 + l) 1 [] p }) ∧
      (underTest s.part l = true →
        ∃ q, exec (.laneTestStop rq l bs) s = .next { s with part := answerOk rq (0xA010 + l) 1 [] (rejoin l q) } ∧ rd q (0xA010 + l) 6 = 2 ∧ rd q (0xA010 + l) 7 = 0 ∧ rd q (0xA010 + l) 0xB = 0 ∧
          laneTest q l = {} ∧ rd q (0xA010 + l) 8 = rd (takeBits l bs s.part) (0xA010 + l) 8 ∧ rd q (0xA010 + l) 9 = rd (takeBits l bs s.part) (0xA010 + l) 9 ∧ q = { p with dict := q.dict, tests := q.tests })) ∧
    (∀ bs : List Bool, underTest s.part l = true → rd s.part (0xA010 + l) 5 ≠ 0 →
      ∃ q, exec (.laneTestDurationEnd l bs) s = .next { s with part := rejoin l q } ∧ rd q (0xA010 + l) 6 = 2 ∧ rd q (0xA010 + l) 7 = 0 ∧ rd q (0xA010 + l) 0xB = 0 ∧ laneTest q l = {} ∧
        q = { s.part with clk := q.clk, dict := q.dict, tests := q.tests } ∧ q.clk.rp = max s.part.clk.rp ((laneTest s.part l).since + rd s.part (0xA010 + l) 5 * msRp))

/-- R514 and R516: a port that is isolated is so from its commit: its entry reads 1, the isolation is counted, and its links leave (a Leaf's one link goes to ISOLATED with cause 1 from TRAIN and from SERVICE, and keeps its state with that cause otherwise); its release clears the entry, and a Leaf's one link that
is ISOLATED with cause 1, its lanes not READY, goes to TRAIN. A write that changes nothing acts on no link, a write of 1 again being counted. R522 to R527: a memory self-test starts on a bank that is out of service while no other bank operation runs, or is REJECTED with its cause; at its end the count of failing bits, the first of them and the count of tests are kept, the bank's words are unknown, and no
other bank's word has changed. A boundary-scan instruction takes effect; one of control over pins only in reset with every supply good, and otherwise it acts as BYPASS and is counted, as an opcode of no instruction does; the test logic's reset gives IDCODE. A data scan shifts the register that the instruction selects, and the boundary register captures the pins and updates what drives them;
while the bypass is engaged the cells of D0 and A0 capture only. -/
def Obligations.IsolationSelfTestAndScan : Prop :=
  (∀ (s : State) (rq : Rq) (k : Fin 16) (p : Part), p = renew rq s.part →
    (∀ (cmd : Instr) (v : Nat), (cmd, v) ∈ [(Instr.portIsolate rq k, 1), (.portRelease rq k, 0)] → serving s.part →
      (¬ quiet s.part → exec cmd s = .next { s with part := enqueue { rq, idx := 0xA000, sub := k + 1, op := .write v, since := s.part.clk.rp } s.part }) ∧
      (∀ c, quiet s.part → c ≠ .ok → checkWrite p rq 0xA000 (k + 1) v = c → exec cmd s = .next { s with part := refuse rq 0xA000 (k + 1) c p })) ∧
    (accepted p rq 0xA000 (k + 1) 1 →
      ∃ q, exec (.portIsolate rq k) s = .next { s with part := answerOk rq 0xA000 (k + 1) [] (if rd s.part 0xA000 (k + 1) = 1 then q else isolateActs k q) } ∧ q = { p with dict := q.dict, svc := q.svc } ∧
        journalled1 rq 0xA000 (k + 1) 1 p q ∧ rd q 0xA001 (k + 1) = satInc (rd s.part 0xA001 (k + 1)) ∧
        otherEntries [(0xA000, k + 1), (0xA001, k + 1), (0x1400, 1), (0x1400, 2), (0x1400, 3), (0x1400, 4)] p q ∧
        (isBough s.part = false → siblingLinks s.part k = [] →
          isoCause (isolateActs k q) k = 1 ∧ linkSt (isolateActs k q) k = (if linkSt s.part k = stTrain ∨ linkSt s.part k = stService then stIsolated else linkSt s.part k))) ∧
    (accepted p rq 0xA000 (k + 1) 0 →
      ∃ q, exec (.portRelease rq k) s = .next { s with part := answerOk rq 0xA000 (k + 1) [] (if rd s.part 0xA000 (k + 1) = 1 then releaseActs k q else q) } ∧ q = { p with dict := q.dict, svc := q.svc } ∧
        journalled1 rq 0xA000 (k + 1) 0 p q ∧ otherEntries [(0xA000, k + 1), (0x1400, 1), (0x1400, 2), (0x1400, 3), (0x1400, 4)] p q ∧
        (siblingLinks s.part k = [] → linkSt s.part k = stIsolated → isoCause s.part k = 1 → allIn s.part k laneReady = false → linkSt (releaseActs k q) k = stTrain) ∧
        (siblingLinks s.part k = [] → linkSt s.part k ≠ stIsolated → isoCause s.part k = 1 → isoCause (releaseActs k q) k = 0 ∧ linkSt (releaseActs k q) k = linkSt s.part k))) ∧
  (∀ (s : State),
    (∀ (rq : Rq) (b : Nat) (p : Part), serving s.part → p = renew rq s.part → b = rd s.part 0xA040 1 →
      (¬ quiet s.part → exec (.memorySelfTestStart rq) s = .next { s with part := enqueue { rq, idx := 0xA040, sub := 2, op := .write 1, since := s.part.clk.rp } s.part }) ∧
      (∀ c, quiet s.part → c ≠ .ok → checkWrite p rq 0xA040 2 1 = c → exec (.memorySelfTestStart rq) s = .next { s with part := refuse rq 0xA040 2 c p }) ∧
      (quiet s.part → checkWrite p rq 0xA040 2 1 = .ok →
        ∃ q, exec (.memorySelfTestStart rq) s = .next { s with part := answerOk rq 0xA040 2 [] q } ∧ q = { p with dict := q.dict, mem := { s.part.mem with test := q.mem.test } } ∧
          otherEntries [(0xA040, 3), (0xA040, 4)] s.part q ∧
          (bankStanding s.part b ≠ 2 → rd q 0xA040 3 = 5 ∧ rd q 0xA040 4 = 1 ∧ q.mem.test = s.part.mem.test) ∧
          (bankStanding s.part b = 2 → bankBusy s.part = true → rd q 0xA040 3 = 5 ∧ rd q 0xA040 4 = 2 ∧ q.mem.test = s.part.mem.test) ∧
          (bankStanding s.part b = 2 → bankBusy s.part = false → rd q 0xA040 3 = 1 ∧ rd q 0xA040 4 = 0 ∧ q.mem.test = some b))) ∧
    (∀ fails, live s.part → s.part.mem.test = none → exec (.memorySelfTestDone fails) s = .next s) ∧
    (∀ (b : Nat) (fails fs : List (Nat × Nat)), live s.part → s.part.mem.test = some b → fs = (fails.map fun f => (f.1 % 32768, f.2 % 54)).eraseDups →
      ∃ q, exec (.memorySelfTestDone fails) s = .next { s with part := q } ∧ q = { s.part with dict := q.dict, mem := { s.part.mem with words := q.mem.words, fills := q.mem.fills, test := none } } ∧
        rd q 0xA040 3 = 2 ∧ rd q 0xA040 4 = 0 ∧ rd q 0xA040 5 = min (2 ^ 20 - 1) fs.length ∧ rd q 0xA040 8 = satInc (rd s.part 0xA040 8) ∧
        (fs = [] → rd q 0xA040 6 = 0 ∧ rd q 0xA040 7 = 0xFF) ∧
        (∀ f l, fs = f :: l → rd q 0xA040 6 = 65536 * b + 2 * f.1 + f.2 / 27 ∧ rd q 0xA040 7 = f.2 % 27) ∧
        otherEntries [(0xA040, 3), (0xA040, 4), (0xA040, 5), (0xA040, 6), (0xA040, 7), (0xA040, 8)] s.part q ∧
        (∀ a, a / 65536 ≠ b → peek q a = peek s.part a) ∧ (∀ a, a / 65536 = b → peek q a = none)) ∧
    (∀ (op : Fin 256) (ir : Nat) (p : Part), ir = (if pinInstruction op = true ∧ ¬ (s.part.pow.phase = .inReset ∧ s.part.pow.bad = 0) then 0xFF else if 1 ≤ op.val ∧ op.val ≤ 7 then op.val else 0xFF) →
      (pinInstruction op = true → ¬ (s.part.pow.phase = .inReset ∧ s.part.pow.bad = 0) → p = bump 0xA050 2 { s.part with pow := { s.part.pow with jtag := ir, tdo := bitsUp 8 1 } }) →
      (pinInstruction op = false ∨ (s.part.pow.phase = .inReset ∧ s.part.pow.bad = 0) → p = { s.part with pow := { s.part.pow with jtag := ir, tdo := bitsUp 8 1 } }) →
      exec (.jtagInstructionUpdate op none) s = .next { s with part := p } ∧
        ∀ (x : DrScan) (all : List Bool),
          (ir ∈ [2, 3, 6, 7] → all = (List.range 74).map (fun i => x.pins.getD i false) ++ x.tdi →
            exec (.jtagInstructionUpdate op (some x)) s = .next { s with part := { p with pow := { p.pow with scan := all.drop x.tdi.length, hold := all.drop x.tdi.length, tdo := all.take x.tdi.length } } }) ∧
          (ir ∉ [2, 3, 6, 7] → all = (if ir = 1 then bitsUp 32 (idCode s.part) else [false]) ++ x.tdi →
            exec (.jtagInstructionUpdate op (some x)) s = .next { s with part := { p with pow := { p.pow with tdo := all.take x.tdi.length } } })) ∧
    (∀ c : ScanPin, (c.drives = false ∨ pinInstruction s.part.pow.jtag = false ∨ s.part.pow.bad ≠ 0 ∨ (c.retimed = true ∧ bypassOn s.part = true) → pinDrive s.part c = .functional) ∧
      (s.part.pow.jtag = 3 → s.part.pow.bad = 0 → c.drives = true → c.retimed = false ∨ bypassOn s.part = false → pinDrive s.part c = .level (s.part.pow.hold.getD (scanPins.idxOf c) false))) ∧
    exec .testLogicReset s = .next { s with part := { s.part with pow := { s.part.pow with jtag := 1 } } })

/-! ### The whole part -/

/-- A step takes the command at the front of the queue and runs it with the queue's rest; with no command waiting one ring period passes (the model's choice, log 3), and in
reset nothing does. Every command completes, and none changes the queue of the commands that wait. -/
def Obligations.StepRunsTheFrontCommand : Prop :=
  ((∀ (c : Instr) (l : List Instr) (s : State), step { s with pending := c :: l } = exec c { s with pending := l }) ∧
  (∀ s : State, s.pending = [] → alive s.part = true → step s = .next { s with part := advance 1 s.part }) ∧
  (∀ s : State, s.pending = [] → s.part.pow.phase = .inReset → step s = .next s)) ∧
  (∀ (c : Instr) (s : State), ∃ q, exec c s = .next { s with part := q })

/-- After reset no command and no request waits, every entry of the dictionary reads its default for a Leaf, slot A runs and is CONFIRMED (R473, R484), and the tables are in their canonical form. (That reset
stands for a Leaf's release with its factory image is the model's choice, log 2.) -/
def Obligations.ResetValues : Prop :=
  State.reset.pending = [] ∧ quiet State.reset.part ∧ serving State.reset.part ∧ ordered State.reset.part ∧ journalOfHosts State.reset.part ∧ State.reset.part.clk = {} ∧ State.reset.part.mem.words = [] ∧
    (∀ i a, rd State.reset.part i a = dflt .leaf i a) ∧ runningSlot State.reset.part = 0 ∧ slotState State.reset.part 0 = slotConfirmed ∧
    ∀ i, sessSt State.reset.part i = dflt .leaf (0x1320 + i) 1

/-- R499 and R504: in reset only supplies, the release of reset, boundary scan, and the bypass with its pin act on the part: every other command leaves it as it is, and of the pin only its level is held. -/
def Obligations.ResetHoldsThePart : Prop :=
  ∀ (c : Instr) (s : State), s.part.pow.phase = .inReset → (∀ n, c ≠ .supplyRise n) → (∀ n, c ≠ .supplyFail n) →
    (∀ a b d e, c ≠ .resetRelease a b d e) → (∀ o d, c ≠ .jtagInstructionUpdate o d) → c ≠ .testLogicReset →
    (∀ r, c = .bypassEngage true r → exec c s = .next { s with part := { s.part with pow := { s.part.pow with bypass := true } } }) ∧
    (∀ r, c = .bypassRelease true r → exec c s = .next { s with part := { s.part with pow := { s.part.pow with bypass := false } } }) ∧
    ((∀ r, c ≠ .bypassEngage true r) → (∀ r, c ≠ .bypassRelease true r) → (bypassOn s.part = true → (∀ a e, c ≠ .retimerLock a e) ∧ ∀ a, c ≠ .retimerLockLoss a) → exec c s = .next s)

/-- Every step keeps the dictionary, and the values still in effect, in their canonical order: equal dictionaries are equal data. R418, R489: every step keeps the journal's entries, and a write staged for it, entries that hosts write. -/
def Obligations.StepsKeepTheDictionaryOrdered : Prop :=
  (∀ s t : State, ordered s.part → step s = .next t → ordered t.part) ∧
  (∀ s t : State, journalOfHosts s.part → step s = .next t → journalOfHosts t.part)
end

