-- ==== Sys2Proof/Laws/Table.lean ====
section
/-! SUPPORT. Sparse tables: a read after a write, and the canonical form kept by every operation. -/
namespace Sys2Proof.Machine

variable {α : Type}

@[simp] theorem tget_nil (d : α) (k : Nat) : tget d [] k = d := rfl

@[simp] theorem tget_tins_same (d : α) (t : Table α) (k : Nat) (v : α) : tget d (tins t k v) k = v := by
  induction t with
  | nil => simp [tins, tget]
  | cons x t ih =>
    obtain ⟨j, w⟩ := x
    simp only [tins]
    split
    · simp [tget]
    · split
      · simp [tget]
      · simp [tget, *]

theorem tget_tins_ne (d : α) (t : Table α) {k j : Nat} (v : α) (h : j ≠ k) : tget d (tins t k v) j = tget d t j := by
  induction t with
  | nil => simp [tins, tget, h]
  | cons x t ih =>
    obtain ⟨i, w⟩ := x
    simp only [tins]
    split
    · subst_vars; simp [tget, h]
    · split
      · simp [tget, h]
      · simp [tget, ih]

@[simp] theorem tget_tdel_same (d : α) (t : Table α) (k : Nat) : tget d (tdel t k) k = d := by
  induction t with
  | nil => rfl
  | cons x t ih =>
    obtain ⟨i, w⟩ := x
    simp only [tdel]
    split
    · exact ih
    · simp [tget, *]

theorem tget_tdel_ne (d : α) (t : Table α) {k j : Nat} (h : j ≠ k) : tget d (tdel t k) j = tget d t j := by
  induction t with
  | nil => rfl
  | cons x t ih =>
    obtain ⟨i, w⟩ := x
    simp only [tdel]
    split
    · subst_vars; simp [tget, h, ih]
    · simp [tget, ih]

/-- A read after a write to the same key gives the value written. -/
@[simp] theorem tget_tput_same [DecidableEq α] (d : α) (t : Table α) (k : Nat) (v : α) : tget d (tput d t k v) k = v := by
  unfold tput; split
  · simp [*]
  · simp

/-- A write leaves every other key alone. -/
theorem tget_tput_ne [DecidableEq α] (d e : α) (t : Table α) {k j : Nat} (v : α) (h : j ≠ k) :
    tget e (tput d t k v) j = tget e t j := by
  unfold tput; split
  · exact tget_tdel_ne e t h
  · exact tget_tins_ne e t v h

theorem tasc_mono {t : Table α} {a b : Nat} (hab : a ≤ b) (h : tasc (some b) t = true) : tasc (some a) t = true := by
  cases t with
  | nil => rfl
  | cons x t =>
    obtain ⟨j, w⟩ := x
    simp only [tasc, Bool.and_eq_true, decide_eq_true_eq] at *
    exact ⟨by omega, h.2⟩

theorem tasc_tail {j : Nat} {w : α} {lo : Option Nat} {t : Table α} (h : tasc lo ((j, w) :: t) = true) :
    tasc (some j) t = true := by
  cases lo <;> simp_all [tasc]

theorem tasc_tdel (t : Table α) (k : Nat) (lo : Option Nat) (h : tasc lo t = true) : tasc lo (tdel t k) = true := by
  induction t generalizing lo with
  | nil => simpa [tdel] using h
  | cons x t ih =>
    obtain ⟨j, w⟩ := x
    simp only [tdel]
    split
    · cases lo with
      | none =>
        have := ih (some j) (tasc_tail h)
        generalize tdel t k = u at this
        cases u with
        | nil => rfl
        | cons y u => obtain ⟨i, z⟩ := y; simp_all [tasc]
      | some lo =>
        simp only [tasc, Bool.and_eq_true, decide_eq_true_eq] at h
        exact tasc_mono (by omega) (ih (some j) h.2)
    · cases lo <;> simp_all [tasc]

theorem tasc_tins (t : Table α) (k : Nat) (v : α) (lo : Option Nat) (hlo : ∀ a, lo = some a → a < k)
    (h : tasc lo t = true) : tasc lo (tins t k v) = true := by
  induction t generalizing lo with
  | nil => cases lo <;> simp_all [tins, tasc]
  | cons x t ih =>
    obtain ⟨j, w⟩ := x
    simp only [tins]
    split
    · subst_vars; cases lo <;> simp_all [tasc]
    · split
      · cases lo <;> simp_all [tasc]
      · have hj : j < k := by omega
        have := ih (some j) (by simpa using hj) (tasc_tail h)
        cases lo <;> simp_all [tasc]

theorem mem_tdel {t : Table α} {k : Nat} {x : Nat × α} (h : x ∈ tdel t k) : x ∈ t := by
  induction t with
  | nil => exact h
  | cons y t ih =>
    obtain ⟨j, w⟩ := y
    simp only [tdel] at h
    split at h
    · exact List.mem_cons_of_mem _ (ih h)
    · rcases List.mem_cons.1 h with h | h
      · exact h ▸ List.mem_cons_self
      · exact List.mem_cons_of_mem _ (ih h)

theorem mem_tins {t : Table α} {k : Nat} {v : α} {x : Nat × α} (h : x ∈ tins t k v) : x ∈ t ∨ x = (k, v) := by
  induction t with
  | nil => right; simpa [tins] using h
  | cons y t ih =>
    obtain ⟨j, w⟩ := y
    simp only [tins] at h
    split at h
    · rcases List.mem_cons.1 h with h | h
      · exact .inr h
      · exact .inl (List.mem_cons_of_mem _ h)
    · split at h
      · rcases List.mem_cons.1 h with h | h
        · exact .inr h
        · exact .inl h
      · rcases List.mem_cons.1 h with h | h
        · exact .inl (h ▸ List.mem_cons_self)
        · rcases ih h with h | h
          · exact .inl (List.mem_cons_of_mem _ h)
          · exact .inr h

/-- A write keeps the canonical form. -/
theorem twf_tput [DecidableEq α] (d : α) (t : Table α) (k : Nat) (v : α) (h : twf d t = true) :
    twf d (tput d t k v) = true := by
  simp only [twf, Bool.and_eq_true, List.all_eq_true, decide_eq_true_eq] at *
  unfold tput; split
  · exact ⟨tasc_tdel t k none h.1, fun x hx => h.2 x (mem_tdel hx)⟩
  · refine ⟨tasc_tins t k v none (by simp) h.1, fun x hx => ?_⟩
    rcases mem_tins hx with hx | rfl
    · exact h.2 x hx
    · assumption

theorem tasc_tput [DecidableEq α] (d : α) (t : Table α) (k : Nat) (v : α) (h : tasc none t = true) :
    tasc none (tput d t k v) = true := by
  unfold tput; split
  · exact tasc_tdel t k none h
  · exact tasc_tins t k v none (by simp) h

end Sys2Proof.Machine
end

