-- ==== Sys2Proof/Laws/State.lean ====
section
/-! SUPPORT. The state's fields under each named update: what an update changes and what it leaves, once and for all. -/
namespace Sys2Proof.Machine

/-! ### Outcomes -/

@[simp] theorem lift_eq (f : Part → Part) (s : State) : lift f s = .next { s with part := f s.part } := rfl

/-- A command of the data plane has its effect out of reset and outside recovery mode. -/
theorem run_live {f : Part → Part} {s : State} (ha : alive s.part = true) (hr : recovery s.part = false) :
    run f s = .next { s with part := f s.part } := by simp [run, ha, hr]

/-- A command of the data plane is held in reset and in recovery mode (R486, R499). -/
theorem run_held {f : Part → Part} {s : State} (h : alive s.part = false ∨ recovery s.part = true) :
    run f s = .next s := by rcases h with h | h <;> simp [run, h]

/-- A command of the management controller has its effect out of reset. -/
theorem runCtl_live {f : Part → Part} {s : State} (ha : alive s.part = true) :
    runCtl f s = .next { s with part := f s.part } := by simp [runCtl, ha]

/-- A command of the management controller is held in reset (R499). -/
theorem runCtl_held {f : Part → Part} {s : State} (h : alive s.part = false) : runCtl f s = .next s := by
  simp [runCtl, h]

/-- Every command of the data plane answers a next state that keeps the queue. -/
theorem run_next (f : Part → Part) (s : State) : ∃ q, run f s = .next { s with part := q } := ⟨_, rfl⟩

/-- Every command of the management controller answers a next state that keeps the queue. -/
theorem runCtl_next (f : Part → Part) (s : State) : ∃ q, runCtl f s = .next { s with part := q } := ⟨_, rfl⟩

@[simp] theorem onlyIf_true (f : Part → Part) (p : Part) : onlyIf true f p = f p := rfl
@[simp] theorem onlyIf_false (f : Part → Part) (p : Part) : onlyIf false f p = p := rfl
@[simp] theorem forEach_nil {α : Type} (f : α → Part → Part) (p : Part) : forEach [] f p = p := rfl
@[simp] theorem forEach_cons {α : Type} (a : α) (l : List α) (f : α → Part → Part) (p : Part) :
    forEach (a :: l) f p = forEach l f (f a p) := rfl

/-- What each turn of a loop keeps, the loop keeps. -/
theorem forEach_keeps {α : Type} (P : Part → Prop) (l : List α) (f : α → Part → Part) (p : Part)
    (h : P p) (hf : ∀ a q, P q → P (f a q)) : P (forEach l f p) := by
  induction l generalizing p with
  | nil => exact h
  | cons a l ih => exact ih (f a p) (hf a p h)

/-- What a conditional effect keeps when it happens, it keeps. -/
theorem onlyIf_keeps (P : Part → Prop) (b : Bool) (f : Part → Part) (p : Part) (h : P p) (hf : P p → P (f p)) :
    P (onlyIf b f p) := by cases b <;> simp [h, hf]

/-! ### Dictionary values -/

@[simp] theorem wr_clk (i j v : Nat) (p : Part) : (wr i j v p).clk = p.clk := rfl
@[simp] theorem wr_effOld (i j v : Nat) (p : Part) : (wr i j v p).effOld = p.effOld := rfl
@[simp] theorem wr_free (i j v : Nat) (p : Part) : (wr i j v p).free = p.free := rfl
@[simp] theorem wr_fab (i j v : Nat) (p : Part) : (wr i j v p).fab = p.fab := rfl
@[simp] theorem wr_front (i j v : Nat) (p : Part) : (wr i j v p).front = p.front := rfl
@[simp] theorem wr_cal (i j v : Nat) (p : Part) : (wr i j v p).cal = p.cal := rfl
@[simp] theorem wr_ref (i j v : Nat) (p : Part) : (wr i j v p).ref = p.ref := rfl
@[simp] theorem wr_iv (i j v : Nat) (p : Part) : (wr i j v p).iv = p.iv := rfl
@[simp] theorem wr_acq (i j v : Nat) (p : Part) : (wr i j v p).acq = p.acq := rfl
@[simp] theorem wr_mem (i j v : Nat) (p : Part) : (wr i j v p).mem = p.mem := rfl
@[simp] theorem wr_bld (i j v : Nat) (p : Part) : (wr i j v p).bld = p.bld := rfl
@[simp] theorem wr_lanes (i j v : Nat) (p : Part) : (wr i j v p).lanes = p.lanes := rfl
@[simp] theorem wr_eqAt (i j v : Nat) (p : Part) : (wr i j v p).eqAt = p.eqAt := rfl
@[simp] theorem wr_tests (i j v : Nat) (p : Part) : (wr i j v p).tests = p.tests := rfl
@[simp] theorem wr_links (i j v : Nat) (p : Part) : (wr i j v p).links = p.links := rfl
@[simp] theorem wr_tim (i j v : Nat) (p : Part) : (wr i j v p).tim = p.tim := rfl
@[simp] theorem wr_hk (i j v : Nat) (p : Part) : (wr i j v p).hk = p.hk := rfl
@[simp] theorem wr_svc (i j v : Nat) (p : Part) : (wr i j v p).svc = p.svc := rfl
@[simp] theorem wr_pow (i j v : Nat) (p : Part) : (wr i j v p).pow = p.pow := rfl
@[simp] theorem wr_upd (i j v : Nat) (p : Part) : (wr i j v p).upd = p.upd := rfl
@[simp] theorem bump_clk (i j : Nat) (p : Part) : (bump i j p).clk = p.clk := rfl
@[simp] theorem bump_effOld (i j : Nat) (p : Part) : (bump i j p).effOld = p.effOld := rfl
@[simp] theorem bump_free (i j : Nat) (p : Part) : (bump i j p).free = p.free := rfl
@[simp] theorem bump_fab (i j : Nat) (p : Part) : (bump i j p).fab = p.fab := rfl
@[simp] theorem bump_front (i j : Nat) (p : Part) : (bump i j p).front = p.front := rfl
@[simp] theorem bump_cal (i j : Nat) (p : Part) : (bump i j p).cal = p.cal := rfl
@[simp] theorem bump_ref (i j : Nat) (p : Part) : (bump i j p).ref = p.ref := rfl
@[simp] theorem bump_iv (i j : Nat) (p : Part) : (bump i j p).iv = p.iv := rfl
@[simp] theorem bump_acq (i j : Nat) (p : Part) : (bump i j p).acq = p.acq := rfl
@[simp] theorem bump_mem (i j : Nat) (p : Part) : (bump i j p).mem = p.mem := rfl
@[simp] theorem bump_bld (i j : Nat) (p : Part) : (bump i j p).bld = p.bld := rfl
@[simp] theorem bump_lanes (i j : Nat) (p : Part) : (bump i j p).lanes = p.lanes := rfl
@[simp] theorem bump_eqAt (i j : Nat) (p : Part) : (bump i j p).eqAt = p.eqAt := rfl
@[simp] theorem bump_tests (i j : Nat) (p : Part) : (bump i j p).tests = p.tests := rfl
@[simp] theorem bump_links (i j : Nat) (p : Part) : (bump i j p).links = p.links := rfl
@[simp] theorem bump_tim (i j : Nat) (p : Part) : (bump i j p).tim = p.tim := rfl
@[simp] theorem bump_hk (i j : Nat) (p : Part) : (bump i j p).hk = p.hk := rfl
@[simp] theorem bump_svc (i j : Nat) (p : Part) : (bump i j p).svc = p.svc := rfl
@[simp] theorem bump_pow (i j : Nat) (p : Part) : (bump i j p).pow = p.pow := rfl
@[simp] theorem bump_upd (i j : Nat) (p : Part) : (bump i j p).upd = p.upd := rfl
@[simp] theorem bumpBy_clk (k i j : Nat) (p : Part) : (bumpBy k i j p).clk = p.clk := by unfold bumpBy; split <;> rfl
@[simp] theorem bumpBy_effOld (k i j : Nat) (p : Part) : (bumpBy k i j p).effOld = p.effOld := by unfold bumpBy; split <;> rfl
@[simp] theorem bumpBy_free (k i j : Nat) (p : Part) : (bumpBy k i j p).free = p.free := by unfold bumpBy; split <;> rfl
@[simp] theorem bumpBy_fab (k i j : Nat) (p : Part) : (bumpBy k i j p).fab = p.fab := by unfold bumpBy; split <;> rfl
@[simp] theorem bumpBy_front (k i j : Nat) (p : Part) : (bumpBy k i j p).front = p.front := by unfold bumpBy; split <;> rfl
@[simp] theorem bumpBy_cal (k i j : Nat) (p : Part) : (bumpBy k i j p).cal = p.cal := by unfold bumpBy; split <;> rfl
@[simp] theorem bumpBy_ref (k i j : Nat) (p : Part) : (bumpBy k i j p).ref = p.ref := by unfold bumpBy; split <;> rfl
@[simp] theorem bumpBy_iv (k i j : Nat) (p : Part) : (bumpBy k i j p).iv = p.iv := by unfold bumpBy; split <;> rfl
@[simp] theorem bumpBy_acq (k i j : Nat) (p : Part) : (bumpBy k i j p).acq = p.acq := by unfold bumpBy; split <;> rfl
@[simp] theorem bumpBy_mem (k i j : Nat) (p : Part) : (bumpBy k i j p).mem = p.mem := by unfold bumpBy; split <;> rfl
@[simp] theorem bumpBy_bld (k i j : Nat) (p : Part) : (bumpBy k i j p).bld = p.bld := by unfold bumpBy; split <;> rfl
@[simp] theorem bumpBy_lanes (k i j : Nat) (p : Part) : (bumpBy k i j p).lanes = p.lanes := by unfold bumpBy; split <;> rfl
@[simp] theorem bumpBy_eqAt (k i j : Nat) (p : Part) : (bumpBy k i j p).eqAt = p.eqAt := by unfold bumpBy; split <;> rfl
@[simp] theorem bumpBy_tests (k i j : Nat) (p : Part) : (bumpBy k i j p).tests = p.tests := by unfold bumpBy; split <;> rfl
@[simp] theorem bumpBy_links (k i j : Nat) (p : Part) : (bumpBy k i j p).links = p.links := by unfold bumpBy; split <;> rfl
@[simp] theorem bumpBy_tim (k i j : Nat) (p : Part) : (bumpBy k i j p).tim = p.tim := by unfold bumpBy; split <;> rfl
@[simp] theorem bumpBy_hk (k i j : Nat) (p : Part) : (bumpBy k i j p).hk = p.hk := by unfold bumpBy; split <;> rfl
@[simp] theorem bumpBy_svc (k i j : Nat) (p : Part) : (bumpBy k i j p).svc = p.svc := by unfold bumpBy; split <;> rfl
@[simp] theorem bumpBy_pow (k i j : Nat) (p : Part) : (bumpBy k i j p).pow = p.pow := by unfold bumpBy; split <;> rfl
@[simp] theorem bumpBy_upd (k i j : Nat) (p : Part) : (bumpBy k i j p).upd = p.upd := by unfold bumpBy; split <;> rfl
@[simp] theorem advance_dict (n : Nat) (p : Part) : (advance n p).dict = p.dict := rfl
@[simp] theorem advance_effOld (n : Nat) (p : Part) : (advance n p).effOld = p.effOld := rfl
@[simp] theorem advance_free (n : Nat) (p : Part) : (advance n p).free = p.free := rfl
@[simp] theorem advance_fab (n : Nat) (p : Part) : (advance n p).fab = p.fab := rfl
@[simp] theorem advance_front (n : Nat) (p : Part) : (advance n p).front = p.front := rfl
@[simp] theorem advance_cal (n : Nat) (p : Part) : (advance n p).cal = p.cal := rfl
@[simp] theorem advance_ref (n : Nat) (p : Part) : (advance n p).ref = p.ref := rfl
@[simp] theorem advance_iv (n : Nat) (p : Part) : (advance n p).iv = p.iv := rfl
@[simp] theorem advance_acq (n : Nat) (p : Part) : (advance n p).acq = p.acq := rfl
@[simp] theorem advance_mem (n : Nat) (p : Part) : (advance n p).mem = p.mem := rfl
@[simp] theorem advance_bld (n : Nat) (p : Part) : (advance n p).bld = p.bld := rfl
@[simp] theorem advance_lanes (n : Nat) (p : Part) : (advance n p).lanes = p.lanes := rfl
@[simp] theorem advance_eqAt (n : Nat) (p : Part) : (advance n p).eqAt = p.eqAt := rfl
@[simp] theorem advance_tests (n : Nat) (p : Part) : (advance n p).tests = p.tests := rfl
@[simp] theorem advance_links (n : Nat) (p : Part) : (advance n p).links = p.links := rfl
@[simp] theorem advance_tim (n : Nat) (p : Part) : (advance n p).tim = p.tim := rfl
@[simp] theorem advance_hk (n : Nat) (p : Part) : (advance n p).hk = p.hk := rfl
@[simp] theorem advance_svc (n : Nat) (p : Part) : (advance n p).svc = p.svc := rfl
@[simp] theorem advance_pow (n : Nat) (p : Part) : (advance n p).pow = p.pow := rfl
@[simp] theorem advance_upd (n : Nat) (p : Part) : (advance n p).upd = p.upd := rfl
@[simp] theorem raise_clk (op : OpId) (r : ArbReq) (p : Part) : (raise op r p).clk = p.clk := rfl
@[simp] theorem raise_dict (op : OpId) (r : ArbReq) (p : Part) : (raise op r p).dict = p.dict := rfl
@[simp] theorem raise_effOld (op : OpId) (r : ArbReq) (p : Part) : (raise op r p).effOld = p.effOld := rfl
@[simp] theorem raise_free (op : OpId) (r : ArbReq) (p : Part) : (raise op r p).free = p.free := rfl
@[simp] theorem raise_front (op : OpId) (r : ArbReq) (p : Part) : (raise op r p).front = p.front := rfl
@[simp] theorem raise_cal (op : OpId) (r : ArbReq) (p : Part) : (raise op r p).cal = p.cal := rfl
@[simp] theorem raise_ref (op : OpId) (r : ArbReq) (p : Part) : (raise op r p).ref = p.ref := rfl
@[simp] theorem raise_iv (op : OpId) (r : ArbReq) (p : Part) : (raise op r p).iv = p.iv := rfl
@[simp] theorem raise_acq (op : OpId) (r : ArbReq) (p : Part) : (raise op r p).acq = p.acq := rfl
@[simp] theorem raise_mem (op : OpId) (r : ArbReq) (p : Part) : (raise op r p).mem = p.mem := rfl
@[simp] theorem raise_bld (op : OpId) (r : ArbReq) (p : Part) : (raise op r p).bld = p.bld := rfl
@[simp] theorem raise_lanes (op : OpId) (r : ArbReq) (p : Part) : (raise op r p).lanes = p.lanes := rfl
@[simp] theorem raise_eqAt (op : OpId) (r : ArbReq) (p : Part) : (raise op r p).eqAt = p.eqAt := rfl
@[simp] theorem raise_tests (op : OpId) (r : ArbReq) (p : Part) : (raise op r p).tests = p.tests := rfl
@[simp] theorem raise_links (op : OpId) (r : ArbReq) (p : Part) : (raise op r p).links = p.links := rfl
@[simp] theorem raise_tim (op : OpId) (r : ArbReq) (p : Part) : (raise op r p).tim = p.tim := rfl
@[simp] theorem raise_hk (op : OpId) (r : ArbReq) (p : Part) : (raise op r p).hk = p.hk := rfl
@[simp] theorem raise_svc (op : OpId) (r : ArbReq) (p : Part) : (raise op r p).svc = p.svc := rfl
@[simp] theorem raise_pow (op : OpId) (r : ArbReq) (p : Part) : (raise op r p).pow = p.pow := rfl
@[simp] theorem raise_upd (op : OpId) (r : ArbReq) (p : Part) : (raise op r p).upd = p.upd := rfl
@[simp] theorem arbClear_clk (op : OpId) (p : Part) : (arbClear op p).clk = p.clk := rfl
@[simp] theorem arbClear_dict (op : OpId) (p : Part) : (arbClear op p).dict = p.dict := rfl
@[simp] theorem arbClear_effOld (op : OpId) (p : Part) : (arbClear op p).effOld = p.effOld := rfl
@[simp] theorem arbClear_free (op : OpId) (p : Part) : (arbClear op p).free = p.free := rfl
@[simp] theorem arbClear_front (op : OpId) (p : Part) : (arbClear op p).front = p.front := rfl
@[simp] theorem arbClear_cal (op : OpId) (p : Part) : (arbClear op p).cal = p.cal := rfl
@[simp] theorem arbClear_ref (op : OpId) (p : Part) : (arbClear op p).ref = p.ref := rfl
@[simp] theorem arbClear_iv (op : OpId) (p : Part) : (arbClear op p).iv = p.iv := rfl
@[simp] theorem arbClear_acq (op : OpId) (p : Part) : (arbClear op p).acq = p.acq := rfl
@[simp] theorem arbClear_mem (op : OpId) (p : Part) : (arbClear op p).mem = p.mem := rfl
@[simp] theorem arbClear_bld (op : OpId) (p : Part) : (arbClear op p).bld = p.bld := rfl
@[simp] theorem arbClear_lanes (op : OpId) (p : Part) : (arbClear op p).lanes = p.lanes := rfl
@[simp] theorem arbClear_eqAt (op : OpId) (p : Part) : (arbClear op p).eqAt = p.eqAt := rfl
@[simp] theorem arbClear_tests (op : OpId) (p : Part) : (arbClear op p).tests = p.tests := rfl
@[simp] theorem arbClear_links (op : OpId) (p : Part) : (arbClear op p).links = p.links := rfl
@[simp] theorem arbClear_tim (op : OpId) (p : Part) : (arbClear op p).tim = p.tim := rfl
@[simp] theorem arbClear_hk (op : OpId) (p : Part) : (arbClear op p).hk = p.hk := rfl
@[simp] theorem arbClear_svc (op : OpId) (p : Part) : (arbClear op p).svc = p.svc := rfl
@[simp] theorem arbClear_pow (op : OpId) (p : Part) : (arbClear op p).pow = p.pow := rfl
@[simp] theorem arbClear_upd (op : OpId) (p : Part) : (arbClear op p).upd = p.upd := rfl
@[simp] theorem renew_clk (rq : Rq) (p : Part) : (renew rq p).clk = p.clk := by unfold renew; repeat' (first | rfl | split)
@[simp] theorem renew_dict (rq : Rq) (p : Part) : (renew rq p).dict = p.dict := by unfold renew; repeat' (first | rfl | split)
@[simp] theorem renew_effOld (rq : Rq) (p : Part) : (renew rq p).effOld = p.effOld := by unfold renew; repeat' (first | rfl | split)
@[simp] theorem renew_free (rq : Rq) (p : Part) : (renew rq p).free = p.free := by unfold renew; repeat' (first | rfl | split)
@[simp] theorem renew_fab (rq : Rq) (p : Part) : (renew rq p).fab = p.fab := by unfold renew; repeat' (first | rfl | split)
@[simp] theorem renew_front (rq : Rq) (p : Part) : (renew rq p).front = p.front := by unfold renew; repeat' (first | rfl | split)
@[simp] theorem renew_cal (rq : Rq) (p : Part) : (renew rq p).cal = p.cal := by unfold renew; repeat' (first | rfl | split)
@[simp] theorem renew_ref (rq : Rq) (p : Part) : (renew rq p).ref = p.ref := by unfold renew; repeat' (first | rfl | split)
@[simp] theorem renew_iv (rq : Rq) (p : Part) : (renew rq p).iv = p.iv := by unfold renew; repeat' (first | rfl | split)
@[simp] theorem renew_acq (rq : Rq) (p : Part) : (renew rq p).acq = p.acq := by unfold renew; repeat' (first | rfl | split)
@[simp] theorem renew_mem (rq : Rq) (p : Part) : (renew rq p).mem = p.mem := by unfold renew; repeat' (first | rfl | split)
@[simp] theorem renew_bld (rq : Rq) (p : Part) : (renew rq p).bld = p.bld := by unfold renew; repeat' (first | rfl | split)
@[simp] theorem renew_lanes (rq : Rq) (p : Part) : (renew rq p).lanes = p.lanes := by unfold renew; repeat' (first | rfl | split)
@[simp] theorem renew_eqAt (rq : Rq) (p : Part) : (renew rq p).eqAt = p.eqAt := by unfold renew; repeat' (first | rfl | split)
@[simp] theorem renew_tests (rq : Rq) (p : Part) : (renew rq p).tests = p.tests := by unfold renew; repeat' (first | rfl | split)
@[simp] theorem renew_links (rq : Rq) (p : Part) : (renew rq p).links = p.links := by unfold renew; repeat' (first | rfl | split)
@[simp] theorem renew_tim (rq : Rq) (p : Part) : (renew rq p).tim = p.tim := by unfold renew; repeat' (first | rfl | split)
@[simp] theorem renew_hk (rq : Rq) (p : Part) : (renew rq p).hk = p.hk := by unfold renew; repeat' (first | rfl | split)
@[simp] theorem renew_pow (rq : Rq) (p : Part) : (renew rq p).pow = p.pow := by unfold renew; repeat' (first | rfl | split)
@[simp] theorem renew_upd (rq : Rq) (p : Part) : (renew rq p).upd = p.upd := by unfold renew; repeat' (first | rfl | split)

/-- A request without a session renews none (R467). -/
@[simp] theorem renew_none {rq : Rq} (h : rq.sess = none) (p : Part) : renew rq p = p := by simp [renew, h]

/-- Keys of different entries differ. -/
theorem ekey_inj {i j a b : Nat} (ha : a < 256) (hb : b < 256) : ekey i a = ekey j b ↔ i = j ∧ a = b := by
  unfold ekey; constructor
  · intro h; omega
  · rintro ⟨rfl, rfl⟩; rfl

/-- An entry reads as the value placed in it. -/
@[simp] theorem rd_wr_same (i a v : Nat) (p : Part) : rd (wr i a v p) i a = v := by simp [rd, wr]

/-- Placing a value in one entry leaves every other one alone. -/
theorem rd_wr_ne {i a j b : Nat} (v : Nat) (p : Part) (h : ekey j b ≠ ekey i a) : rd (wr i a v p) j b = rd p j b := by
  simp [rd, wr, tget_tput_ne _ _ _ _ h]

/-- Both at once. -/
theorem rd_wr {i a j b : Nat} (v : Nat) (p : Part) (ha : a < 256) (hb : b < 256) :
    rd (wr i a v p) j b = if j = i ∧ b = a then v else rd p j b := by
  split
  · rename_i h; obtain ⟨rfl, rfl⟩ := h; exact rd_wr_same ..
  · rename_i h; exact rd_wr_ne v p (by rwa [Ne, ekey_inj hb ha])

@[simp] theorem rd_bump_same (i a : Nat) (p : Part) : rd (bump i a p) i a = satInc (rd p i a) := rd_wr_same ..
theorem rd_bump_ne {i a j b : Nat} (p : Part) (h : ekey j b ≠ ekey i a) : rd (bump i a p) j b = rd p j b := rd_wr_ne _ p h
@[simp] theorem bumpBy_zero (i a : Nat) (p : Part) : bumpBy 0 i a p = p := rfl
theorem rd_bumpBy_same {k : Nat} (hk : k ≠ 0) (i a : Nat) (p : Part) : rd (bumpBy k i a p) i a = satAdd (rd p i a) k := by
  simp [bumpBy, hk]
theorem rd_bumpBy_ne {k i a j b : Nat} (p : Part) (h : ekey j b ≠ ekey i a) : rd (bumpBy k i a p) j b = rd p j b := by
  unfold bumpBy; split
  · rfl
  · exact rd_wr_ne _ p h

/-- The dictionary's values depend on nothing but the dictionary and the role. -/
theorem rd_congr {p q : Part} (hd : q.dict = p.dict) (hp : q.pow.role = p.pow.role) (i a : Nat) : rd q i a = rd p i a := by
  simp [rd, hd, hp]

@[simp] theorem rd_renew (rq : Rq) (p : Part) (i a : Nat) : rd (renew rq p) i a = rd p i a := rd_congr (by simp) (by simp) ..
@[simp] theorem rd_advance (n : Nat) (p : Part) (i a : Nat) : rd (advance n p) i a = rd p i a := rfl
@[simp] theorem rd_raise (op : OpId) (r : ArbReq) (p : Part) (i a : Nat) : rd (raise op r p) i a = rd p i a := rfl
@[simp] theorem rd_arbClear (op : OpId) (p : Part) (i a : Nat) : rd (arbClear op p) i a = rd p i a := rfl
@[simp] theorem alive_wr (i a v : Nat) (p : Part) : alive (wr i a v p) = alive p := rfl
@[simp] theorem alive_bump (i a : Nat) (p : Part) : alive (bump i a p) = alive p := rfl

/-- A placed value keeps the dictionary's keys in rising order. -/
theorem wr_keeps_order (i a v : Nat) (p : Part) (h : tasc none p.dict = true) : tasc none (wr i a v p).dict = true :=
  tasc_tput _ _ _ _ h

theorem bump_keeps_order (i a : Nat) (p : Part) (h : tasc none p.dict = true) : tasc none (bump i a p).dict = true :=
  wr_keeps_order _ _ _ _ h

/-! ### The clock -/

@[simp] theorem advance_rp (n : Nat) (p : Part) : (advance n p).clk.rp = p.clk.rp + n := rfl
@[simp] theorem advance_rate (n : Nat) (p : Part) : (advance n p).clk.rate = p.clk.rate := rfl
@[simp] theorem advance_lastB (n : Nat) (p : Part) : (advance n p).clk.lastB = p.clk.lastB := rfl
@[simp] theorem advance_steps (n : Nat) (p : Part) : (advance n p).clk.steps = p.clk.steps := rfl

/-- Time never runs backward through `advance`, and the counter moves by the rate of each ring period (R333). -/
theorem advance_fx (n : Nat) (p : Part) : (advance n p).clk.fx = (p.clk.fx + n * p.clk.incr) % 2 ^ 112 := rfl

/-! ### The numbered parts of the state: an update is read back -/

@[simp] theorem chain_setChain (k v : Nat) (x : Chain) (p : Part) : chain (setChain k v x p) k v = x := tget_tput_same ..
@[simp] theorem credit_setCredit (k v : Nat) (x : Credit) (p : Part) : credit (setCredit k v x p) k v = x := tget_tput_same ..
@[simp] theorem rxOf_setRx (k v : Nat) (x : Option Rx) (p : Part) : rxOf (setRx k v x p) k v = x := tget_tput_same ..
@[simp] theorem slot_setSlot (v n : Nat) (x : Slot) (p : Part) : slot (setSlot v n x p) v n = x := tget_tput_same ..
@[simp] theorem queue_setQueue (v n j : Nat) (x : Queue) (p : Part) : queue (setQueue v n j x p) v n j = x := tget_tput_same ..
@[simp] theorem out_setOut (v : Nat) (x : OutView) (p : Part) : out (setOut v x p) v = x := tget_tput_same ..
@[simp] theorem view_setView (v : Nat) (x : ViewEng) (p : Part) : view (setView v x p) v = x := tget_tput_same ..
@[simp] theorem comp_setComp (n t : Nat) (x : Comp) (p : Part) : comp (setComp n t x p) n t = x := tget_tput_same ..
@[simp] theorem grp_setGrp (g : Nat) (x : Grp) (p : Part) : grp (setGrp g x p) g = x := tget_tput_same ..
@[simp] theorem link_setLink (k : Nat) (x : Link) (p : Part) : link (setLink k x p) k = x := tget_tput_same ..
@[simp] theorem lane_setLane (l : Nat) (x : Lane) (p : Part) : lane (setLane l x p) l = x := tget_tput_same ..
@[simp] theorem fifo_setFifo (f : FifoId) (x : Fifo) (p : Part) : fifo (setFifo f x p) f = x := tget_tput_same ..
@[simp] theorem conv_setConv (m : Nat) (x : Conv) (p : Part) : conv (setConv m x p) m = x := tget_tput_same ..
@[simp] theorem loopOut_setLoop (j : Nat) (x : LoopOut) (p : Part) : loopOut (setLoop j x p) j = x := tget_tput_same ..
@[simp] theorem laneTest_setTest (l : Nat) (x : LaneTest) (p : Part) : laneTest (setTest l x p) l = x := tget_tput_same ..
@[simp] theorem session_setSession (i : Nat) (x : Session) (p : Part) : session (setSession i x p) i = x := tget_tput_same ..
@[simp] theorem transferOf_setTransfer (i : Nat) (t : Option Transfer) (p : Part) : transferOf (setTransfer i t p) i = t := tget_tput_same ..

end Sys2Proof.Machine
end

