-- ==== Sys2Proof/Laws/Memory.lean ====
section
/-! SUPPORT. Event memory: a word read after a write, and the canonical form kept by every operation. -/
namespace Sys2Proof.Machine

/-! ### Updates that leave memory alone -/

/-- Memory words and fills of `q` are those of `p`. -/
def sameMem (p q : Part) : Prop := q.mem.words = p.mem.words ∧ q.mem.fills = p.mem.fills

/-- Equal words and fills hold the same at every address. -/
theorem unlisted_congr {p q : Part} (hf : q.mem.fills = p.mem.fills) (a : Nat) : unlisted q a = unlisted p a := by
  simp [unlisted, hf]

theorem sameMem.peek {p q : Part} (h : sameMem p q) (a : Nat) : peek q a = Machine.peek p a := by
  simp [Machine.peek, unlisted_congr h.2, h.1]

theorem sameMem.wf {p q : Part} (h : sameMem p q) : memWf q = memWf p := by simp [memWf, unlisted_congr h.2, h.1]

theorem sameMem.keeps {p q : Part} (h : sameMem p q) (hw : memWf p = true) : memWf q = true := h.wf ▸ hw

theorem sameMem.trans {p q r : Part} (h : sameMem p q) (g : sameMem q r) : sameMem p r := ⟨g.1.trans h.1, g.2.trans h.2⟩

theorem sameMem_refl (p : Part) : sameMem p p := ⟨rfl, rfl⟩
theorem sameMem_wr (idx sub v : Nat) (p : Part) : sameMem p (wr idx sub v p) := ⟨rfl, rfl⟩
theorem sameMem_bump (idx sub : Nat) (p : Part) : sameMem p (bump idx sub p) := ⟨rfl, rfl⟩
theorem sameMem_bankCount (idx a : Nat) (p : Part) : sameMem p (bankCount idx a p) := ⟨rfl, rfl⟩
theorem sameMem_deliver (ws : List FWord) (p : Part) : sameMem p (deliver ws p) := ⟨rfl, rfl⟩
theorem sameMem_countCorrected (r a y : Nat) (p : Part) : sameMem p (countCorrected r a y p) := ⟨rfl, rfl⟩

theorem sameMem_logError (kind r addr b1 b2 block : Nat) (p : Part) : sameMem p (logError kind r addr b1 b2 block p) := by
  unfold logError; split <;> exact ⟨rfl, rfl⟩

theorem sameMem_uncorrectable (kind r code a block : Nat) (p : Part) : sameMem p (uncorrectable kind r code a block p) := by
  unfold uncorrectable
  refine sameMem.trans ?_ (sameMem_logError _ _ _ _ _ _ _)
  unfold onlyIf; split <;> exact ⟨rfl, rfl⟩

/-- Looking at a unit changes no memory. -/
theorem sameMem_decodeUnit (code a : Nat) (p : Part) : sameMem p (decodeUnit code a p).2 := by
  unfold decodeUnit
  dsimp only
  repeat' split
  all_goals exact ⟨rfl, rfl⟩

/-- Reading a unit changes no memory (R251). -/
theorem sameMem_unitRead (block r code a : Nat) (p : Part) : sameMem p (unitRead block r code a p).2 := by
  have h := sameMem_decodeUnit code a p
  unfold unitRead
  dsimp only
  split <;> (rename_i e; rw [e] at h)
  · exact h
  · exact h.trans (sameMem_countCorrected _ _ _ _)
  · exact h.trans (sameMem_uncorrectable _ _ _ _ _ _)
  · exact h.trans (sameMem_bump _ _ _)

/-- Reading a row changes no memory (R251). -/
theorem sameMem_rowRead (block a : Nat) (both : Bool) (p : Part) : sameMem p (rowRead block a both p).2 := by
  unfold rowRead
  split
  · exact sameMem_refl p
  · dsimp only
    split
    · exact sameMem_unitRead _ _ _ _ _
    · split
      · exact (sameMem_unitRead _ _ _ _ _).trans (sameMem_unitRead _ _ _ _ _)
      · exact sameMem_unitRead _ _ _ _ _

/-- Reading a list of addresses changes no memory. -/
theorem sameMem_readList (block : Nat) (as : List Nat) (p : Part) : sameMem p (readList block as p).2 := by
  induction as, p using readList.induct block with
  | case1 a b t p ht ws q hq us r hr ih =>
    have h := sameMem_rowRead block a true p
    rw [hq] at h
    unfold readList; rw [if_pos ht, hq]; exact h.trans ih
  | case2 a b t p ht ws q hq us r hr ih =>
    have h := sameMem_rowRead block a false p
    rw [hq] at h
    unfold readList; rw [if_neg ht, hq]; exact h.trans ih
  | case3 a p => exact sameMem_rowRead _ _ _ _
  | case4 p => exact sameMem_refl p

/-! ### One word -/

/-- A word reads as it was stored. -/
@[simp] theorem peek_poke_same (a : Nat) (w : MWord) (p : Part) : peek (poke a w p) a = some w := by
  have h : unlisted (poke a w p) a = unlisted p a := unlisted_congr rfl a
  simp only [peek, h]; simp [poke]

/-- Storing a word leaves every other address as it was. -/
theorem peek_poke_ne {a b : Nat} (w : MWord) (p : Part) (h : b ≠ a) : peek (poke a w p) b = peek p b := by
  have hu : unlisted (poke a w p) b = unlisted p b := unlisted_congr rfl b
  simp only [peek, hu]; exact tget_tput_ne _ _ _ _ h

/-! ### The canonical form -/

theorem memWf_iff (p : Part) : memWf p = true ↔ tasc none p.mem.words = true ∧ ∀ x ∈ p.mem.words, x.2 ≠ unlisted p x.1 := by
  simp [memWf]

/-- Reset memory is in canonical form. -/
theorem memWf_reset : memWf State.reset.part = true := rfl

/-- Storing a word keeps the canonical form. -/
theorem memWf_poke (a : Nat) (w : MWord) (p : Part) (h : memWf p = true) : memWf (poke a w p) = true := by
  rw [memWf_iff] at h ⊢
  have hu : ∀ b, unlisted (poke a w p) b = unlisted p b := unlisted_congr rfl
  refine ⟨tasc_tput _ _ _ _ h.1, fun x hx => ?_⟩
  rw [hu]
  simp only [poke, tput] at hx
  split at hx
  · exact h.2 x (mem_tdel hx)
  · rcases mem_tins hx with hx | rfl
    · exact h.2 x hx
    · assumption

/-- Storing words one by one keeps it. -/
theorem memWf_forEach {α : Type} (l : List α) (f : α → Part → Part) (p : Part) (h : memWf p = true)
    (hf : ∀ a q, memWf q = true → memWf (f a q) = true) : memWf (forEach l f p) = true :=
  forEach_keeps (fun q => memWf q = true) l f p h hf

/-- Upsets keep the canonical form (R248). -/
theorem memWf_upset (l : Upsets) (p : Part) (h : memWf p = true) : memWf (upset l p) = true :=
  memWf_forEach _ _ _ h fun x q hq => by
    split
    · exact memWf_poke _ _ _ hq
    · exact hq

theorem memWf_putWords (code : Nat) (pois : Bool) (ws : List (Nat × Word)) (p : Part) (h : memWf p = true) :
    memWf (putWords code pois ws p) = true := memWf_forEach _ _ _ h fun _ _ => memWf_poke _ _ _

/-- A partial write keeps the canonical form (R252). -/
theorem memWf_partialWrite (r code block a : Nat) (c : Cover) (p : Part) (h : memWf p = true) :
    memWf (partialWrite r code block a c p) = true := by
  have hd := (sameMem_decodeUnit code a p).keeps h
  unfold partialWrite
  split <;> (rename_i e; rw [e] at hd)
  · exact memWf_putWords _ _ _ _ hd
  · rw [(sameMem_logError ..).wf, (sameMem_countCorrected ..).wf]; exact memWf_putWords _ _ _ _ hd
  · rw [(sameMem_uncorrectable ..).wf, (sameMem_bump ..).wf]; exact memWf_putWords _ _ _ _ hd
  · exact memWf_putWords _ _ _ _ hd

/-- A write of half a word in P2 keeps the canonical form (R252). -/
theorem memWf_halfWrite (a : Nat) (high : Bool) (w : FWord) (p : Part) (h : memWf p = true) :
    memWf (halfWrite a high w p) = true := by
  unfold halfWrite; split <;> exact memWf_poke _ _ _ h

theorem memWf_coverWrite (block r a : Nat) (c : Cover) (p : Part) (h : memWf p = true) :
    memWf (coverWrite block r a c p) = true := by
  unfold coverWrite
  dsimp only
  split
  · split
    · exact memWf_halfWrite _ _ _ _ h
    · exact memWf_partialWrite _ _ _ _ _ _ h
  · split
    · exact memWf_partialWrite _ _ _ _ _ _ h
    · exact memWf_putWords _ _ _ _ h
  · split
    · exact memWf_putWords _ _ _ _ h
    · exact memWf_putWords _ _ _ _ (memWf_putWords _ _ _ _ h)

/-- A write access keeps the canonical form (R252). -/
theorem memWf_rowWrite (block a : Nat) (c : Cover) (p : Part) (h : memWf p = true) : memWf (rowWrite block a c p) = true := by
  unfold rowWrite; split
  · exact h
  · exact memWf_coverWrite _ _ _ _ _ h

/-- Writing words to a list of addresses keeps the canonical form. -/
theorem memWf_writeList (block : Nat) (l : List (Nat × FWord)) (p : Part) (h : memWf p = true) :
    memWf (writeList block l p) = true := by
  induction l, p using writeList.induct block with
  | case1 x y t p hc ih => unfold writeList; rw [if_pos hc]; exact ih (memWf_rowWrite _ _ _ _ h)
  | case2 x y t p hc ih => unfold writeList; rw [if_neg hc]; exact ih (memWf_rowWrite _ _ _ _ h)
  | case3 x p => exact memWf_rowWrite _ _ _ _ h
  | case4 p => exact h

/-- Writing an image into a region keeps the canonical form (R259, R492). -/
theorem memWf_writeImage (as : List Nat) (ws : List FWord) (p : Part) (h : memWf p = true) :
    memWf (writeImage as ws p) = true := memWf_writeList _ _ _ h

theorem sameMem_takeCell (rs : List Nat) (p : Part) : sameMem p (takeCell rs p).2 := by
  unfold takeCell; split <;> exact ⟨rfl, rfl⟩

/-- Taking cells and linking them keeps the canonical form (R184). -/
theorem memWf_takeCells (block : Nat) (rs : List Nat) (n : Nat) (p : Part) (h : memWf p = true) :
    memWf (takeCells block rs n p).2 = true := by
  induction n generalizing p with
  | zero => exact h
  | succ n ih =>
    have h1 := (sameMem_takeCell rs p).keeps h
    unfold takeCells
    split <;> (rename_i e; rw [e] at h1)
    · dsimp only
      split
      · exact memWf_rowWrite _ _ _ _ (ih _ h1)
      · exact ih _ h1
    · exact h1

theorem memWf_addCells (block r : Nat) (cs : List Nat) (n : Nat) (p : Part) (h : memWf p = true) :
    memWf (addCells block r cs n p).2 = true := by
  unfold addCells
  dsimp only
  split
  · exact h
  · dsimp only
    split
    · exact memWf_rowWrite _ _ _ _ (memWf_takeCells _ _ _ _ h)
    · exact memWf_takeCells _ _ _ _ h

/-- Storing words in fresh cells keeps the canonical form (R184). -/
theorem memWf_addWords (block r : Nat) (ws : List FWord) (p : Part) (h : memWf p = true) :
    memWf (addWords block r ws p).2 = true := by
  have h1 := memWf_addCells block r [] ws.length p h
  unfold addWords
  split <;> (rename_i e; rw [e] at h1)
  · exact memWf_writeList _ _ _ h1
  · exact h1

/-- A read of a block keeps the canonical form (R251). -/
theorem memWf_memRead (block a : Nat) (both : Bool) (p : Part) (h : memWf p = true) : memWf (memRead block a both p) = true := by
  unfold memRead
  split
  · exact ((sameMem_rowRead block a both p).trans (sameMem_deliver _ _)).keeps h
  · exact h

theorem sameMem_transfer (x : Present) (p : Part) : sameMem p (transfer x p) := by
  unfold transfer
  dsimp only
  repeat' split
  all_goals exact ⟨rfl, rfl⟩

/-- Transfers on the fabric leave memory alone. -/
theorem sameMem_grantAll (dst : Block) (n : Nat) (l : List Present) (p : Part) : sameMem p (grantAll dst n l p) := by
  induction n generalizing l p with
  | zero => exact sameMem_refl p
  | succ n ih =>
    unfold grantAll
    split
    · exact sameMem_refl p
    · exact (sameMem_transfer _ p).trans (ih _ _)

theorem sameMem_portTakes (a : Nat) (x : Present) (p : Part) : sameMem p (portTakes a x p).2 := by
  have h : sameMem p (present (portOfBank a) [x] p) := sameMem_grantAll _ _ _ { p with fab := { p.fab with xfers := [] } }
  unfold portTakes
  dsimp only
  split <;> exact h

/-- A write of a block keeps the canonical form (R252). -/
theorem memWf_memWrite (a : Nat) (w : MemWrite) (p : Part) (h : memWf p = true) : memWf (memWrite a w p) = true := by
  unfold memWrite
  split
  · split
    · exact memWf_rowWrite _ _ _ _ ((sameMem_portTakes _ _ _).keeps h)
    · exact memWf_rowWrite _ _ _ _ ((sameMem_portTakes _ _ _).keeps h)
    · exact memWf_rowWrite _ _ _ _ (((sameMem_portTakes _ _ _).trans (sameMem_portTakes _ _ _)).keeps h)
  · exact h

/-- Scrubbing a unit keeps the canonical form (R254). -/
theorem memWf_scrubOne (r code a : Nat) (p : Part) (h : memWf p = true) : memWf (scrubOne r code a p) = true := by
  have hd := (sameMem_decodeUnit code a p).keeps h
  unfold scrubOne
  dsimp only
  split <;> (rename_i e; rw [e] at hd)
  · exact hd
  · exact hd
  · rw [(sameMem_logError ..).wf, (sameMem_countCorrected ..).wf]; exact memWf_putWords _ _ _ _ hd
  · rw [(sameMem_uncorrectable ..).wf, (sameMem_bump ..).wf]; exact memWf_putWords _ _ _ _ hd

/-- What is left of a rising table rises. -/
theorem tasc_filter {α : Type} (f : Nat × α → Bool) : ∀ (t : Table α) (lo : Option Nat), tasc lo t = true → tasc lo (t.filter f) = true
  | [], _, h => h
  | (j, v) :: t, none, h => by
    have ih := tasc_filter f t (some j) h
    rw [List.filter_cons]
    split
    · exact ih
    · cases hs : t.filter f with
      | nil => rfl
      | cons x s => rw [hs] at ih; exact tasc_tail ih
  | (j, v) :: t, some a, h => by
    have ha : a < j ∧ tasc (some j) t = true := by simpa [tasc] using h
    have ih := tasc_filter f t (some j) ha.2
    rw [List.filter_cons]
    split
    · simpa [tasc] using And.intro ha.1 ih
    · exact tasc_mono (Nat.le_of_lt ha.1) ih

/-- An area that covers an address is not found past one that does not. -/
theorem find_filter_ne (f : Area) (a : Nat) (l : List Area) (hc : covers f a = false) :
    (l.filter (· != f)).find? (covers · a) = l.find? (covers · a) := by
  induction l with
  | nil => rfl
  | cons g l ih =>
    by_cases e : g = f
    · subst e; simp [hc, ih]
    · have : (g != f) = true := by simpa using e
      rw [List.filter_cons, if_pos this, List.find?_cons, List.find?_cons, ih]

/-- Filling an area keeps the canonical form (R249). -/
theorem memWf_fillArea (f : Area) (p : Part) (h : memWf p = true) : memWf (fillArea f p) = true := by
  rw [memWf_iff] at h ⊢
  refine ⟨tasc_filter _ _ _ h.1, fun x hx => ?_⟩
  obtain ⟨hm, hk⟩ := List.mem_filter.mp hx
  have hc : covers f x.1 = false := by rw [← Bool.not_eq_true']; exact hk
  have : unlisted (fillArea f p) x.1 = unlisted p x.1 := by
    show ((f :: p.mem.fills.filter (· != f)).find? (covers · x.1)).map _ = _
    rw [List.find?_cons, hc]
    simp only [find_filter_ne f x.1 _ hc, unlisted]
  rw [this]; exact h.2 x hm

theorem memWf_fillRegion (r : Nat) (p : Part) (h : memWf p = true) : memWf (fillRegion r p) = true := memWf_fillArea _ _ h

/-- Loading an image into region 0 keeps the canonical form (R484). -/
theorem memWf_loadBody (i : Image) (p : Part) (h : memWf p = true) : memWf (loadBody i p) = true := by
  unfold loadBody; rw [(sameMem_wr ..).wf]; exact memWf_fillArea _ _ h

/-- An area less a bank covers what it did in every other bank. -/
theorem find_skip (b a : Nat) (hb : a / 65536 ≠ b) (g : Area → MWord) (hg : ∀ f s, g { f with skip := s } = g f) (l : List Area) :
    ((l.map fun f => if f.skip.contains b then f else { f with skip := b :: f.skip }).find? (covers · a)).map g =
      (l.find? (covers · a)).map g := by
  induction l with
  | nil => rfl
  | cons f l ih =>
    rw [List.map_cons, List.find?_cons, List.find?_cons]
    have hc : covers (if f.skip.contains b then f else { f with skip := b :: f.skip }) a = covers f a := by
      split
      · rfl
      · simp [covers, hb]
    rw [hc]
    cases covers f a with
    | true => by_cases e : f.skip.contains b = true <;> simp only [e, if_true, Option.map_some, hg] <;> simp [hg]
    | false => exact ih

/-- A bank whose contents are arbitrary keeps the canonical form (R524). -/
theorem memWf_scrambleBank (b : Nat) (p : Part) (h : memWf p = true) : memWf (scrambleBank b p) = true := by
  rw [memWf_iff] at h ⊢
  refine ⟨tasc_filter _ _ _ h.1, fun x hx => ?_⟩
  obtain ⟨hm, hk⟩ := List.mem_filter.mp hx
  have hb : x.1 / 65536 ≠ b := by simpa using hk
  have : unlisted (scrambleBank b p) x.1 = unlisted p x.1 := find_skip b x.1 hb _ (fun _ _ => rfl) p.mem.fills
  rw [this]; exact h.2 x hm

end Sys2Proof.Machine
end

