-- ==== Sys2Proof/Laws/Operands.lean ====
section
/-! SUPPORT. Single bits of a number under the updates that set and clear them. -/
namespace Sys2Proof.Machine

theorem bit_setBit (n i j : Nat) : bit (setBit n i) j = (bit n j || decide (i = j)) := by
  simp [bit, setBit, Nat.testBit_or, Nat.one_shiftLeft, Nat.testBit_two_pow]

@[simp] theorem bit_setBit_same (n i : Nat) : bit (setBit n i) i = true := by simp [bit_setBit]

theorem bit_setBit_ne (n : Nat) {i j : Nat} (h : j ≠ i) : bit (setBit n i) j = bit n j := by
  simp [bit_setBit, Ne.symm h]

theorem bit_clrBit (n i j : Nat) : bit (clrBit n i) j = (bit n j && !decide (i = j)) := by
  unfold clrBit bit
  split
  · rename_i h
    simp only [Nat.testBit_xor, Nat.one_shiftLeft, Nat.testBit_two_pow]
    by_cases hij : i = j
    · subst hij; simp [h]
    · simp [hij]
  · rename_i h
    by_cases hij : i = j
    · subst hij; simpa using h
    · simp [hij]

@[simp] theorem bit_clrBit_same (n i : Nat) : bit (clrBit n i) i = false := by simp [bit_clrBit]

theorem bit_clrBit_ne (n : Nat) {i j : Nat} (h : j ≠ i) : bit (clrBit n i) j = bit n j := by
  simp [bit_clrBit, Ne.symm h]

/-- A unit made from a word has an even number of ones, whatever the word (R7), shown on the low words that decide it. -/
theorem withParity_poison_odd : evenParity poisonUnit = false := by decide

end Sys2Proof.Machine
end

