-- ==== Sys2Proof/Laws/Requests.lean ====
section
/-! SUPPORT. What a command that is a write of one entry can do, what an abort write can do, and what an arbiter
holds. -/
namespace Sys2Proof.Machine

/-- The controller takes a request at once: it is not in power-fail handling, and no request is ahead (R415, R507). -/
def takesNow (p : Part) : Prop := p.pow.phase ≠ .powerFail ∧ svcBusy p = false

/-- Everything a write of one entry can do: nothing in power-fail handling, wait behind earlier requests or compaction, be
refused by a check or by the journal, or commit with its action and be answered OK (R415, R422, R423). -/
theorem ownWrite_cases (rq : Rq) (idx sub v : Nat) (act : Nat → Part → Part) (p : Part) :
    (p.pow.phase = .powerFail ∧ ownWrite rq idx sub v act p = p) ∨
    (svcBusy p = true ∧ ownWrite rq idx sub v act p = enqueue { rq, idx, sub, op := .write v, since := p.clk.rp } p) ∨
    (takesNow p ∧ ∃ r, lookup idx sub = some r ∧ checkWrite (renew rq p) rq idx sub v = .ok ∧
      ((journalled r = true ∧ journalState p = 2 ∧ ownWrite rq idx sub v act p = refuse rq idx sub .journal (renew rq p)) ∨
       (journalled r = true ∧ journalState p = 1 ∧
         ownWrite rq idx sub v act p = enqueue { rq, idx, sub, op := .write v, since := p.clk.rp } (renew rq p)) ∨
       ((journalled r = false ∨ (journalState p ≠ 2 ∧ journalState p ≠ 1)) ∧
         ownWrite rq idx sub v act p = answerOk rq idx sub [] (commitNow rq r idx sub v (writeAction r) act (renew rq p))))) ∨
    (takesNow p ∧ (∀ r, ¬ (checkWrite (renew rq p) rq idx sub v = .ok ∧ lookup idx sub = some r)) ∧
      ∃ c, c = checkWrite (renew rq p) rq idx sub v ∧
        ownWrite rq idx sub v act p = ownRefusal idx sub c (refuse rq idx sub c (renew rq p))) := by
  have hj : journalState (renew rq p) = journalState p := rd_renew ..
  by_cases h1 : p.pow.phase = .powerFail
  · exact .inl ⟨h1, by simp [ownWrite, h1]⟩
  · cases h2 : svcBusy p with
    | true => exact .inr (.inl ⟨rfl, by simp [ownWrite, h1, h2]⟩)
    | false =>
      have ht : takesNow p := ⟨h1, h2⟩
      refine .inr (.inr ?_)
      unfold ownWrite
      simp only [h1, h2, if_false, Bool.false_eq_true, renew_clk]
      split
      · rename_i r hc hl
        refine .inl ⟨ht, r, hl, hc, ?_⟩
        rw [hj]
        cases hr : journalled r with
        | false => exact .inr (.inr ⟨.inl rfl, by simp⟩)
        | true =>
          by_cases e2 : journalState p = 2
          · exact .inl ⟨rfl, e2, by simp [e2]⟩
          · by_cases e1 : journalState p = 1
            · exact .inr (.inl ⟨rfl, e1, by simp [e1]⟩)
            · exact .inr (.inr ⟨.inr ⟨e2, e1⟩, by simp [e1, e2]⟩)
      · rename_i hn
        exact .inr ⟨ht, fun r h => hn r h.1 h.2, _, rfl, rfl⟩

/-- Everything an abort write can do: nothing in power-fail handling, wait, be refused, be raised at the arbiter of a BUSY
operation, end a DEFERRED one, or be counted as ineffective (R72). -/
theorem abortWrite_cases (rq : Rq) (idx sub v : Nat) (op : OpId) (status : Nat) (undo : Part → Part) (p : Part) :
    (p.pow.phase = .powerFail ∧ abortWrite rq idx sub v op status undo p = p) ∨
    (svcBusy p = true ∧ abortWrite rq idx sub v op status undo p = enqueue { rq, idx, sub, op := .write v, since := p.clk.rp } p) ∨
    (takesNow p ∧ checkWrite (renew rq p) rq idx sub v ≠ .ok ∧
      abortWrite rq idx sub v op status undo p = refuse rq idx sub (checkWrite (renew rq p) rq idx sub v) (renew rq p)) ∨
    (takesNow p ∧ checkWrite (renew rq p) rq idx sub v = .ok ∧
      ((status = 1 ∧ abortWrite rq idx sub v op status undo p = raise op { kind := .abort, rqs := [rq] } (renew rq p)) ∨
       (status = 6 ∧ abortWrite rq idx sub v op status undo p = answerOk rq idx sub [] (undo (renew rq p))) ∨
       (status ≠ 1 ∧ status ≠ 6 ∧ abortWrite rq idx sub v op status undo p = answerOk rq idx sub [] (bump 0x1230 1 (renew rq p))))) := by
  by_cases h1 : p.pow.phase = .powerFail
  · exact .inl ⟨h1, by simp [abortWrite, h1]⟩
  · cases h2 : svcBusy p with
    | true => exact .inr (.inl ⟨rfl, by simp [abortWrite, h1, h2]⟩)
    | false =>
      refine .inr (.inr ?_)
      have e : abortWrite rq idx sub v op status undo p = abortTake rq idx sub v op status undo (renew rq p) := by simp [abortWrite, h1, h2]
      rw [e]; unfold abortTake
      split
      · rename_i hc
        refine .inr ⟨⟨h1, h2⟩, hc, ?_⟩
        by_cases s1 : status = 1
        · exact .inl ⟨s1, by simp [s1]⟩
        · by_cases s6 : status = 6
          · exact .inr (.inl ⟨s6, by simp [s6]⟩)
          · exact .inr (.inr ⟨s1, s6, by simp [s1, s6]⟩)
      · rename_i hc
        exact .inl ⟨⟨h1, h2⟩, hc, rfl⟩

/-- The first request at an arbiter is the one pending there (R70). -/
theorem arbOf_raise_first {op : OpId} {r : ArbReq} {p : Part} (h : arbOf p op = []) : arbOf (raise op r p) op = [r] := by
  have hn : ∀ a ∈ p.fab.arb, (a.1 == op) = false := by
    intro a ha
    cases e : a.1 == op with
    | false => rfl
    | true =>
      have hm : a ∈ p.fab.arb.filter fun a => a.1 == op := List.mem_filter.mpr ⟨ha, e⟩
      rw [List.map_eq_nil_iff.mp h] at hm
      exact absurd hm List.not_mem_nil
  have hs : (p.fab.arb.any fun a => a.1 == op && a.2.kind.same r.kind) = false := by
    rw [List.any_eq_false]; intro a ha; simp [hn a ha]
  have hf : p.fab.arb.filter (fun a => a.1 == op) = [] := List.filter_eq_nil_iff.mpr fun a ha => by simp [hn a ha]
  simp [arbOf, raise, hs, hf]

/-- An operation with nothing pending at its arbiter still runs. -/
theorem unsettled_idle {op : OpId} {p : Part} (h : arbOf p op = []) : unsettled p op = true := by simp [unsettled, h]

/-- After a grant nothing is pending at the arbiter (R71). -/
theorem arbOf_arbClear (op : OpId) (p : Part) : arbOf (arbClear op p) op = [] := by
  simp [arbOf, arbClear, List.filter_filter]

end Sys2Proof.Machine
end

