-- ==== Sys2Proof/Tests/Slice0.lean ====
section
/-! SUPPORT. Tests: the manual's worked examples, ill-formed commands that the checks refuse, and for each statement
states that meet its hypotheses. -/
namespace Sys2Proof.Tests
open Sys2Proof Sys2Proof.Machine
set_option Elab.async false

/-! ### Small states -/

/-- A Leaf and a Bough right after reset. -/
def tLeaf : State := State.reset
def tBough : State := { part := { pow := { role := .bough } } }

/-- A state with values placed in entries. -/
def put (l : List (Nat × Nat × Nat)) (s : State) : State :=
  { s with part := l.foldl (fun p x => wr x.1 x.2.1 x.2.2 p) s.part }

/-- A state with its part changed. -/
def on (f : Part → Part) (s : State) : State := { s with part := f s.part }

/-- The part after a command. -/
def after (c : Instr) (s : State) : Part :=
  match exec c s with
  | .next t => t.part
  | _ => s.part

/-- Requests of the Custodian, the Vendor and the Tenant of view 0. -/
def rqC : Rq := { cls := 1 }
def rqV : Rq := { cls := 7 }
def rqT : Rq := { cls := 2 }

/-- The words of an entry, as its row gives them. -/
def rowOf (idx sub : Nat) : Row := (lookup idx sub).getD ⟨0, 0, 0, 0, .u8, .ro, 0, 0, false, false, false, 0, 0, 0, .bool, 0, .any⟩

/-! ### Witnesses: the handshake core -/

theorem wit_TransfersAreCheckedTwice : live tLeaf.part ∧ evenParity 3 = true ∧ evenParity 1 = false := by decide

/-- R45: after acquisition 0 the compressor's path stands before the builder's only if it comes first in the order. -/
theorem test_paths_take_turns :
    (((after (.unitTransfer (.bankPort 0) [⟨.compressor 0, 3, .normal, 3, 0⟩, ⟨.acquisition 1, 3, .normal, 3, 0⟩, ⟨.builder 2, 3, .normal, 3, 0⟩])
      (on (present (.bankPort 0) [⟨.acquisition 1, 3, .normal, 3, 0⟩]) tLeaf)).fab.xfers.map (·.src)) =
      [.builder 2, .compressor 0, .acquisition 1]) := by decide +kernel

theorem wit_HeadroomWindowReports :
    live (put [(0x1200, 6, 9216)] tLeaf).part ∧ 335 < 2 ^ 28 ∧ rd (put [(0x1200, 6, 9216)] tLeaf).part 0x1200 6 ≠ 0 ∧ rd tLeaf.part 0x1200 6 = 0 ∧ live tLeaf.part := by decide +kernel

/-- The bus receive FIFO with `n` units, which its other side has seen. -/
def tFifo (n : Nat) : State := on (setFifo .busRx { q := List.replicate n (3, .normal), wr := n, wrSeen := gray n }) tLeaf

/-- The same with the oldest unit read, which the write side has not yet seen. -/
def tFifoRead (n : Nat) : State := on (fifoRead .busRx 0) (tFifo n)

theorem wit_IslandFifosKeepOrderAndStop :
    (live (tFifo 767).part ∧ sideStopped (tFifo 767).part .busRx true = false ∧ seesFull (seeReads .busRx 0 (tFifo 767).part) .busRx = false) ∧
    (seesFull (seeReads .busRx 0 (tFifo 1024).part) .busRx = true ∧ credited .busRx = true) ∧
    (seesFull (seeReads .busRx 1 (tFifoRead 1024).part) .busRx = true ∧ seesFull (seeReads .busRx 0 (tFifoRead 1024).part) .busRx = false) ∧
    (sideStopped (tFifo 1).part .busRx false = false ∧ seesEmpty (seeWrites .busRx 0 (tFifo 1).part) .busRx = false ∧ (fifo (tFifo 1).part .busRx).q = [(3, .normal)]) ∧
    seesEmpty (seeWrites .busRx 0 tLeaf.part) .busRx = true ∧ islandStopped (on (islandStop 17) tLeaf).part 17 = true := by decide +kernel

theorem wit_IslandFifosStaySound :
    fifoSound .busRx (fifo (tFifo 1024).part .busRx) ∧ fifoSound .busRx (fifo (tFifoRead 1024).part .busRx) ∧
    fifoSound .busRx (fifo tLeaf.part .busRx) := by unfold fifoSound; decide +kernel

/-! ### Witnesses: hit inputs -/

/-- A Leaf with group 15 on, and its comparator 255.3 in a state, with a threshold of 0 V and an input offset of −5 tk. -/
def tHit (c : Comp) : State :=
  on (setComp 255 3 c) (put [(0x2000, 16, 1), (0x2002, 64, 0x8000), (0x201F, 64, 512), (0x20CF, 16, 2 ^ 20 - 1280)] tLeaf)

/-- The same with the clock at tick 1,000. -/
def tHitAt (c : Comp) : State := on (fun p => { p with clk := { p.clk with fx := 1000 * 2 ^ 32, bases := [1000] } }) (tHit c)

/-- Five ticks ahead of the clock: an input offset of 5 tk. -/
def tHitAhead : State := put [(0x20CF, 16, 1280)] (tHitAt {})

/-- R79 and R80: 1 µV above a threshold of 0 V makes a leading edge, below it with the polarity inverted; with 2 mV of hysteresis the output
goes low below −2 mV. -/
theorem test_crossing :
    crossing (tHit {}).part 255 3 1 = some true ∧ crossing (tHit {}).part 255 3 0 = none ∧
    crossing (put [(0x2001, 16, 0x8000)] (tHit {})).part 255 3 (-1) = some true ∧ crossing (tHit { out := true }).part 255 3 (-2000) = none ∧
    crossing (tHit { out := true }).part 255 3 (-2001) = some false := by decide +kernel

theorem wit_EdgesAreRecordedOrBlanked :
    (cutOff (tHit {}).part 255 = false ∧ pulseUV (tHit {}).part 255 = 0 ∧ (comp (tHit {}).part 255 3).raw = [] ∧ (comp (tHit {}).part 255 3).out = false ∧
      (comp (tHit { out := true }).part 255 3).out = true) ∧
    (live (tHit {}).part ∧ compOn (tHit {}).part 255 3 = true ∧ crossing (advance 9 (tHit {}).part) 255 3 1 = some true ∧ compOnAt (advance 9 (tHit {}).part) 255 3 (hitStamp (advance 9 (tHit {}).part) 255 0 true) = true ∧
      (comp (tHit {}).part 255 3).stopAt = none ∧ (comp (tHit {}).part 255 3).blank = none ∧ hitStamp (advance 9 (tHit {}).part) 255 0 true ≤ now (advance 9 (tHit {}).part) ∧
      afterBackStep (advance 9 (tHit {}).part) (hitStamp (advance 9 (tHit {}).part) 255 0 true) = false ∧
      (comp (tHit {}).part 255 3).win = none ∧ (comp (tHit {}).part 255 3).mute ≤ hitStamp (advance 9 (tHit {}).part) 255 0 true) ∧
    now (advance 0 tHitAhead.part) < hitStamp (advance 0 tHitAhead.part) 255 0 true ∧
    (comp (tHit { win := some { lead := 1000 } }).part 255 3).win = some { lead := 1000 } ∧
    hitStamp (advance 9 (tHit { win := some { lead := 1000 } }).part) 255 0 true < 1000 + 256 ∧
    (crossing (advance 9 (tHit { out := true, win := some { lead := 1000 } }).part) 255 3 (-20000) = some false ∧ (comp (tHit { out := true }).part 255 3).skip = false) ∧
    ((comp (tHit { blank := some (0, 5000) }).part 255 3).blank = some (0, 5000) ∧ hitStamp (advance 9 (tHit { blank := some (0, 5000) }).part) 255 0 true < 5000) := by decide +kernel

/-- A closed comparator with an automatic closure. -/
def tShut : Comp := { closed := true, spans := [{ start := 100, stop := some 9000 }] }

/-- A merge window at 7 with a trailing edge, the output low; and the same with it high. -/
def tWin (out : Bool) : Comp := { out, win := some { lead := 7, firstTrail := some 40, lastTrail := some 40 } }

theorem wit_WindowsAndBlankingEnd :
    (live (tHit {}).part ∧ (comp (tHit (tWin false)).part 255 3).win = (tWin false).win ∧
      (comp (judgeNow 255 3 (advanceTo (7 + 768) (tHit (tWin false)).part)) 255 3) = tWin false ∧ (tWin false).stopAt = none ∧
      (comp (judgeNow 255 3 (advanceTo (7 + 768) (tHit (tWin true)).part)) 255 3) = tWin true) ∧
    ((comp (tHit { blank := some (0, 5000) }).part 255 3).blank = some (0, 5000) ∧
      (comp (judgeNow 255 3 (advanceTo (5000 + 512) (tHit { blank := some (0, 5000) }).part)) 255 3) = { blank := some (0, 5000) }) ∧
    ((comp (tHit tShut).part 255 3).spans = [{ start := 100, stop := some 9000 }] ∧ (comp (tHit tShut).part 255 3).closed = true) := by decide +kernel

/-- A leading edge, recorded and not yet in its buffer. -/
def tEdge : Edge := { n := 255, t := 3, lead := true, stamp := 5000, mrg := true }

/-- A marker waits at a stage that every group has passed. -/
def tMark : State := on (addMarker { n := 4, t := 0, close := true, stamp := 77 }) tLeaf

/-- A record waits there. -/
def tRec : State := on (setGrp 15 { stream := [.edge tEdge] }) tLeaf

theorem wit_RecordsReachTheEngine :
    (live (tHit { pend := [tEdge] }).part ∧ (comp (tHit { pend := [tEdge] }).part 255 3).pend = [tEdge] ∧ tEdge.lead = true ∧
      (comp (tHit { pend := [tEdge], buf := List.replicate 6 tEdge }).part 255 3).buf.length ≤ 6 ∧
      6 < (comp (tHit { pend := [tEdge], buf := List.replicate 7 tEdge }).part 255 3).buf.length ∧
      (comp (tHit { pend := [{ tEdge with lead := false }], dropping := true }).part 255 3).dropping = true ∧ (comp (tHit { pend := [{ tEdge with lead := false }] }).part 255 3).dropping = false) ∧
    ((grp (tHit { buf := [tEdge] }).part 15).stream.length < streamDepth ∧ islandStopped (tHit {}).part 1 = false ∧
      oldestBuffered (tHit { buf := [tEdge] }).part 15 = some tEdge ∧ oldestBuffered (tHit {}).part 15 = none ∧ groupOn (tHit {}).part 15 = true) ∧
    (nextOf (stageReady tMark.part) = some (.marker { n := 4, t := 0, close := true, stamp := 77 }) ∧ ∀ g, g < 16 → groupPassed (stageReady tMark.part) g 77 = true) ∧
    (nextOf (stageReady tRec.part) = some (.edge tEdge) ∧ ∀ g, g < 16 → groupPassed (stageReady tRec.part) g 5000 = true) := by decide +kernel

/-- Group 15 with its shutter on and test pulses set. -/
def tGroup : State :=
  put [(0x2000, 16, 1), (0x204F, 1, 1), (0x204F, 2, 1), (0x203F, 1, 1), (0x203F, 2, 0x8000), (0x203F, 4, 8), (0x203F, 6, 100000)] tLeaf

theorem wit_WindowsPulsesAndBoundaries :
    (live tGroup.part ∧ groupOn tGroup.part 15 = true ∧ eff tGroup.part 0x204F 1 = 1 ∧ 0 < shutterWindowTk tGroup.part 15 ∧
      (grp tGroup.part 15).window = now tGroup.part / shutterWindowTk tGroup.part 15 * shutterWindowTk tGroup.part 15) ∧
    (eff tGroup.part 0x203F 1 = 1 ∧ (grp tGroup.part 15).genFrom ≤ eff tGroup.part 0x203F 6 ∧ (grp tGroup.part 15).genLast = none ∧ skipEnd tGroup.part (eff tGroup.part 0x203F 6) = none ∧
      nextPulse tGroup.part 15 = some 100000) ∧
    nextPulse (put [(0x203F, 1, 2), (0x203F, 5, 4)] tGroup).part 15 = some 100000 ∧ (grp (on (testPulse 15) tGroup).part 15).genLast.isSome = true := by decide +kernel

/-! ### Witnesses: calibration and REF -/

/-- A Leaf with group 15 on, REF present and the ring locked to it. -/
def tCal : State := put [(0x2000, 16, 1), (0x20D0, 1, 1), (0x20D0, 2, 0)] tLeaf

/-- The calibration of group 15 runs, with so many hits of 2^16. -/
def tCalRuns (n : Nat) : State :=
  on (fun p => { p with cal := { p.cal with queue := [.group 15], busy := true, hits := n, expo := 16 } }) (put [(0x2081, 16, 1)] tCal)

theorem wit_CalibrationRunsItsCourse :
    (serving tCal.part ∧ quiet tCal.part ∧ checkWrite tCal.part rqC 0x2080 16 1 = .ok ∧ calEnabled tCal.part (.group 15) = true ∧ tCal.part.cal.queue = [] ∧
      tCal.part.cal.busy = false ∧ ringLocked tCal.part = true ∧ oscOk 1600000 = true ∧ oscOk 1600001 = false ∧ eff tCal.part 0x2083 2 ≠ 0 ∧ calEnabled tCal.part (.group 14) = false ∧ checkWrite tCal.part rqC 0x2080 15 1 = .ok) ∧
    (ringLocked tLeaf.part = false ∧ checkWrite tCal.part rqC 0x2080 16 2 = .ok ∧ calStatus tCal.part (.group 15) ≠ 1 ∧ calStatus tCal.part (.group 15) ≠ 6) ∧
    (calStatus (tCalRuns 0).part (.group 15) = 1 ∧ checkWrite (tCalRuns 0).part rqC 0x2080 16 2 = .ok ∧ calRunning (tCalRuns 65535).part = some (.group 15) ∧
      (tCalRuns 65535).part.cal.hits < 2 ^ (tCalRuns 65535).part.cal.expo ∧ calRunning (tCalRuns 65536).part = some (.group 15) ∧
      (tCalRuns 65536).part.cal.hits = 2 ^ (tCalRuns 65536).part.cal.expo ∧ (tCalRuns 65536).part.cal.accepted = none ∧ arbOf (tCalRuns 65536).part (.cal (.group 15)) = [] ∧ unsettled (tCalRuns 65536).part (.cal (.group 15)) = true ∧
      arbOf (on (raiseFailure (.cal (.group 15)) 2) (tCalRuns 65536)).part (.cal (.group 15)) = [{ kind := .failure 2 }] ∧
      widthsOk (newTable (tCalRuns 65536).part.cal.hist (2 ^ (tCalRuns 65536).part.cal.expo)) = false ∧
      widthsOk (newTable ((List.range 128).map fun r => (r, 512)) (2 ^ 16)) = true) ∧
    (let s := on (fun p => { p with cal := { p.cal with queue := [.group 15] } }) (put [(0x2081, 16, 6)] tCal)
     s.part.cal.queue = [.group 15] ∧ s.part.cal.busy = false ∧ ringLocked s.part = true ∧ calStatus s.part (.group 15) = 6) ∧
    (eff (tCalRuns 0).part 0x2083 2 ≠ 0 ∧ rd (tCalRuns 0).part 0x20D0 1 = 1 ∧ (tCalRuns 0).part.cal.queue ≠ [] ∧ rd tLeaf.part 0x20D0 1 ≠ 1) ∧
    tableState (put [(0x2086, 16, 1)] tCal).part (.group 15) = 1 := by decide +kernel

/-- R115: just outside 1.1 to 1.6 GHz no calibration begins. -/
theorem test_calibration_oscillator : oscOk 1099999 = false ∧ oscOk 1100000 = true := by decide

/-- REF is present with its last good edge at 65,536. -/
def tRef : State := on (fun p => { p with ref := { p.ref with last := some 65536 } }) (put [(0x6000, 3, 2)] tCal)

/-- An interval measurement between the two compares, N = 3, BUSY with `iv`. -/
def tIv (st : Nat) (iv : Interval) : State :=
  on (fun p => { p with iv := iv }) (put [(0x2101, 1, 0x70000), (0x2101, 2, 0x70001), (0x2101, 3, 3), (0x2102, 1, st)] tCal)

/-- REF is missing, 255 edges have come in step, the last at 65,536. -/
def tRefBack : State := on (fun p => { p with ref := { p.ref with last := some 65536, run := 255 } }) (put [(0x20D0, 1, 0), (0x20D0, 2, 2)] tLeaf)

theorem wit_RefIsWatched :
    (live tRef.part ∧ tRef.part.ref.last = some 65536 ∧ rd tRef.part 0x20D0 1 = 1 ∧ calRunning tRef.part = none ∧ rd tRef.part 0x6000 3 = 2 ∧
      calRunning (tCalRuns 0).part = some (.group 15) ∧ arbOf (tCalRuns 0).part (.cal (.group 15)) = []) ∧
    (inStep tRef.part.ref.last (auxStamp (advance 768 tRef.part) .ref 0 false) = true ∧ inStep tRef.part.ref.last (auxStamp (advance 800 tRef.part) .ref 0 false) = false) ∧
    (rd (tIv 1 { src := 0x20020 }).part 0x2102 1 = 1 ∧ (tIv 1 { src := 0x20020 }).part.iv.src = pinCode .ref true ∧ rd tRef.part 0x2102 1 ≠ 1) ∧
    (rd tRefBack.part 0x20D0 1 ≠ 1 ∧ tRefBack.part.ref.run = 255 ∧ inStep tRefBack.part.ref.last (auxStamp (advance 768 tRefBack.part) .ref 0 false) = true) ∧
    rd (put [(0x20D0, 2, 1)] tLeaf).part 0x20D0 2 = 1 ∧
    (let s := on (fun p => { p with cal := { p.cal with auxDone := true } }) (put [(0x20D0, 1, 1), (0x20D0, 2, 3)] tLeaf)
     rd s.part 0x20D0 2 = 3 ∧ rd s.part 0x20D0 1 = 1 ∧ s.part.cal.auxDone = true ∧ rd s.part 0x6000 3 ≠ 3) := by decide +kernel

/-! ### Witnesses: the interval unit -/

theorem wit_IntervalStartsAndEnds :
    (serving (tIv 0 {}).part ∧ quiet (tIv 0 {}).part ∧ checkWrite (tIv 0 {}).part rqC 0x2100 1 1 = .ok ∧ ivRejects (put [(0x2101, 3, 1)] (tIv 0 {})).part = false ∧ checkWrite (put [(0x2101, 3, 1)] (tIv 0 {})).part rqC 0x2100 1 1 = .ok ∧
      checkWrite (put [(0x2101, 1, 0)] tLeaf).part rqC 0x2100 1 1 = .ok ∧ ivRejects (put [(0x2101, 1, 0)] tLeaf).part = true) ∧
    (checkWrite (tIv 1 {}).part rqC 0x2100 1 2 = .ok ∧ rd (tIv 1 {}).part 0x2102 1 = 1 ∧ checkWrite (tIv 0 {}).part rqC 0x2100 1 2 = .ok ∧ rd (tIv 0 {}).part 0x2102 1 ≠ 1 ∧ rd (tIv 0 {}).part 0x2102 1 ≠ 6) ∧
    arbOf (on (raise .interval { kind := .abort, rqs := [rqC] }) (tIv 1 {})).part .interval = [{ kind := .abort, rqs := [rqC] }] ∧
    arbOf (on (fun p => raise .interval { kind := .abort, rqs := [rqC] } (raise .interval { kind := .completion } p)) (tIv 1 {})).part .interval =
      [{ kind := .completion }, { kind := .abort, rqs := [rqC] }] := by decide +kernel

/-- The third repetition of three is in progress, or not begun. -/
def tRep (b : Option IvEvent) : Interval := { rearm := 5000, first := false, n := 2, reps := 3, adv := 10, src := 0x70000, dst := 0x70001, start := b }

theorem wit_RepetitionsAndCompares :
    (live (tIv 1 (tRep none)).part ∧ ivOpen (tIv 0 (tRep none)).part = false ∧ ivOpen (tIv 1 (tRep none)).part = true ∧ (tRep none).starts = [] ∧ (tRep none).stops = [] ∧
      (tRep none).stop = none ∧ (tRep none).src ≠ (tRep none).dst ∧ (tRep none).start = none ∧ ivAfter (tRep none) 5001 = true) ∧
    ((tRep (some ⟨6000, 0, 0⟩)).start = some ⟨6000, 0, 0⟩ ∧ before (tRep (some ⟨6000, 0, 0⟩)).rearm 5988 = true ∧ before 5988 (ivFloor (tRep (some ⟨6000, 0, 0⟩)) 6000) = false ∧
      before 5987 (ivFloor (tRep (some ⟨6000, 0, 0⟩)) 6000) = true) ∧
    (ivRipe (on (advance 79) (tIv 1 (tRep none))).part 6000 = true ∧ ivRipe (tIv 1 (tRep none)).part 6000 = false) ∧
    (let v := { tRep (some ⟨6000, 0, 0⟩) with stop := some ⟨6001, 0, 0⟩ }
     ivOpen (tIv 1 v).part = true ∧ v.inbox = [] ∧ before (now (tIv 1 v).part) (ivDue v 6000) = true ∧ before 6001 (ivDue v 6000) = true ∧ ((11 : Nat) : Int) = max 0 (diffMod 80 6001 6000 + v.adv)) ∧
    ((tRep none).cmp0 = none ∧ ({ tRep none with cmp0 := some 5001, cmp1 := some 7000 } : Interval).cmp0 = some 5001) := by decide +kernel

/-- R134, the worked example's second step: a stop stamped before s − D − 2 is EARLY, and the next one is judged on its own. -/
theorem test_early_stop_is_counted :
    rd (after .intervalSourceEvent (tIv 1 { tRep (some ⟨6000, 0, 0⟩) with inbox := [(0x70001, ⟨5987, 0, 0⟩)] })) 0x2104 1 = 1 := by decide +kernel

/-! ### Witnesses: triggering and acquisition -/

/-- A Leaf with uplink A in SERVICE, view 3 in a mode. -/
def tTrig (mode : Nat) : State := put [(0x5110, 1, 3), (0x3003, 1, mode)] tLeaf

/-- A Leaf that is trigger master, its port 0 in SERVICE. -/
def tMaster (mode : Nat) : State := put [(0x5100, 1, 3), (0x3050, 1, 1), (0x3050, 2, 8), (0x3003, 4, 0x80)] (tTrig mode)

theorem wit_TriggerPinsAndRequests :
    (live (tTrig 0).part ∧ eff (tTrig 0).part 0x3020 1 = 0 ∧ (tTrig 0).part.acq.tab = {} ∧ (tTrig 0).part.acq.oldTab = none ∧ isMaster (tTrig 0).part = false ∧
      inService (tTrig 0).part 16 = true ∧ (link (tTrig 0).part 16).reqs.length < 16 ∧ linkStopped (tTrig 0).part 16 = false) ∧
    (eff (tTrig 0).part 0x3020 (if true then 2 else 1) == 0) ≠ false ∧
    (inService (put [(0x510F, 1, 3)] (tTrig 0)).part 15 = true ∧ inService (tTrig 0).part 15 = false) ∧
    (inService (put [(0x5100, 1, 3)] tLeaf).part 0 = true ∧ isMaster (put [(0x5100, 1, 3)] tLeaf).part = false ∧ inService tLeaf.part 16 = false ∧ inService tLeaf.part 17 = false) := by decide +kernel

theorem wit_TriggersAreAcceptedAndScheduled :
    (live (tMaster 2).part ∧ inService (tMaster 2).part 0 = true ∧ isMaster (tMaster 2).part = true ∧
      effectiveMask ⟨2 ^ 80 - 1, 7, 15, 0⟩ (bump 0x3050 5 (tMaster 2).part) ≠ 0 ∧ eff (tMaster 2).part 0x3050 4 ≠ 0xFFFFFFFFFF ∧
      effectiveMask ⟨0, 7, 7, 0⟩ (bump 0x3050 5 (tMaster 0).part) = 0) ∧
    (inService (tTrig 2).part 16 = true ∧ inService (tTrig 2).part 17 = false ∧ viewMode (tTrig 2).part 3 = 2 ∧ frontOn (tTrig 2).part = true ∧ (view (tTrig 2).part 3).caps.length < 64 ∧
      (view (tTrig 2).part 3).lastNum = none ∧ viewMode (tTrig 1).part 3 ≠ 2 ∧ tierZero (tMaster 2).part = false ∧ (link (tMaster 2).part 16).cmds.length < 16) := by decide +kernel

/-- View 3 of a Leaf in triggered mode, with a ring of one cell and a capture of [1000, 2000) with so many records. -/
def tCap (busy : Bool) (count : Nat) : State :=
  on (setView 3 { caps := [{ num := 1, trig := 1500, w0 := 1000, stop := 2000, count }], capBusy := busy })
    (put [(0x3003, 1, 2), (0x3003, 2, 500), (0x3003, 3, 500), (0x3013, 1, 2), (0x3013, 2, 2), (0x7002, 2, 1), (0x7002, 4, 1), (0x7002, 7, 2), (0x7002, 8, 1)] tLeaf)

/-- The capture of `tCap`. -/
def tCapOf (count : Nat) : Cap := { num := 1, trig := 1500, w0 := 1000, stop := 2000, count }

/-- The words of its fragment. -/
def tCapWords : List FWord := captureFragment (cutRead 3 (tCapOf 0) [] (tCap true 0).part).2 3 (tCapOf 0) (cutRead 3 (tCapOf 0) [] (tCap true 0).part).1

/-- A frame of view 3 has ended, with its output queue in region 2 of one cell or of none. -/
def tOffered (cells : Nat) : State :=
  on (fun p => setView 3 { frags := [{ frame := 0, mode := 1, epoch := 0 }], rate := 2147483 } (advanceTo (2 ^ 23) p)) (put [(0x3013, 2, 2), (0x7002, 2, 1), (0x7002, 4, cells)] tLeaf)

/-- Its fragment, as the queue takes it. -/
def tOffWords (cells : Nat) : List FWord := leafFragment (advanceTo (2 ^ 23 + 98304) (tOffered cells).part) 3 0 0 0 0 (2 ^ 23) false []

theorem wit_CapturesAndFragmentsEnd :
    (live (tCap false 0).part ∧ (view (tCap false 0).part 3).capBusy = false ∧ stagePassed (tCap false 0).part 2000 = true ∧ bufferWords (tCap false 0).part 3 ≠ 0 ∧
      before 1000 (rd (tCap false 0).part 0x3013 5) = false ∧ effAt (tCap false 0).part 0x3003 2 0 = 500 ∧ effAt (tCap false 0).part 0x3003 3 0 = 500 ∧ frameStart 1500 = 0) ∧
    ((view (tCap true 1).part 3).capBusy = true ∧ unsettled (tCap true 1).part (.capture 3) = true ∧ (windowRecs (view (tCap true 1).part 3) (tCapOf 1)).length < 1) ∧
    ((windowRecs (view (tCap true 0).part 3) (tCapOf 0)).length = 0 ∧ (offer 3 [] tCapWords (cutRead 3 (tCapOf 0) [] (tCap true 0).part).2).1 = some [0] ∧
      (offer 3 [] tCapWords (cutRead 3 (tCapOf 0) [] (put [(0x7002, 4, 0)] (tCap true 0)).part).2).1 = none) ∧
    (arbOf (on (raiseCompletion (.capture 3)) (tCap true 0)).part (.capture 3) = [{ kind := .completion }] ∧ arbOf (on (raiseFailure (.capture 3) 2) (tCap true 0)).part (.capture 3) = [{ kind := .failure 2 }]) ∧
    (serving (put [(0x3003, 8, 1)] (tCap true 0)).part ∧ quiet (tCap true 0).part ∧ checkWrite (tCap true 0).part { cls := 5 } 0x3003 7 2 = .ok ∧ rd (put [(0x3003, 8, 6)] (tCap false 0)).part 0x3003 8 = 6) ∧
    ((view (tOffered 1).part 3).frags = [{ frame := 0, mode := 1, epoch := 0 }] ∧ before (now (tOffered 1).part) (2 ^ 23) = false ∧ stagePassed (tOffered 1).part (2 ^ 23) = true ∧
       (offer 3 [] (tOffWords 1) (advanceTo (2 ^ 23 + 98304) (tOffered 1).part)).1 = some [0] ∧ (offer 3 [] (tOffWords 0) (advanceTo (2 ^ 23 + 98304) (tOffered 0).part)).1 = none) := by decide +kernel

/-! ### Witnesses: event building and output -/

/-- A Bough with its port 2 in SERVICE and some credit on view 1. -/
def tUp : State := on (setCredit 2 1 { grant := 100, charged := 10 }) (put [(0x5102, 1, 3)] tBough)

/-- A slot of view 1 for id 5, in a phase, with ports awaited. -/
def tSlotOf (ph : SlotPhase) (await : Nat) : Slot := { phase := ph, id := some 5, enabled := 6, expect := 6, await, opened := 100, tau := 50 }
def tSlot (ph : SlotPhase) (await : Nat) : State := on (setSlot 1 5 (tSlotOf ph await)) tBough

/-- A fragment on its way out, of 8 words. -/
def tOut : OutFrag := { id := 5, words := List.replicate 8 (fw 0), lens := [1, 1] }

theorem wit_FragmentPacketsAreCharged :
    (live tUp.part ∧ tUp.part.pow.role = .bough ∧ bits (wv (fw 0x1C135)) 19 16 ≠ 5 ∧ inService tUp.part 2 = true ∧ rxOf tUp.part 2 1 = none ∧
      3 + 1 < headNeeded (fw 0x1C135) ∧ 3 + 1 ≤ (credit tUp.part 2 1).left ∧ (credit tUp.part 2 1).left < 90 + 1 ∧ inService tUp.part 3 = false) ∧
    (let s := on (setRx 2 1 (some { words := [fw 0x14135], charged := 1 })) tUp
     rxOf s.part 2 1 = some { words := [fw 0x14135], charged := 1 } ∧ credit s.part 2 1 = { grant := 100, charged := 10 }) := by decide +kernel

theorem wit_SlotsCollectTheirEvent :
    (∀ await ∈ [6, 2], let s := on (setQueue 1 5 1 { cur := some { link := 1, id := 5, words := some [fw 0] } }) (tSlot .open_ await)
      live s.part ∧ (queue s.part 1 5 1).cur = some { link := 1, id := 5, words := some [fw 0] } ∧ (slot s.part 1 5).phase = .open_ ∧
      bit (slot s.part 1 5).await 1 = true ∧ (slot s.part 1 5).id = some 5 ∧ clrBit 6 1 ≠ 0 ∧ clrBit 2 1 = 0) ∧
    ((queue (tSlot .open_ 6).part 1 5 1).cur = none ∧ (slot (tSlot .closed 0).part 1 5).phase ≠ .open_) ∧
    (serving (tSlot .open_ 6).part ∧ quiet (tSlot .open_ 6).part ∧ checkWrite (tSlot .open_ 6).part rqC 0x4001 7 1 = .ok) := by decide +kernel

/-- A closed slot of view 1 whose merged fragments go to region 2 of so many cells, with so many in use. -/
def tClosed (n used : Nat) : State :=
  on (fun p => let p := setOut 1 { ready := [{ tOut with cells := List.range used }] } p; { p with mem := { p.mem with cells := List.range used } })
    (put [(0x7002, 2, 1), (0x7002, 4, n), (0x4001, 6, 2)] (tSlot .closed 0))

theorem wit_MergedFragmentsLeave :
    (∀ n ∈ [(0, 0), (16, 16), (16, 0)], let p := (tClosed n.1 n.2).part
      live p ∧ tasc none p.bld.slots = true ∧ slot p 1 5 = tSlotOf .closed 0 ∧ (out p 1).merging = none ∧ olderIdle p 1 5 = true ∧ eff p 0x4001 6 = 2 ∧
        (readPorts 1 5 [] (List.range 16) p).1 = [] ∧ (mergeSlot 1 5 [] p).words.length = 8) ∧
    (quotaCells (tClosed 0 0).part 0x4000 6 1 < cellsFor 8 ∧
      (let p := (tClosed 16 16).part
       cellsFor 8 ≤ quotaCells p 0x4000 6 1 ∧ quotaCells p 0x4000 6 1 < cellsOf p 2 (mergedCells (out p 1)) + cellsFor 8) ∧
      (let p := (tClosed 16 0).part
       cellsOf p 2 (mergedCells (out p 1)) + cellsFor 8 ≤ quotaCells p 0x4000 6 1 ∧ (addWords (builderCode 1) 2 (List.replicate 8 (fw 0)) p).1 = some [0])) ∧
    (∀ c ∈ [0, 1], let s := on (setOut 1 { merging := some tOut }) (put [(0x4041, 1, c)] (tSlot .merging 0))
     tasc none s.part.bld.slots = true ∧ slot s.part 1 5 = tSlotOf .merging 0 ∧ out s.part 1 = { merging := some tOut } ∧ rd s.part 0x4041 1 = c ∧ (queue s.part 1 5 1).held = none) ∧
    (outTimeout (put [(0x4001, 5, 0)] tBough).part 1 = 0 ∧ outTimeout (put [(0x4001, 5, 1000)] tBough).part 1 ≠ 0 ∧
      (dropDue (on (setOut 1 { ready := [tOut] }) (put [(0x4001, 5, 1000)] tBough)).part 1).isSome = true ∧
      (dropDue (on (setOut 1 { sending := some { link := 16, frag := tOut } }) (put [(0x4001, 5, 1000)] tBough)).part 1).isSome = true ∧
      (let p := (on (setOut 1 { sending := some { link := 16, frag := tOut, sent := 3 } }) (put [(0x4001, 5, 1000)] tBough)).part
       (abandonDue p 1).isSome = true ∧ dropDue p 1 = none)) := by decide +kernel

/-! ### Witnesses: the packed format -/

/-- The merged fragment of a job: an empty body in the first cell of bank 8. -/
def tJobFrag : OutFrag := { tOut with words := [fw 0x30035] ++ List.replicate 7 (fw 0), cells := [32768] }

/-- View 0 with that job, compression on or off, and region 2 of `n` cells, with its words written where it stands. -/
def tJob (comp n : Nat) (o : OutView) : State :=
  on (fun p => writeList (compressorCode 0) ((cellAddrs [32768] 8).zip tJobFrag.words) { p with mem := { p.mem with cells := [32768] } })
    (on (setOut 0 { o with jobs := [tJobFrag] }) (put [(0x4040, 1, comp), (0x7002, 1, 8), (0x7002, 2, 1), (0x7002, 4, n), (0x7002, 5, 1), (0x4040, 3, 2)] tBough))

/-- The job as it becomes BUSY. -/
def tBusy : OutView := { jobs := [tJobFrag], busy := true, jobWords := tJobFrag.words, jobR := rd tBough.part 0x4040 2, jobRegion := 2 }

theorem wit_CompressionJobsRun :
    (live (tJob 0 2 {}).part ∧ (out (tJob 0 2 {}).part 0).jobs = [tJobFrag] ∧ (out (tJob 0 2 {}).part 0).busy = false ∧ rd (tJob 0 2 {}).part 0x4040 1 = 0) ∧
    (∀ x ∈ [(1, 2), (1, 16), (2, 16)], let n := x.1; let s := (put [(0x4041, 3, x.2)] (tJob 1 n {})).part
      rd s 0x4040 1 ≠ 0 ∧ (fetch (compressorCode 0) (cellAddrs [32768] 8) tJobFrag.words s).1 = tJobFrag.words ∧ unsettled s (.job 0) = true ∧
        compressorWords tJobFrag.lens tJobFrag.words = tJobFrag.words ∧
        decide (quotaOf s 0x4040 3 2 < cellsFor (8 + packLimit tBusy.jobR 0)) = (x.2 == 2) ∧ decide (cellsOf s 2 (packedCells tBusy) + cellsFor (8 + packLimit tBusy.jobR 0) ≤ quotaOf s 0x4040 3 2) = (x.2 != 2) ∧
        (addCells (compressorCode 0) 2 [] (8 + packLimit tBusy.jobR 0) s).1.isSome = (n == 2)) ∧
    (let s := (tJob 1 2 tBusy).part
     out s 0 = tBusy ∧ cellsOf s 2 (packedCells tBusy) + cellsFor (8 + packLimit tBusy.jobR 0) ≤ quotaOf s 0x4040 3 2 ∧ (addCells (compressorCode 0) 2 [] (8 + packLimit tBusy.jobR 0) s).1 = some [32769]) ∧
    (let o := { tBusy with ready := [{ tJobFrag with packed := true, cells := [32768, 32769] }] }
     let s := (tJob 1 2 o).part
     out s 0 = o ∧ quotaOf s 0x4040 3 2 < cellsOf s 2 (packedCells o) + cellsFor (8 + packLimit o.jobR 0)) ∧
    (∀ n ∈ [12, 11], let o := { tBusy with reserved := some n, packed := List.replicate 4 (fw 0) }
     let s := (tJob 1 2 o).part
     out s 0 = o ∧ unsettled s (.job 0) = true ∧ decide (o.packed.length + 8 ≤ n) = (n == 12)) ∧
    (∀ k ∈ [ArbKind.completion, ArbKind.failure 1], arbOf (on (raise (.job 0) { kind := k }) (tJob 1 2 tBusy)).part (.job 0) = [{ kind := k }]) ∧
    (serving (tJob 1 2 {}).part ∧ quiet (tJob 1 2 {}).part ∧ checkWrite (tJob 1 2 {}).part rqT 0x4040 4 2 = .ok ∧ arbOf (tJob 1 2 {}).part (.job 0) = [] ∧
      ∀ st ∈ [1, 6, 2], rd (put [(0x4040, 5, st)] (tJob 1 2 {})).part 0x4040 5 = st) := by decide +kernel

/-! ### Witnesses: event memory -/

/-- Region 2: so many cells from row 0 of bank 5, code `code`, in a state. -/
def tReg (n code st : Nat) : State := put [(0x7002, 1, 5), (0x7002, 2, 1), (0x7002, 4, n), (0x7002, 5, code), (0x7002, 6, st)] tLeaf

/-- Region 2 with its first cell written with zeros under a code. -/
def tFilled (code : Nat) : State := on (fillArea { b0 := 5, nb := 1, r0 := 0, n := 1, code }) (tReg 1 code 3)

/-- The same in D2. -/
def tFull : State := tFilled 0

theorem wit_clean_pair : decodeUnit 0 0x50003 tFull.part = (.good [0, 0], tFull.part) := rfl

theorem wit_MemoryKeepsWhatIsWritten :
    (∀ code, code < 3 → live (tFilled code).part ∧ regionAt (tFilled code).part 0x50003 = some 2 ∧ codeOf (tFilled code).part 2 = code ∧
      peek (tFilled code).part 0x50003 = some { code } ∧ wildUnit (tFilled code).part code 0x50003 = false) ∧
    regionAt tFull.part 0x60000 = none ∧
    (let s := on (upset [(0x50003, 2 ^ 26), (0x50002, 3)]) tFull
     unitErrors s.part 0 0x50003 = [(0x50002, 0), (0x50002, 1), (0x50003, 26)] ∧ wildUnit s.part 0 0x50003 = false) ∧
    (let s := on (upset [(0x50003, 2 ^ 19 + 2 ^ 20)]) (tFilled 1)
     unitErrors s.part 1 0x50003 = [(0x50003, 19), (0x50003, 20)] ∧ unusedBit 1 19 = false ∧ unusedBit 1 20 = false ∧ wildUnit s.part 1 0x50003 = false) ∧
    (∀ code, code < 2 → let s := on (upset [(0x50003, 1)]) (tFilled code)
     unitErrors s.part code 0x50003 = [(0x50003, 0)] ∧ wildUnit s.part code 0x50003 = false) ∧
    unitErrors (on (upset [(0x50003, 1), (0x50002, 2 ^ 26)]) tFull).part 0 0x50002 = [(0x50003, 0), (0x50002, 26)] := by decide +kernel

theorem wit_RegionsAreDefinedAndFilled :
    (accepted (tReg 0 0 0).part rqC 0x7002 4 3 ∧ accepted (tReg 4 0 1).part rqC 0x7002 4 0) ∧
    (serving (tReg 3 0 1).part ∧ quiet (tReg 3 0 1).part ∧ checkWrite (tReg 3 0 1).part rqC 0x7012 1 1 = .ok ∧ regionState (tReg 3 0 1).part 2 ≠ 0 ∧
      regionNamed (tReg 3 0 1).part 2 = false ∧ rd (tReg 3 0 1).part 0x7012 5 ≠ 1 ∧ checkWrite (tReg 0 0 0).part rqC 0x7012 1 1 = .ok ∧ regionState (tReg 0 0 0).part 2 = 0) ∧
    (live (tReg 3 0 2).part ∧ rd (tReg 3 0 2).part 0x7012 2 ≠ 1 ∧ rd (put [(0x7012, 2, 1)] (tReg 3 0 2)).part 0x7012 2 = 1 ∧ (geo (tReg 3 0 2).part 2).holds 0x50003 = true ∧
      bankOut (tReg 3 0 2).part 5 = false ∧ (geo (tReg 3 0 2).part 2).holds 0x60003 = false) := by decide +kernel

/-- Bank 5 in a standing, named in 7046h.01. -/
def tBank (st : Nat) (s : State) : State := put [(0x7046, 1, 5), (0x7044, 6, st)] s

/-- A pass over region 2 runs, at a unit of its only cell. -/
def tScrub (code unit : Nat) : State :=
  on (fun p => { p with mem := { p.mem with scrubs := [(2, { unit })] } }) (put [(0x7012, 3, 100), (0x7012, 5, 1)] (tFilled code))

/-- A move of a use to a region that was asked for, and a boundary since. -/
def tMove (w target : Nat) (p : Part) : Part :=
  { p with mem := { p.mem with moves := [(w, some { target, since := 5 })] }, clk := { p.clk with anyB := true, lastB := 2 ^ 23 }, acq := { p.acq with tab := { image := [1] } } }

/-- A name in use waits or stands; the copy of a use that moves out of memory stands, and one with no place for its words does not. -/
theorem wit_copies_stand : copyStands 1 { target := 16, since := 5 } (tMove 1 16 tFull.part) = (true, tMove 1 16 tFull.part) ∧ (copyStands 0 { target := 2, since := 5 } (tMove 0 2 tFull.part)).1 = false :=
  ⟨rfl, by decide +kernel⟩

theorem wit_ScrubbingRuns :
    (let s := put [(0x7012, 3, 100)] tFull
     serving s.part ∧ quiet s.part ∧ checkWrite s.part rqC 0x7012 4 1 = .ok ∧ regionState s.part 2 = 3 ∧ rd s.part 0x7012 3 ≠ 0 ∧ rd tFull.part 0x7012 3 = 0 ∧
       checkWrite tFull.part rqC 0x7012 4 1 = .ok ∧ checkWrite s.part rqC 0x7012 4 2 = .ok ∧ rd s.part 0x7012 5 ≠ 1 ∧ rd s.part 0x7012 5 ≠ 6) ∧
    (let s := tScrub 0 6
     rd s.part 0x7012 5 = 1 ∧ rd s.part 0x7012 3 ≠ 0 ∧ unsettled s.part (.scrub 2) = true ∧ arbOf s.part (.scrub 2) = [] ∧ rd s.part 0x7012 6 = 0 ∧ cellFrom s.part 2 0 = some 0 ∧ cellFrom s.part 2 1 = none ∧
       6 + 1 < unitsPerCell 0 ∧ 7 + 1 = unitsPerCell 0 ∧ (geo s.part 2).addr 12 = 0x5000C ∧ wildUnit s.part 0 0x5000C = false ∧ unitErrors s.part 0 0x5000C = [] ∧
       wildUnit (tScrub 0 7).part 0 0x5000E = false ∧ unitErrors (tScrub 0 7).part 0 0x5000E = [] ∧
       unitErrors (on (upset [(0x5000D, 8)]) s).part 0 0x5000C = [(0x5000D, 3)] ∧ checkWrite s.part rqC 0x7012 4 2 = .ok) ∧
    (accepted (tScrub 0 6).part rqC 0x7012 3 0 ∧ accepted (put [(0x7012, 3, 100)] tFull).part rqC 0x7012 3 0) := by decide +kernel

theorem wit_BanksAndMoves :
    (let s := tBank 0 tLeaf
     let h := on (fun p => { p with mem := { p.mem with cells := [5 * 4096] } }) s
     serving s.part ∧ quiet s.part ∧ checkWrite s.part rqC 0x7046 2 1 = .ok ∧ rd s.part 0x7046 1 = 5 ∧ bankCause s.part 5 true = 0 ∧ bankCause h.part 5 true = 0 ∧
       bankCause (put [(0x7046, 1, 3)] tLeaf).part 3 true ≠ 0 ∧ checkWrite (put [(0x7046, 1, 3)] tLeaf).part rqC 0x7046 2 1 = .ok) ∧
    (live (tBank 1 tFull).part ∧ bankStanding (tBank 1 tFull).part 5 = 1 ∧ (∀ c, c < 5 → bankStanding (tBank 1 tFull).part c ≠ 1) ∧ bankHolds (tBank 1 tFull).part 5 = false ∧
      bankHolds (on (fun p => { p with mem := { p.mem with cells := [5 * 4096] } }) (tBank 1 tFull)).part 5 = true) ∧
    (checkWrite (tBank 2 tLeaf).part rqC 0x7046 2 2 = .ok ∧ bankCause (tBank 2 tLeaf).part 5 false = 0) ∧
    (bankStanding (tBank 3 tFull).part 5 = 3 ∧ ∀ c, c < 5 → bankStanding (tBank 3 tFull).part c ≠ 3) := by decide +kernel

theorem wit_NamedUsesMove :
    (∀ w, w < 2 → let s := tReg 4096 1 3
     accepted s.part rqC 0x7030 (w + 1) 2 ∧ 2 ≠ activeRegion s.part w ∧ accepted s.part rqC 0x7030 (w + 1) 16 ∧ 16 = activeRegion s.part w ∧ tget none s.part.mem.moves w = none) ∧
    (∀ w, w < 2 → let p := tMove w 16 tFull.part
     live p ∧ tget none p.mem.moves w = some { target := 16, since := 5 } ∧ p.clk.anyB = true ∧ before 5 p.clk.lastB = true) := by decide +kernel

/-! ### Witnesses: lanes -/

/-- A state with a lane, its receiver and transmitter states and its rate. -/
def tLane (l rx tx rate : Nat) (x : Lane) (s : State) : State :=
  on (fun p => setRxSt l rx (setTxSt l tx (wr (0x5020 + l) 3 rate (setLane l x p)))) s

/-- The same in the link k, of that lane alone. -/
def tLink (k st l rx tx : Nat) (y : Link) (x : Lane) (s : State) : State :=
  tLane l rx tx 4 x (on (fun p => setLink k { y with lanes := [l] } (wr (0x5100 + k) 1 st p)) s)

theorem wit_LineGroupsComeBack :
    let h : GroupHeader := { idx := 3, width := 2, kind := 2, slp := true, lt := true, seq := 4095 }
    h.idx < 4 ∧ h.width < 3 ∧ h.kind < 3 ∧ h.seq < 4096 ∧ (List.replicate 256 0x1FFFFF).length = 256 ∧ (∀ u ∈ List.replicate 256 0x1FFFFF, u < 2 ^ 21) ∧ (List.replicate 16 true).length = 16 := by
  decide +kernel

/-- A group of zero units as it comes on the line. -/
def tLine (seq width idx : Nat) : List Bool := List.replicate 16 false ++ sendGroup { kind := 0, seq, width, idx } (List.replicate 256 0)

/-- What lane D5 finds of it: its header, where the group is in its place. -/
def tFound (p : Part) (line : List Bool) : Option GroupHeader :=
  (findGroup p 5 line).bind fun g => if g.place = 16 then g.header else none

theorem wit_LanesHuntAndFrame :
    (let p := tBough.part
     replacedBy p 5 = none ∧ spareOf p 5 = none ∧ underTest p 5 = false ∧ ethernet p 5 = false ∧ rd p 0x5005 9 = 0 ∧
      accepted p rqC 0x5005 1 1 ∧ rxSt p 5 = 0 ∧ bypassOn p = false ∧ linkOf p 5 = none ∧ (∀ k, k < 18 → linkFor p 5 = some k → linkSt p k = 0 ∧ ∀ m ∈ lanesFor p k, laneSet p m 9 = 0) ∧
      accepted p rqC 0x5005 1 0 ∧ live p) ∧
    (∀ n ∈ [1, 2, 3], let p := (tLane 5 1 2 4 { good := n, seq := 3 } tBough).part
     rxSt p 5 = 1 ∧ txSt p 5 ≠ 3 ∧ (lane p 5).retry = none ∧ (lane p 5).good = n ∧ (lane p 5).prev = none ∧ islandStopped p (laneIsland 5) = false ∧ linkOf p 5 = none) ∧
    (let p := (tLane 5 1 2 1 { prev := some 0, climb := true, cfg := { mode := 2 } } tBough).part
     rxSt p 5 = 1 ∧ txSt p 5 ≠ 3 ∧ (lane p 5).prev = some 0 ∧ sleepers p 5 = [5] ∧ laneSet p 5 9 = 0) ∧
    (let p := (tLane 5 1 2 4 { retry := some 50, cfg := { mode := 1 } } tBough).part
     (lane p 5).retry = some 50 ∧ rxSt p 5 = 1) := by decide +kernel

theorem wit_GroupsAreFound :
    (∀ wi ∈ [(0, 0), (1, 0), (0, 3)], let p := (tLink 5 1 5 1 2 {} { good := 3, seq := 3 } tBough).part
     (tFound p (tLine 4 wi.1 wi.2)).map (fun h => (h.width, h.idx, h.seq, h.kind)) = some (wi.1, wi.2, 4, 0) ∧ linkOf p 5 = some 5 ∧ (link p 5).lanes = [5] ∧
       (lane p 5).cfg.width = 1 ∧ widthCode 1 = 0 ∧ (lane p 5).trained = false ∧ (lane p 5).wake = false) ∧
    (let p := (tLink 5 3 5 3 2 {} { trained := true, bad := 2 } tBough).part
     rxSt p 5 = 3 ∧ (tFound p (tLine 4 0 0)).isSome = true ∧ findGroup p 5 (List.replicate 100 false) = none ∧ 2 ≤ (lane p 5).bad) := by decide +kernel

/-- Training words of a far end. -/
def tTrain (step : Nat) (follower ack : Bool) : Training := { step, rate := 4, proposed := 4, ack, follower, eyeWidth := 20, eyeHeight := 20 }

/-- Lane D5 of a Bough as a leader that is FRAMED, and lane A0 as a follower. -/
def tLead (x : Lane) : State := put [(0x5025, 9, 20), (0x5025, 10, 20)] (tLink 5 1 5 2 2 { deskewed := true } { x with cfg := { eqMode := 1 }, eqDone := true } tBough)
def tFoll (hold : Nat) (x : Lane) : State := tLink 16 1 16 2 2 { deskewed := true, hold := hold == 1 } x tBough

theorem wit_TrainingStepsFollow :
    (let p := (tLink 5 1 5 2 1 {} {} tBough).part
     live p ∧ rxSt p 5 = 2 ∧ (lane p 5).eqDone = false ∧ (lane p 5).trained = false ∧ (lane p 5).cfg.eqCode ≤ 36 ∧ (lane p 5).cfg.eqMode ≠ 1) ∧
    (let p := (tLead {}).part
     linkOf p 5 = some 5 ∧ (link p 5).lanes = [5] ∧ trainingFields (tTrain 0 true false).words = some (tTrain 0 true false) ∧ trains p 5 (tTrain 0 true false) = true ∧ (lane p 5).climb = false ∧
       (lane p 5).cfg.hi = rd p 0x5025 3 ∧ (tTrain 0 true false).highest = rd p 0x5025 3 ∧ (lane p 5).cfg.eyeWidth ≤ rd p 0x5025 9 ∧ (lane p 5).cfg.eyeHeight ≤ rd p 0x5025 10 ∧
       (lane p 5).cfg.eyeWidth ≤ 20 ∧ (lane p 5).cfg.eyeHeight ≤ 20 ∧ (lane p 5).cfg.eqMode = 1) ∧
    (let p := (tLead { step := 1 }).part
     trains p 5 (tTrain 1 true true) = true ∧ follower p 5 = false ∧ (lane p 5).step = 1 ∧ trains (tLead { step := 2 }).part 5 (tTrain 1 true true) = true) ∧
    (let p := (tFoll 0 {}).part
     linkOf p 16 = some 16 ∧ follower p 16 = true ∧ trains p 16 (tTrain 1 false false) = true ∧ trains p 16 (tTrain 2 false false) = true ∧ trains p 16 (tTrain 3 false false) = true ∧ (link p 16).hold = false ∧ (∀ m ∈ (link p 16).lanes, laneSet p m 9 = 0) ∧
       asleep p 16 0 = false ∧ asleep p 16 1 = false) ∧
    (trains (tFoll 1 {}).part 16 (tTrain 3 false false) = true ∧ (link (tFoll 1 {}).part 16).hold = true ∧ linkSt (tFoll 1 {}).part 16 = 1) ∧
    (let p := (put [(0x5030, 4, 2)] (tFoll 0 { step := 3, eqDone := true })).part
     rd p 0x5030 4 = 2 ∧ rxSt p 16 = 2 ∧ (link p 16).deskewed = true ∧ (lane p 16).step = 3 ∧ linkSt p 16 = 1 ∧ (link p 16).mgmt = [] ∧ linkStopped p 16 = false ∧ (lane p 16).eqDone = true ∧ (lane p 16).trained = false) ∧
    (lane (put [(0x5030, 4, 2)] (tFoll 0 { step := 1 })).part 16).step ≠ 3 := by decide +kernel

theorem wit_LanesSleepAndWake :
    (let p := (tLane 5 3 1 4 { slp := some 3, trained := true } tBough).part
     linkOf p 5 = none ∧ live p ∧ rxSt p 5 = 3 ∧ (lane p 5).slp = some 3) ∧
    (let p := (tLane 5 3 1 4 { trained := true } tBough).part
     (lane p 5).slp = none ∧ serving p ∧ quiet p ∧ checkWrite p rqC 0x5005 9 3 = .ok ∧ bit 3 0 = true ∧ txSt p 5 = 1 ∧ 1 ≤ rxSt p 5 ∧ rxSt p 5 ≤ 3 ∧ replacedBy p 5 = none ∧
       spareOf p 5 = none ∧ underTest p 5 = false ∧ ethernet p 5 = false) ∧
    (rxSt (tLane 5 5 1 4 { trained := true } tBough).part 5 = 5) ∧
    (let p := (put [(0x5005, 9, 3)] (tLane 5 4 3 4 { trained := true } tBough)).part
     checkWrite p rqC 0x5005 9 0 = .ok ∧ txSt p 5 = 3 ∧ (lane p 5).trained = true ∧ rxSt p 5 = 4) := by decide +kernel

theorem wit_SparesBypassAndEthernet :
    (let p := tLeaf.part
     rd p 0x5070 1 = 0xFFFF ∧ accepted p rqC 0x5070 1 0xFF10 ∧ accepted p rqC 0x5070 1 0xFF17 ∧ underTest p 0x10 = false ∧ p.pow.phase ≠ .inReset ∧ rxSt p 0 ≠ 6 ∧
       accepted p rqC 0x5078 1 1 ∧ p.pow.bypass = false ∧ rd p 0x5080 1 = 0 ∧ accepted p rqC 0x5080 1 1 ∧ live p) ∧
    (let p := after (.bypassEngage true rqC) (put [(0x5000, 1, 0), (0x5010, 1, 0), (0x5060, 3, 0)] tLeaf)
     rxSt p 0 = 6 ∧ rd p 0x5078 1 = 0 ∧ rd p 0x5000 1 = 0 ∧ rd p 0x5010 1 = 0 ∧ rd p 0x5060 1 = 1 ∧ bit (rd p 0x5060 3) 0 = false ∧ spareOf p 16 = none ∧ bypassOn p = true) ∧
    (let p := after (.bypassEngage false rqC) tLeaf
     accepted p rqC 0x5078 1 0 ∧ p.pow.bypass = false ∧ rxSt p 0 = 6) ∧
    ethernet (put [(0x5080, 1, 1)] tLeaf).part 0x18 = true := by decide +kernel

/-! ### Witnesses: the link protocol -/

/-- Link k of a Bough, of lane l in READY and sending, in a state. -/
def tRdy (k st l : Nat) (y : Link) (x : Lane) : State := put [(0x5020 + l, 6, 0)] (tLink k st l 3 2 y x tBough)

/-- A group of FILLs, whole or with a bad unit. -/
def tRxSet (bad : Bool) : RxGroup := { seq := 7, units := (if bad then 1 else 0) :: List.replicate 255 0 }

/-- What a group set that comes on link 5 must meet: its groups, their length, the elastic buffer and the parse. -/
def tSetOk (b : Bool) (n : Option Nat) (p : Part) : Bool :=
  live p && (link p 5).lanes == [5] && byIndex p 5 == [5] && allIn p 5 3 && (lane p 5).groups == [tRxSet b] && (tRxSet b).units.length == 256 && (link p 5).nak == none &&
    0 < (link p 5).elastic && (link p 5).elastic < 64 && (link p 5).rxSeq == n

theorem wit_GroupSetsAreTaken :
    (∀ n ∈ [none, some 6], tSetOk false n (tRdy 5 3 5 { rxSeq := n } { groups := [tRxSet false] }).part = true) ∧
    (let u := joinLanes [tRxSet false]
     (parseWords u {}).bad = false ∧ u.all unitOk = true ∧ (tRxSet false).bad = false ∧ (({} : Link).blind = false)) ∧
    (let p := (tRdy 5 3 5 {} {}).part
     (∀ l ∈ byIndex p 5, (lane p l).groups = []) ∧ byIndex p 5 = [5]) ∧
    allIn (tLink 5 3 5 2 2 {} {} tBough).part 5 3 = false := by decide +kernel

theorem wit_GroupSetsFail :
    (∀ r ∈ [none, some (7, 2), some (7, 6)], tSetOk true none (tRdy 5 3 5 { redo := r } { groups := [tRxSet true] }).part = true ∧
      (link (tRdy 5 3 5 { redo := r } { groups := [tRxSet true] }).part 5).redo = r) ∧
    tSetOk false (some 3) (tRdy 5 3 5 { rxSeq := some 3 } { groups := [tRxSet false] }).part = true ∧
    (joinLanes [tRxSet true]).any (fun u => !unitOk u) = true ∧ linkSt (tRdy 5 3 5 {} {}).part 5 = 3 := by decide +kernel

theorem wit_NaksAreRepeated :
    (link (tRdy 5 3 5 { nak := some (7, 2) } {}).part 5).nak = some (7, 2) ∧ (link (tRdy 5 3 5 {} {}).part 5).nak = none ∧
    (7 : Nat) = 7 % 4096 ∧ 5 % 2048 ≠ 0 ∧ 2048 % 2048 = 0 := by decide +kernel

theorem wit_SendersFreeAndReplay :
    (let p := (tRdy 5 3 5 { txSet := 20, acked := some 3, held := [{ set := 10, words := [fw 0] }] } {}).part
     live p ∧ setHeld (link p 5) (counterOf (link p 5) 10) 10 = true ∧ counterOf (link p 5) 10 = 10 ∧ (∃ h ∈ (link p 5).held, h.set = 10) ∧ (link p 5).replayed = none ∧ (link p 5).replay = none ∧
       (∀ h ∈ (link p 5).held, h.set ≠ 11) ∧ setHeld (link p 5) (counterOf (link p 5) 2) 2 = false ∧ linkSt p 5 = 3) ∧
    (let p := (tRdy 5 3 5 { txSet := 20, acked := some 3, replayed := some (10, 0), held := [{ set := 10, words := [fw 0] }] } {}).part
     (link p 5).replayed = some (10, 0) ∧ (link p 5).replayed ≠ some (10, 1) ∧ (link p 5).replayed.map (·.1) = some 10) ∧
    (let p := (tRdy 5 3 5 { replay := some (7, 2) } {}).part
     (link p 5).replay = some (7, 2) ∧ (link p 5).replayed = none ∧ maySend p 5 = true) ∧
    maySend (tLink 5 3 5 2 2 {} {} tBough).part 5 = false := by decide +kernel

theorem wit_LinksRetrain :
    (∀ st ∈ [1, 2, 3, 4, 5, 6], let p := (tRdy 5 st 5 { held := [{ set := 2, words := [fw 0] }], nak := some (7, 2), notReady := some 50 } {}).part
     live p ∧ linkSt p 5 = st ∧ (link p 5).held ≠ [] ∧ (link p 5).nak ≠ none ∧ (link p 5).notReady ≠ none ∧ serving p ∧ quiet p ∧ checkWrite p rqC 0x5105 4 1 = .ok ∧
       (∀ l ∈ (link p 5).lanes, linkOf p l = some 5)) ∧
    (∀ st ∈ [0, 7], let p := (tRdy 5 st 5 {} {}).part
     linkSt p 5 = st ∧ (link p 5).held = [] ∧ (link p 5).nak = none ∧ (link p 5).notReady = none ∧ (link p 5).retrainAt = none ∧ (link p 5).helloAt = none) ∧
    (let p := (tRdy 5 1 5 { retrainAt := some 50 } {}).part
     (link p 5).retrainAt = some 50 ∧ linkSt p 5 = 1) ∧
    (let p := (tRdy 16 1 16 { helloAt := some 50 } {}).part
     (link p 16).helloAt = some 50 ∧ linkSt p 16 = 1 ∧ allIn p 16 3 = true) := by decide +kernel

/-- A room of a set, and whether a FILL is due before `n` words. -/
def tRoom (p : Part) (k n : Nat) (due : Bool) : Bool := decide (n < roomInSet (link p k)) && fillDue (link p k) n == due && maySend p k

theorem wit_SendersTakeTheFirstReady :
    (let p := (tRdy 5 3 5 { ctl := [[0xF0007]], ret := some [0x4F000], firstRet := true } {}).part
     live p ∧ tRoom p 5 1 false = true ∧ linkSt p 5 = 3 ∧ (link p 5).firstRet = true ∧ (link p 5).ret = some [0x4F000]) ∧
    (let p := (tRdy 5 3 5 { ctl := [[0xF0007]] } {}).part
     tRoom p 5 1 false = true ∧ (link p 5).ctl = [[0xF0007]] ∧ (link p 5).firstRet = false) ∧
    (let p := (tRdy 5 3 5 { ctl := [[0xF0007]], sinceFill := 4095 } {}).part
     tRoom p 5 1 true = true ∧ (link p 5).ctl = [[0xF0007]]) ∧
    (let p := (tRdy 5 3 5 { cmds := [⟨1000, 1, 15, 0, 5⟩] } {}).part
     tRoom p 5 8 false = true ∧ linkSt p 5 = 3 ∧ (link p 5).ctl = [] ∧ (link p 5).cmds = [⟨1000, 1, 15, 0, 5⟩] ∧ (link p 5).replay = none ∧ heldWords (link p 5) + 8 ≤ 4096) ∧
    (let p := (tRdy 16 3 16 { reqs := [⟨1000, 1, 15, 0⟩] } {}).part
     tRoom p 16 6 false = true ∧ linkSt p 16 = 3 ∧ (link p 16).ctl = [] ∧ (link p 16).cmds = [] ∧ (link p 16).reqs = [⟨1000, 1, 15, 0⟩] ∧ (link p 16).replay = none ∧ heldWords (link p 16) + 6 ≤ 4096) ∧
    (let p := (tRdy 5 1 5 {} {}).part
     maySend p 5 = true ∧ (link p 5).ctl = [] ∧ linkSt p 5 = 1 ∧ (link p 5).mgmt = [] ∧ 1 < roomInSet (link p 5)) := by decide +kernel

theorem wit_MarkersProbesAndCreditReturns :
    (∀ n ∈ [0, 8], let p := (tRdy 5 3 5 { txSet := 1000, probes := List.replicate n [] } {}).part
     live p ∧ (link p 5).lanes = [5] ∧ linkOf p 5 = some 5 ∧ linkStopped p 5 = false ∧ txSt p 5 = 2 ∧ islandStopped p 2 = false ∧ (link p 5).txSet < 1024 ∧ carriesTime p 5 = true ∧
       (link p 5).probes.length = n ∧ inService p 5 = true ∧ p.pow.role = .bough ∧ inService p 4 = false ∧ linkOf p 4 = none) ∧
    carriesTime (tRdy 5 1 5 {} {}).part 5 = false ∧
    (let p := (tLane 6 3 2 4 {} tBough).part
     linkOf p 6 = none ∧ islandStopped p (laneIsland 6) = false ∧ txSt p 6 = 2 ∧ (lane p 6).txCtr ≤ 1024) ∧
    (let p := (on (setCredit 16 3 { grant := 10, charged := 10 }) (tRdy 16 3 16 {} {})).part
     inService p 16 = true ∧ (credit p 16 3).charged < 2 ^ 32 ∧ subMod 32 20 (credit p 16 3).charged < 2 ^ 31 ∧ 2 ^ 31 ≤ subMod 32 9 (credit p 16 3).charged) ∧
    inService tLeaf.part 16 = false ∧ tLeaf.part.pow.role = .leaf := by decide +kernel

/-- A HELLO of uplink A, or of no uplink, of a part with serial 9. -/
def tHello (side : Nat) : List Nat := [0x10000 + side * 0x4000, 0, 0, 9, 0]

/-- Link 5 of a Bough that has an address. -/
def tParent (st : Nat) (y : Link) : Part := (put [(0x1100, 1, 0x2000), (0x1100, 2, 1), (0x1100, 3, 1)] (tRdy 5 st 5 y {})).part

theorem wit_HellosAreAnswered :
    (let p := tParent 1 {}
     live p ∧ p.pow.role = .bough ∧ (∀ side ∈ [0, 1, 2, 3], helloOf (tHello side) = some ⟨side, false, 0, none, 9, 0⟩) ∧ allIn p 5 3 = true ∧ linkSt p 5 = 1 ∧
       isolated p (portOf p 5) = false ∧ rd p 0x1100 3 ≠ 0 ∧ rd p 0x1100 2 < 4 ∧ (∀ j, j < 16 → j ≠ 5 → (link p j).pos = none) ∧ (link p 5).mgmt = [] ∧ (link p 5).pos = none ∧ linkStopped p 5 = false) ∧
    (let p := tParent 1 { pos := some 5 }
     linkSt p 5 = 1 ∧ allIn p 5 3 = true ∧ (link p 5).pos = some 5) := by decide +kernel

theorem wit_HandshakeReachesService :
    (∀ st ∈ [0, 1, 3], let p := (tLink 16 st 16 3 2 {} {} tLeaf).part
     live p ∧ linkSt p 16 = st ∧ allIn p 16 3 = true ∧ p.pow.override = 16 ∧ p.pow.root = false ∧ (link p 16).mgmt = [] ∧ linkStopped p 16 = false) ∧
    (∀ c ∈ [1, 2, 4, 5], let p := (put [(0x5110, 2, c)] (tLink 16 6 16 3 2 {} {} tLeaf)).part
     linkSt p 16 = 6 ∧ isoCause p 16 = c ∧ allIn p 16 3 = true ∧ (link p 16).mgmt = [] ∧ linkStopped p 16 = false) ∧
    (let p := (put [(0x5110, 3, 1), (0x5030, 4, 1)] (tLink 16 2 16 2 2 {} { step := 3 } tLeaf)).part
     serving p ∧ quiet p ∧ checkWrite p rqC 0x5110 3 0 = .ok ∧ linkSt p 16 = 2 ∧ (link p 16).lanes = [16] ∧ rxSt p 16 = 2 ∧ (lane p 16).step = 3 ∧ rd p 0x5030 4 = 1) := by decide +kernel

/-! ### Witnesses: system time -/

/-- A Leaf with the source, the servo state and what feeds the servo. -/
def tTime (src st : Nat) (t : Timing) : State :=
  on (fun p => { p with tim := t, clk := { p.clk with rp := 320000 } }) (put [(0x6000, 4, src), (0x6000, 3, st)] tLeaf)

theorem wit_ServoFollowsMeasurements :
    (∀ st ∈ [1, 2], ∀ th ∈ [(100 : Int), -100, 2000000000, -2000000000], let p := (tTime 1 st { meas := [th], run := 7 }).part
     live p ∧ p.tim.meas = [th] ∧ servoState p = st ∧ rd p 0x6040 2 ≠ 1 ∧ p.tim.switchRate = none ∧ p.tim.reacq = false ∧ 0 < p.clk.rp - p.tim.last ∧ th.natAbs < 2 ^ 31 ∧
       (th.natAbs ≤ 256 * rd p 0x6000 9 ∨ 256 * (rd p 0x6000 9 : Int) < th ∨ th < -(256 * (rd p 0x6000 9 : Int)))) ∧
    (100 : Int).natAbs ≤ 256 * rd tLeaf.part 0x6000 9 ∧ 256 * (rd tLeaf.part 0x6000 9 : Int) < 2000000000 := by decide +kernel

theorem wit_ServoOtherCases :
    (let p := (on (fun p => { p with clk := { p.clk with fx := 2 ^ 100 } }) (tTime 1 1 { meas := [300], reacq := true })).part
     servoState p = 1 ∧ p.tim.reacq = true ∧ 0 < roundDiv 300 256 ∧ roundDiv 300 256 ≤ now (advance (8 - p.clk.rp % 8) p)) ∧
    (∀ st ∈ [0, 3], servoState (tTime 1 st { meas := [100] }).part = st) ∧ tLeaf.part.tim.meas = [] ∧
    (accepted tLeaf.part rqC 0x6000 4 0 ∧ 0 ≠ rd tLeaf.part 0x6000 4) ∧
    (serving tLeaf.part ∧ quiet tLeaf.part ∧ checkWrite tLeaf.part rqC 0x6000 0xC 1 = .ok) ∧
    (let p := (put [(0x1100, 2, 1)] (tTime 1 2 { lastPaired := some 50 })).part
     p.tim.lastPaired = some 50 ∧ rd p 0x6000 4 = 1 ∧ servoState p = 2 ∧ rd p 0x1100 2 ≠ 0) ∧ tLeaf.part.tim.lastPaired = none := by decide +kernel

/-- A probe with its own counter 1024 and the child's counter 2048. -/
def tProbe : List Nat := [0x60000, 0, 0, 1024, 0, 0, 0, 900, 0, 0, 2048, 0, 0, 0, 7000]

/-- A Leaf whose uplink A has marker stamps of both ends. -/
def tPair (use n : Nat) (r : Option Int) : State :=
  on (fun p => { p with tim := { p.tim with avgN := n, avgM := 4, refD := r } })
    (put [(0x6000, 4, 1), (0x6010, 6, use), (0x6010, 2, 4)] (tLink 16 3 16 3 2 { rxMarks := [(1024, 1000)], txMarks := [(2048, 6000)] } {} tLeaf))

/-- A Leaf with what PPS keeps. -/
def tPps (src : Nat) (t : Timing) : State := put [(0x6020, 2, 0), (0x6020, 5, 1)] (tTime src 2 t)

theorem wit_ProbesMeasure :
    (∀ n ∈ [0, 15], let p := (tPair 16 n none).part
     live p ∧ carriesTime p 16 = true ∧ rd p 0x6000 4 = 1 ∧ ((link p 16).rxMarks.find? fun m => m.1 == ofWords ((tProbe.drop 1).take 3)) = some (1024, 1000) ∧
       ((link p 16).txMarks.find? fun m => m.1 == ofWords ((tProbe.drop 8).take 3)) = some (2048, 6000) ∧ rd p 0x6010 6 = 16 ∧
       ofWords ((tProbe.drop 8).take 3) ≠ 2 ^ 60 - 1 ∧ p.tim.avgN = n ∧ p.tim.avgM = 4 ∧ rd p 0x6010 2 = 4) ∧
    (rd (tPair 17 0 none).part 0x6010 6 ≠ 16 ∧ carriesTime tLeaf.part 16 = false) ∧
    (∀ d ∈ [(25600 : Int), 2 ^ 40], (tPair 16 15 (some d)).part.tim.refD = some d) ∧
    (let p := (tPair 16 15 none).part
     let r := probeOffset 900 1000 6000 7000 (asymmetry (rd p 0x5030 3) 16) (s20 (rd p 0x6010 3))
     (roundDiv (0 + r.2) 32 - 2 ^ 40).natAbs > 256 * rd p 0x6010 5 ∧ (roundDiv (0 + r.2) 32 - roundDiv (0 + r.2) 32).natAbs ≤ 256 * rd p 0x6010 5) := by decide +kernel

theorem wit_PpsMeasures :
    (let p := (tPps 2 { ppsWait := some 7 }).part
     live p ∧ (rd p 0x6020 1 == 0) = true ∧ p.tim.ppsWait = some 7) ∧
    (let p := (tPps 2 { ppsNext := some 0 }).part
     p.tim.ppsWait = none ∧ p.tim.ppsNext = some 0 ∧ rd p 0x6020 5 = 1 ∧ nearestSecond p (auxStamp (advance 8 p) .pps 5 false) = 0 ∧
       (ppsOffset p (auxStamp (advance 8 p) .pps 5 false) 0).natAbs ≤ 256 * rd p 0x6020 4 ∧
       256 * rd (put [(0x6020, 4, 0)] (tPps 2 {})).part 0x6020 4 < (ppsOffset p (auxStamp (advance 8 p) .pps 5 false) 0).natAbs) ∧
    (let p := (tPps 2 { ppsNext := some 1 }).part
     p.tim.ppsWait = none ∧ nearestSecond p (auxStamp (advance 8 p) .pps 5 false) < 1 ∧ rd p 0x6000 4 = 2 ∧ servoState p = 2) ∧
    rd (tPps 1 { ppsNext := some 1 }).part 0x6000 4 ≠ 2 ∧ tLeaf.part.tim.ppsNext = none := by decide +kernel

/-- A Leaf with instance 0 in a port state on X0, windows of two Syncs, and what it keeps. -/
def tPtp (src st peer : Nat) (t : Timing) : State :=
  on (fun p => { p with tim := t }) (put [(0x5080, 1, 1), (0x6030, 1, 1), (0x6030, 2, 0), (0x6030, 5, 1), (0x6030, 6, 0x0A000001), (0x6030, 8, 2), (0x6038, 1, st), (0x6039, 1, peer), (0x6000, 4, src), (0x6000, 3, 2)] tLeaf)

/-- Messages of master 7. -/
def tSync : PtpMsg := { kind := .sync, src := 7, udp := true, ns := 1000 }
def tHeard : Master := { port := 7, prio1 := 0, cls := 0, acc := 0, var := 0, prio2 := 0, gm := 0, steps := 0, utc := 37, logInt := 1, last := 50 }

/-- The port, domain and transport of an instance's message. -/
def tForD (p : Part) (m : PtpMsg) : Bool :=
  live p && rd p 0x5080 1 != 0 && ptpState p 1 == 0 && ptpState p 0 != 0 && ptpSet p 0 2 == 0 && ptpSet p 0 3 == m.domain && !unsupported m && (ptpSet p 0 5 == 1) == m.udp

theorem wit_PtpTakesMessages :
    (∀ n ∈ [0, 1], ∀ lo ∈ [none, some 40], ∀ e ∈ [[50], []], let p := (tPtp 3 2 0 { ptp0 := { chosen := some 7, exchanges := e, count := n, msMin := lo, wait := some { seq := 0, t2 := 0, corr := 0 } } }).part
     tForD p tSync = true ∧ tForD p { tSync with kind := .followUp } = true ∧ tForD p { tSync with twoStep := true } = true ∧ ptpSet p 0 8 = 2 ∧ ptpSet p 0 4 = 0 ∧ rd p 0x6000 4 = 3 ∧ rd p 0x6040 1 = 0) ∧
    (∀ l ∈ [[], [tHeard]], let p := (tPtp 3 2 0 { ptp0 := { masters := l } }).part
     tForD p { tSync with kind := .announce } = true ∧ (ptpInst p 0).masters = l ∧ (ptpInst p 0).chosen ≠ some 7) ∧
    (let p := (tPtp 3 2 0 { ptp0 := { chosen := some 7, delay := some { seq := 0, dep := 0 } } }).part
     tForD p { tSync with kind := .delayResp, mine := true } = true ∧ ((ptpInst p 0).delay.map (·.seq)) = some 0) ∧
    (let p := (put [(0x6030, 4, 1), (0x6030, 9, 0)] (tPtp 3 2 0 {})).part
     tForD p { tSync with kind := .pdelayReq } = true ∧ ptpSet p 0 4 = 1 ∧ ptpSet p 0 9 = 0) ∧
    unsupported { tSync with version := 1 } = true ∧ rd tLeaf.part 0x5080 1 = 0 := by decide +kernel

theorem wit_PtpFollowsItsMaster :
    (let p := (tPtp 3 2 0 { ptp0 := { chosen := some 7, exchanges := [50], count := 1 } }).part
     ptpState p 0 ≠ 0 ∧ rd p 0x5080 (ptpSet p 0 2 + 1) ≠ 0 ∧ (ptpInst p 0).chosen ≠ none ∧ ptpSet p 0 6 = 0x0A000001 ∧ ptpSet p 0 5 = 1 ∧ ptpSet p 0 2 = 0) ∧
    (let p := (tPtp 3 3 0 { ptp0 := { chosen := some 7, masters := [tHeard] } }).part
     ((ptpInst p 0).masters.find? fun a => (ptpInst p 0).chosen == some a.port) = some tHeard ∧ ptpState p 0 = 3) ∧
    (let p := (put [(0x6040, 3, 1)] (tPtp 3 2 3 { ptp0 := { left := true } })).part
     rd p 0x6040 1 = 0 ∧ (ptpInst p 0).left = true ∧ rd p 0x6000 4 = 3 ∧ ptpState p 0 ≠ 3 ∧ rd p 0x6040 3 = 1 ∧ ptpState p 1 = 3) ∧
    (rd (put [(0x6040, 3, 0)] (tPtp 3 2 0 { ptp0 := { left := true } })).part 0x6040 3 = 0 ∧ servoState (tPtp 3 2 0 { ptp0 := { left := true } }).part = 2) ∧
    ptpState tLeaf.part 0 = 0 ∧ ((ptpInst tLeaf.part 0).masters.find? fun a => (ptpInst tLeaf.part 0).chosen == some a.port) = none ∧
    (∀ v ∈ [0, 1], accepted (tPtp 3 3 3 {}).part rqC 0x6040 1 v) ∧ 1 ≠ rd (tPtp 3 3 3 {}).part 0x6040 1 := by decide +kernel

/-! ### Witnesses: housekeeping -/

/-- A Leaf with converter 2 in a state. -/
def tConv (st : Nat) (x : Conv) (s : State) : State := on (setConv 2 x) (put [(0x805A, 4, st)] s)

/-- A short chain that runs. -/
def tRun : Conv := { reset := some 0, chain := { resp := 0, r := 16, f := 16, g := 16 }, k := 1 }

/-- Converter 2 three-wire or two-wire, with a range in force, autoranging and its settling results. -/
def tInput (three range auto settling : Nat) (s : State) : State :=
  put [(0x8002, 3, three), (0x8002, 7, auto), (0x8002, 11, range), (0x8052, 6, settling), (0x8002, 6, 1)] s

theorem wit_ResultsAreDelivered :
    (∀ st ∈ [1, 2, 4], ∀ k ∈ [0, 1], ∀ three ∈ [0, 1], let p := (tInput three 3 1 1 (tConv st { tRun with k } tLeaf)).part
     live p ∧ convSt p 2 = st ∧ (conv p 2).reset = some 0 ∧ (conv p 2).job = .main ∧ (conv p 2).trips = [] ∧ injSt p 2 ≠ 1 ∧ hkCalSt p 2 ≠ 1 ∧ rd p 0x8002 6 ≤ (conv p 2).mains + 1 ∧ rd p 0x8002 3 = three) ∧
    (let p := (tInput 0 3 1 1 (tConv 2 { tRun with k := 0, chain := { tRun.chain with resp := 2 } } tLeaf)).part
     (form 2 [] none p).k < firstValid (conv p 2).chain) ∧
    (∀ c, c ∈ [some true, none] → let p := (tInput 0 3 1 0 (tConv 2 { tRun with low := 3 } tLeaf)).part
     firstValid (conv p 2).chain ≤ (form 2 [] c p).k ∧ (c = none → (form 2 [] c p).x.natAbs ≤ 104857) ∧ (c ≠ none → 471860 ≤ (form 2 [] c p).x.natAbs) ∧ rd p 0x8002 7 = 1 ∧ 0 < rd p 0x8002 0xB ∧ rd p 0x8002 0xB < 7) ∧
    (let p := (put [(0x8040, 2, 2), (0x8048, 1, 1), (0x805E, 5, 1)] (tInput 0 3 0 0 (tConv 2 tRun tLeaf))).part
     loopSource p 0 = 2 ∧ loopSt p 0 = 1 ∧ injSt p 2 = 1 ∧ (form 2 [] none p).clip = false ∧ (form 2 [] none p).suspect = false ∧ (form 2 [] none p).open_ = false) ∧
    (conv (tConv 2 { tRun with job := .lead } tLeaf).part 2).job = .lead ∧
    (∀ c ∈ [0, 6], let p := (put [(0x8062, 2, c)] (tConv 4 { tRun with job := .injected } tLeaf)).part
     (conv p 2).job = .injected ∧ convSt p 2 = 4 ∧ hkCalSt p 2 = c) ∧
    (conv tLeaf.part 2).reset = none := by decide +kernel

theorem wit_WiresTrip :
    (let p := (put [(0x8002, 10, 3), (0x8002, 1, 4), (0x8002, 2, 5)] (tConv 2 tRun tLeaf)).part
     live p ∧ serving p ∧ quiet p ∧ checkRead p rqC 0x805A 1 = .ok ∧ bit (rd p 0x8002 0xA) 0 = true ∧ bit (rd p 0x8002 0xA) 1 = true ∧ watchedPin p 2 true ≤ 0x1F ∧ watchedPin p 2 false ≤ 0x1F ∧ convSt p 2 ≠ 5 ∧
       tripOpen p 2 true = false ∧ tripOpen p 2 false = false) ∧
    (let p := (put [(0x8020, 3, 2)] (tConv 2 { tRun with trips := [⟨true, 50, none, false⟩] } tLeaf)).part
     tripOpen p 2 true = true ∧ rd p 0x8020 3 = 2 ∧ (∀ t ∈ (conv p 2).trips, t.stop = none → t.high = true)) := by decide +kernel

/-- Converter 2 in the start mask. -/
def tMask (s : State) : State := put [(0x8054, 1, 4)] s

theorem wit_ConvertersStartAndStop :
    (∀ st ∈ [0, 1, 2, 3, 4], let p := (tMask (tConv st {} tLeaf)).part
     serving p ∧ quiet p ∧ (∀ v ∈ [1, 2, 3], checkWrite p rqC 0x8054 2 v = .ok) ∧ rd p 0x8054 1 = 4 ∧ bit 4 2 = true ∧ convSt p 2 = st ∧ before (rd p 0x8054 3) (now p) = false ∧
       (∀ j, j < 4 → bit 4 j = true → j = 2)) ∧
    (conv (tConv 1 { settle := some 500 } tLeaf).part 2).settle = some 500 ∧
    (let p := (on (fun p => { p with clk := { p.clk with fx := 2 ^ 50 } }) (tMask (tConv 0 {} tLeaf))).part
     before (rd p 0x8054 3) (now p) = true) ∧
    (let p := (on (fun p => { p with hk := { p.hk with armed := 4 } }) (put [(0x8054, 6, 1)] (tMask (tConv 1 {} tLeaf)))).part
     live p ∧ rd p 0x8054 6 = 1 ∧ bit p.hk.armed 2 = true ∧ bit p.hk.armed 1 = false ∧ convSt p 2 = 1 ∧ (conv p 2).settle = none ∧ (∀ j, j < 4 → bit p.hk.armed j = true → bit 4 j = true)) ∧
    (∀ c ∈ [1, 6], let p := (put [(0x8062, 2, c), (0x805E, 5, 1)] (tMask (tConv 2 tRun tLeaf))).part
     hkCalSt p 2 = c ∧ injSt p 2 = 1 ∧ convSt p 2 ≠ 0 ∧ arbOf p (.hkCal 2) = [] ∧ rd p 0x8054 6 ≠ 1) := by decide +kernel

theorem wit_ConvertersSettleAndCalibrate :
    (∀ st ∈ [2, 3], ∀ c ∈ [(2, 64), (6, 1)], let p := (put [(0x805E, 5, 1), (0x8062, 2, 6)] (tConv st tRun tLeaf)).part
     accepted p rqC 0x8052 c.1 c.2 ∧ convSt p 2 = st ∧ injSt p 2 = 1 ∧ hkCalSt p 2 = 6) ∧
    (∀ st ∈ [0, 2], let p := (tConv st {} tLeaf).part
     checkWrite p rqC 0x805E 1 1 = .ok ∧ checkWrite p rqC 0x8062 1 1 = .ok ∧ convSt p 2 = st ∧ hkCalSt p 2 = 0 ∧ injSt p 2 = 0 ∧ (conv p 2).settle = none) ∧
    (let p := (put [(0x8062, 2, 6)] (tConv 2 {} tLeaf)).part
     checkWrite p rqC 0x805E 1 1 = .ok ∧ hkCalSt p 2 = 6) ∧
    (∀ st ∈ [1, 3, 4], let p := (tConv st { settle := some 500 } tLeaf).part
     convSt p 2 = st ∧ (conv p 2).settle = some 500) ∧
    (∀ c ∈ [0, 1, 6], let p := (put [(0x8062, 2, c)] (tConv 5 {} tLeaf)).part
     checkWrite p rqC 0x8062 1 2 = .ok ∧ hkCalSt p 2 = c ∧ arbOf p (.hkCal 2) = [] ∧ unsettled p (.hkCal 2) = true ∧ convSt p 2 = 5) ∧
    (let t := hkTable (((List.range 16).map fun i => List.replicate 16 (if i % 2 = 0 then 100 else 262244)).map fun l => l.map clampX)
     ∀ r, r < 8 → (t.getD (2 * r) 0).natAbs ≤ 8192 ∧ (t.getD (2 * r + 1) 0).natAbs ≤ 52428) ∧
    (let t := hkTable (((List.range 16).map fun _ => List.replicate 16 9000).map fun l => l.map clampX)
     8192 < (t.getD (2 * 3) 0).natAbs) ∧
    (let t := hkTable (((List.range 16).map fun i => List.replicate 16 (if i % 2 = 0 then 100 else 1000)).map fun l => l.map clampX)
     (∀ r, r < 8 → (t.getD (2 * r) 0).natAbs ≤ 8192) ∧ 52428 < (t.getD (2 * 3 + 1) 0).natAbs) := by decide +kernel

theorem wit_ExcitationChanges :
    (∀ a ∈ [(1, 100), (2, 3), (3, 4), (5, 0)], let p := (put [(0x8011, 5, 4)] (tConv 2 tRun tLeaf)).part
     accepted p rqC 0x8011 a.1 a.2 ∧ a.2 ≠ rd p 0x8011 a.1 ∧ bit (rd p 0x8011 5) 2 = true ∧ bit (0 ^^^ rd p 0x8011 5) 2 = true ∧ convSt p 2 = 2) ∧
    (∀ a ∈ [(1, 4), (2, 5), (3, 1), (9, 1)], let p := (tConv 3 tRun tLeaf).part
     accepted p rqC 0x8002 a.1 a.2 ∧ a.2 ≠ rd p 0x8002 a.1 ∧ convSt p 2 = 3) := by decide +kernel

theorem wit_ExcitationAndLoops :
    (let p := (put [(0x8011, 1, 100), (0x8011, 2, 3), (0x8011, 3, 4)] tLeaf).part
     live p ∧ p.pow.phase = .running ∧ rd p 0x8011 1 ≠ 0 ∧ drivenPin p 1 true ≠ 0xFF ∧ drivenPin p 1 false ≠ 0xFF ∧ bit (rd p 0x8011 7) 1 = false ∧ bit (rd p 0x8011 7) 0 = false ∧ rd tLeaf.part 0x8011 1 = 0) ∧
    (let p := (on (setLoop 1 { below := 9, above := 9, within := 9 }) (put [(0x8041, 9, 10000)] tLeaf)).part
     rd p 0x8041 9 ≠ 0 ∧ 9249 + 750 < rd p 0x8041 9 ∧ rd p 0x8041 9 + 1250 < 11251 ∧ (loopOut p 1).below = 9 ∧ (loopOut p 1).above = 9 ∧ (loopOut p 1).within = 9 ∧ rd p 0x8049 4 = 0 ∧ loopSt p 1 ≠ 4) ∧
    rd tLeaf.part 0x8041 9 = 0 ∧
    (∀ st ∈ [1, 4], let p := (put [(0x8041, 2, 1), (0x8049, 1, st), (0x8049, 2, 1)] tLeaf).part
     loopSource p 1 < 4 ∧ loopSt p 1 = st ∧ loopCause p 1 = 1) ∧ loopSt tLeaf.part 1 = 0 := by decide +kernel

/-! ### Witnesses: the object dictionary -/

theorem wit_ReadsAreAnswered :
    let p := tLeaf.part
    serving p ∧ quiet p ∧
      (∀ e ∈ [(0x6010, 2), (0x4000, 1), (0x6000, 1), (0, 1)], vendorIdx e.1 = false ∧ checkRead p rqC e.1 e.2 = .ok ∧ lookup e.1 e.2 = some (rowOf e.1 e.2) ∧ entry p e.1 e.2 = some (rowOf e.1 e.2) ∧
        mayRead p (rowOf e.1 e.2) e.1 e.2 rqC.cls = true) ∧
      ((rowOf 0x6010 2).ty ≠ .str ∧ liveValue p rqC 0x6010 2 = none ∧ readsDefault p 0x6010 2 = false) ∧ readsDefault p 0x4000 1 = true ∧ liveValue p rqC 0x6000 1 = some 0 ∧ readsDefault p 0x6000 1 = false ∧
      (rowOf 0 1).ty = .str ∧ Resp.noEntry ≠ .ok ∧ checkRead p rqC 0x6010 99 = .noEntry ∧ vendorIdx 0xF000 = true ∧ rqV.cls = 7 ∧ rqC.cls ≠ 7 := by decide +kernel

theorem wit_WritesCommitOrAreStaged :
    let p := tLeaf.part
    serving p ∧ quiet p ∧ (∀ e ∈ [(0x7046, 1, 9), (0x6010, 2, 4), (0x5070, 1, 0xFF10)], vendorIdx e.1 = false ∧ (abortOf p rqC e.1 e.2.1 e.2.2).isNone = true ∧ checkWrite p rqC e.1 e.2.1 e.2.2 = .ok ∧
        lookup e.1 e.2.1 = some (rowOf e.1 e.2.1)) ∧
      journalled (rowOf 0x7046 1) = false ∧ stores (rowOf 0x7046 1) = true ∧ journalled (rowOf 0x6010 2) = true ∧ (rowOf 0x6010 2).acc ≠ .wl ∧ journalled (rowOf 0x5070 1) = true ∧ (rowOf 0x5070 1).acc = .wl ∧
      journalState p = 0 ∧ journalState (put [(0x1400, 7, 1)] tLeaf).part = 1 ∧ journalState (put [(0x1400, 7, 2)] tLeaf).part = 2 ∧ checkWrite p rqC 0x6010 2 9 = .badValue ∧
      checkWrite p rqC 0x9000 1 4 = .ok ∧ lookup 0x9000 1 = some (rowOf 0x9000 1) ∧ journalled (rowOf 0x9000 1) = false := by decide +kernel

/-- A Leaf with a write of 6010h.02 staged. -/
def tStaged (fails : Nat) (time : Option Nat) : State :=
  on (fun p => { p with svc := { p.svc with staged := some { rq := rqC, idx := 0x6010, sub := 2, v := 4, action := 1, since := 0, time }, fails } }) tLeaf

theorem wit_JournalCommitsOrFails :
    (∀ n ∈ [0, 2], ∀ t ∈ [none, some 1000], let p := (tStaged n t).part
     serving p ∧ p.svc.staged = some { rq := rqC, idx := 0x6010, sub := 2, v := 4, action := 1, since := 0, time := t } ∧ p.svc.waiting = [] ∧ p.svc.fails = n ∧ journalState p = 0) ∧
    (lookup 0x6010 2 = some (rowOf 0x6010 2) ∧ journalled (rowOf 0x6010 2) = true ∧ stores (rowOf 0x6010 2) = true ∧ (0x6010, 2) ≠ (0x1110, 9) ∧ tLeaf.part.svc.staged = none) ∧
    (let p := (put [(0x1400, 7, 1)] tLeaf).part
     serving p ∧ journalState p = 1 ∧ p.svc.waiting = [] ∧ tasc none p.svc.journal = true) := by decide +kernel

/-- A delta of kind 0 with an empty stream, in 16-bit elements: 64 octets of header that claim an image of 131 octets. -/
def tDelta : List Nat :=
  [0x554C, 0x5243, 0x0100, 0] ++ List.replicate 16 0 ++ [0, 131, 0, 0] ++ List.replicate 8 0

/-- A Leaf with a transfer that runs in session 0's instance. -/
def tTrans (t : Transfer) (st : Nat) : State := on (fun p => setInst 0 2 st (setTransfer 0 (some t) p)) tLeaf

/-- A transfer of five words, of which two have come. -/
def tFive : Transfer := { rq := rqV, idx := 0x9010, sub := 0, total := 5, words := [1, 2], last := 50 }

theorem wit_TransfersBeginExtendAndEnd :
    (let p := tLeaf.part
     serving p ∧ quiet p ∧ checkDomain p rqV 0x9010 0 true = .ok ∧ lookup 0x9010 0 = some (rowOf 0x9010 0) ∧ 10 ≤ (rowOf 0x9010 0).len ∧ beginBusy p rqV 0x9010 0 = false ∧ rqV.path < 2 ∧
       checkDomain p { rqV with path := 2 } 0x9010 0 true = .ok ∧ instOf p (instanceOf rqC) 2 ≠ 1 ∧ instOf p (instanceOf rqC) 2 ≠ 6 ∧ takingTransfer p 0 = none ∧ transferOf p 0 = none) ∧
    (∀ st ∈ [1, 6], let p := (tTrans tFive st).part
     serving p ∧ quiet p ∧ checkDomain p rqV 0x9010 0 true = .ok ∧ takingTransfer p (instanceOf rqV) = some tFive ∧ transferOf p 0 = some tFive ∧ beginBusy p rqV 0x9010 0 = true ∧ tFive.full = false ∧
       instOf p 0 2 = st ∧ arbOf p (.transfer 0) = [] ∧ unsettled p (.transfer 0) = true ∧ checkWrite p rqC 0x1420 6 2 = .ok) ∧
    (2 + [3, 4, 5].length ≤ 5 ∧ 5 < 2 + [3, 4, 5, 6].length ∧ 1 + [2].length ≤ 2 ∧ (tFive.words.drop 1).take 1 = [2] ∧ (tFive.words.drop 1).take 1 ≠ [3].take (2 - 1)) ∧
    (let p := (on (fun p => { p with fab := { p.fab with arb := [(.transfer 0, { kind := .failure 1 })] } }) (tTrans tFive 1)).part
     transferOf p 0 = some tFive ∧ arbOf p (.transfer 0) = [{ kind := .failure 1 }]) := by decide +kernel

theorem wit_DomainValuesCommitAndAreRead :
    (∀ l ∈ [[], [(OpId.transfer 0, ({ kind := .completion } : ArbReq))]],
     let p := (on (fun p => { p with fab := { p.fab with arb := l } }) (tTrans { rq := rqV, idx := 0x9010, sub := 0, total := 32, words := tDelta, last := 50, full := true } 1)).part
     serving p ∧ journalState p = 0 ∧ arbOf p (.transfer 0) = l.map (·.2) ∧ unsettled p (.transfer 0) = l.isEmpty ∧ stagingOk tDelta = true ∧ stagingOk [1] = false ∧
       transferOf p 0 = some { rq := rqV, idx := 0x9010, sub := 0, total := 32, words := tDelta, last := 50, full := true }) ∧
    (let p := (on (setSnap 3 (some { idx := 0x8064, sub := 0, words := [1], last := 50 })) tLeaf).part
     quiet p ∧ checkDomain p rqC 0x8064 0 false = .ok ∧ 2 + 5 ≤ (snapshotFor p rqC 0x8064 0).length ∧ tget none p.svc.snaps 3 = some { idx := 0x8064, sub := 0, words := [1], last := 50 } ∧ tget none p.svc.snaps 2 = none) := by decide +kernel

/-- A Leaf with so many scheduled writes of an entry, at time 1000. -/
def tSched (n idx sub v : Nat) : State := on (fun p => { p with svc := { p.svc with scheduled := List.replicate n { rq := rqC, idx, sub, v, time := 1000 } } }) tLeaf

theorem wit_WritesAreScheduled :
    (∀ e ∈ [(0x7046, 1, 9), (0x6010, 2, 4)], let p := tLeaf.part
     serving p ∧ quiet p ∧ checkWrite p rqC e.1 e.2.1 e.2.2 = .ok ∧ lookup e.1 e.2.1 = some (rowOf e.1 e.2.1) ∧ vendorIdx e.1 = false ∧ journalState p = 0 ∧ 1000 < 2 ^ 80 ∧ 0 ≤ diffMod 80 1000 (now p) ∧
       p.svc.scheduled.length < 16 ∧ diffMod 80 (2 ^ 80 - 5) (now p) < 0 ∧ p.svc.scheduled = []) ∧
    (journalled (rowOf 0x7046 1) = false ∧ journalled (rowOf 0x6010 2) = true ∧ checkWrite (put [(0x1400, 7, 2)] tLeaf).part rqC 0x6010 2 4 = .ok) ∧
    (checkWrite (tSched 16 0x6010 2 4).part rqC 0x7046 1 9 = .ok ∧ 16 ≤ (tSched 16 0x6010 2 4).part.svc.scheduled.length) := by decide +kernel

theorem wit_ScheduledWritesCommitAtTheirTime :
    (∀ e ∈ [(0x7046, 1, 9), (0x6010, 2, 4)], let p := (tSched 1 e.1 e.2.1 e.2.2).part
     let q := advanceTo 1000 { p with svc := { p.svc with scheduled := [] } }
     serving p ∧ p.svc.scheduled = [{ rq := rqC, idx := e.1, sub := e.2.1, v := e.2.2, time := 1000 }] ∧ lookup e.1 e.2.1 = some (rowOf e.1 e.2.1) ∧ stores (rowOf e.1 e.2.1) = true ∧ journalState p = 0 ∧
       (abortOf q rqC e.1 e.2.1 e.2.2).isNone = true ∧ checkWrite q rqC e.1 e.2.1 e.2.2 = .ok ∧ (rowOf e.1 e.2.1).acc ≠ .wl) ∧
    (let p := (tSched 1 0x6010 2 9).part
     checkWrite (advanceTo 1000 { p with svc := { p.svc with scheduled := [] } }) rqC 0x6010 2 9 = .badValue) ∧
    (let p := (tSched 1 0x8060 1 2).part
     let q := advanceTo 1000 { p with svc := { p.svc with scheduled := [] } }
     (abortOf q rqC 0x8060 1 2).isSome = true ∧ checkWrite q rqC 0x8060 1 2 = .ok) := by decide +kernel

theorem wit_CrownReportsAndHealth :
    (serving tLeaf.part ∧ addressed tLeaf.part = false ∧ isBough tLeaf.part = false ∧ tget none tLeaf.part.svc.crowns 3 = none ∧ tget none tLeaf.part.svc.crownFrom 3 = none) ∧
    (let p := (put [(0x1100, 3, 1), (0x1100, 2, 1)] tLeaf).part
     addressed p = true ∧ reportPath p = none ∧ p.svc.bus.up.length < 16) ∧
    (let p := (put [(0x1100, 3, 1), (0x1100, 2, 1), (0x1300, 5, 1), (0x5110, 1, 3)] tLeaf).part
     addressed p = true ∧ reportPath p = some 16 ∧ (link p 16).mgmt = [] ∧ linkStopped p 16 = false) ∧
    (let p := (on (fun p => { p with svc := { p.svc with crownFrom := [(3, some 50)] } }) tBough).part
     tget none p.svc.crowns 3 = none ∧ tget none p.svc.crownFrom 3 = some 50) ∧
    (let p := (on (keepReport 3 { addr := 0, tier := 1, time := 0, vals := [] }) tBough).part
     serving p ∧ isBough p = true ∧ tget none p.svc.crowns 3 = some { addr := 0, tier := 1, time := 0, vals := [] } ∧ 0 < p.clk.incr ∧ p.clk.incr ≤ 2 ^ 40 ∧ p.clk.fx < 2 ^ 112 ∧ 0 ≤ now p ∧ now p ≤ 0 + staleTk ∧
       0 + staleTk + 2 ^ 20 < 2 ^ 79) := by decide +kernel

/-! ### Witnesses: the service bus and sessions -/

/-- A part with an address; a Leaf at 2500h of tier 2, or a Bough at 2000h of tier 1 that polls position 5. -/
def tAddr : State := put [(0x1100, 1, 0x2500), (0x1100, 2, 2), (0x1100, 3, 1)] tLeaf
def tHub : State := put [(0x1100, 1, 0x2000), (0x1100, 2, 1), (0x1100, 3, 1), (0x1300, 1, 0x20)] tBough

/-- A frame, with its last 16 octets those of a tag where a key is given. -/
def tFrame (kind flags addr sess : Nat) (body : List Nat) : Frame := { kind, flags, addr, host := 3, sess, body }
def tSigned (key lead : List Nat) (f : Frame) : Frame :=
  let g := { f with body := f.body ++ List.replicate 16 0 }
  { f with body := f.body ++ (hmac key (lead ++ g.head.take (g.head.length - 16))).take 16 }

theorem wit_FramesComeBack :
    let f := tFrame 0x10 0x02 0x02500 1 (List.replicate 23 0xFF)
    f.kind ∈ downKinds ++ upKinds ∧ f.flags < 256 ∧ bit f.flags 3 = false ∧ f.addr < 2 ^ 20 ∧ f.host < 16 ∧ f.sess < 16 ∧ f.body.length ≤ 512 ∧ (∀ o ∈ f.body, o < 256) ∧ frameOf f.octets = some f := by
  decide +kernel

/-- A Bough with so many relay entries. -/
def tRelay (n : Nat) (up : Bool) : State :=
  on (fun p => setBus { p.svc.bus with relays := List.replicate n { origin := { host := 3, sess := 1, addr := 0x2500, tier := 2 }, port := 5, bus := true, since := 50 } } p)
    (if up then tHub else put [(0x1300, 1, 0)] tHub)

theorem wit_FramesFindTheirWay :
    (serving tHub.part ∧ claimedLength [1, 2, 3] ≤ 512 ∧ frameOf [1, 2, 3] = none ∧ isBough tLeaf.part = false ∧ rd (put [(0x1300, 5, 0)] tHub).part 0x1300 5 = 0 ∧ tHub.part.svc.bus.relays = [] ∧ 512 < claimedLength [1, 0, 0, 0, 0, 0, 2, 1] ∧ rd tHub.part 0x1300 5 ≠ 0 ∧ recovery tHub.part = false ∧ isBough tHub.part = true) ∧
    (let f := tFrame 0x10 0x02 0x02500 1 (List.replicate 23 0)
     frameOf f.octets = some f ∧ claimedLength f.octets ≤ 512 ∧ f.kind ∈ [kOpen, kProve, kRequest, kDiscover] ∧ f.up = false ∧ f.ser = false ∧ isBough tHub.part = true ∧ inCrown tHub.part f.addr f.tier = true ∧
       pathTo tHub.part none (positionOf tHub.part f.addr) = some true ∧ tHub.part.svc.bus.relays.length < 128 ∧
       inCrown (tRelay 0 false).part f.addr f.tier = true ∧ pathTo (tRelay 0 false).part none (positionOf (tRelay 0 false).part f.addr) = none ∧
       (pathTo (tRelay 128 true).part none (positionOf (tRelay 128 true).part f.addr)).isSome = true ∧ 128 ≤ (tRelay 128 true).part.svc.bus.relays.length ∧ inCrown (tRelay 128 true).part f.addr f.tier = true) ∧
    (let f := tFrame 0x11 0x82 0x02500 1 [0]
     let p := (tRelay 1 true).part
     frameOf f.octets = some f ∧ claimedLength f.octets ≤ 512 ∧ f.kind ∈ [kChallenge, kOpened, kResponse, kIdentity, kError, kUnreachable] ∧ f.kind ∈ upKinds ∧ f.up = true ∧ isBough p = true ∧ rd p 0x1300 5 ≠ 0 ∧
       (p.svc.bus.relays.find? (answers f)).isSome = true ∧ tHub.part.svc.bus.relays.find? (answers f) = none ∧ p.svc.bus.polled = none) ∧
    (∀ fl ∈ [0x02, 0x82], let f := tFrame 0x41 fl 0x02500 15 []
     frameOf f.octets = some f ∧ f.kind = kEmpty ∧ f.kind ∈ upKinds ∧ f.up = (fl == 0x82)) ∧
    (let f := tFrame 0x10 0x82 0x02500 15 []
     frameOf f.octets = some f ∧ f.kind ∉ upKinds ∧ f.up = true) ∧
    (let p := (on (fun p => setBus { p.svc.bus with polled := some { pos := some 5, since := 50 } } p) tHub).part
     serving p ∧ isBough p = true ∧ p.svc.bus.polled = some { pos := some 5, since := 50 }) ∧
    (let p := (put [(0x1300, 1, 0), (0x5105, 1, 3)] tHub).part
     pathTo p none 5 = some false ∧ serving p) := by
  refine ⟨?_, ?_, ?_, ?_, ?_, ?_, ?_⟩ <;> decide +kernel

/-- Octets of a frame being assembled on uplink A. -/
def tAsm : State := on (setAsm 16 [1, 2]) (put [(0x5110, 1, 3)] tAddr)

theorem wit_PollingAndTheMirror :
    (serving tAddr.part ∧ addressed tAddr.part = true ∧ addressed tLeaf.part = false ∧ tAddr.part.svc.bus.up = [] ∧ (on (pushUp [9, 0, 0]) tAddr).part.svc.bus.up = [[9, 0, 0]] ∧ isBough tAddr.part = false ∧
      tAddr.part.svc.bus.polled = none ∧ takesManagement tAddr.part 16 = false) ∧
    (serving tHub.part ∧ isBough tHub.part = true ∧ addressed tHub.part = true ∧ tHub.part.svc.bus.polled = none ∧ pollNext tHub.part = some (5, some 5, 0)) ∧
    (on (fun p => setBus { p.svc.bus with polled := some { pos := some 5, since := 50 } } p) tHub).part.svc.bus.polled = some { pos := some 5, since := 50 } ∧
    (∀ p ∈ [tAsm.part, (put [(0x5110, 1, 3)] tAddr).part], serving p ∧ takesManagement p 16 = true ∧ rd p 0x1300 5 ≠ 0) ∧
    (∀ h ∈ [0x50001, 0x54001, 0x58001, 0x5C001], bits h 19 16 = 5 ∧ bit h 13 = false ∧ bits h 15 14 = (h - 0x50001) / 0x4000) ∧ bits 0x44001 19 16 ≠ 5 ∧
    tget [] tAsm.part.svc.bus.asm 16 ≠ [] ∧ tget [] tAddr.part.svc.bus.asm 16 = [] ∧
    (let os := (tFrame 0x40 0x02 0x02500 15 []).octets
     let p := (on (setAsm 16 (os.take 8)) tAsm).part
     let all := tget [] p.svc.bus.asm 16 ++ packetOctets 0x5C002 ((pairWords (os.drop 8)).take (bits 0x5C002 4 0))
     bits 0x5C002 19 16 = 5 ∧ bit 0x5C002 13 = false ∧ bits 0x5C002 15 14 = 3 ∧ all.drop (all.length - 4) = toOctets 4 (crc32 (all.take (all.length - 4)))) ∧
    (let all := tget [] tAsm.part.svc.bus.asm 16 ++ packetOctets 0x5C001 [7]
     all.drop (all.length - 4) ≠ toOctets 4 (crc32 (all.take (all.length - 4)))) := by decide +kernel

/-- Session 2 of slot 3, in a state, with what it keeps. -/
def tSess (st : Nat) (x : Session) : State := on (setSession 2 x) (put [(0x1322, 1, st), (0x1322, 2, 3), (0x1322, 3, 1), (0x1313, 4, 1)] tAddr)

theorem wit_SessionsOpenAndClose :
    (let p := (put [(0x1313, 4, 1)] tAddr).part
     serving p ∧ quiet p ∧ openStatus p 3 = 0 ∧ (List.range 8).find? (sessionFree p) = some 0 ∧ p.svc.bus.up.length < 16 ∧ openStatus p 9 ≠ 0 ∧ (List.replicate 16 0).length = 16 ∧ ∀ x ∈ List.replicate 16 0, x < 256) ∧
    (let p := (on (fun p => { p with svc := { p.svc with badProofs := [(3, [0, 0, 0])] } }) (tSess 1 { nh := List.replicate 16 1, np := List.replicate 16 2 })).part
     serving p ∧ sessSt p 2 = 1 ∧ rd p 0x1322 2 = 3 ∧ (∀ x ∈ hmac (slotKey p 3) (strOpen ++ openMessage p 3 2 (session p 2).nh (session p 2).np), x < 256) ∧
       ([7] : List Nat).map (· % 256) ≠ hmac (slotKey p 3) (strOpen ++ openMessage p 3 2 (session p 2).nh (session p 2).np) ∧ 3 ≤ ((tget [] p.svc.badProofs 3).filter fun t => decide (p.clk.rp < t + 10 * secRp)).length) ∧
    (let p := (tSess 2 {}).part
     serving p ∧ sessSt p 2 = 2 ∧ quiet p ∧ checkWrite p rqC 0x1330 1 2 = .ok ∧ checkWrite p rqC 0x1330 1 9 = .badValue ∧ checkWrite p rqT 0x1330 1 2 = .denied ∧ sessSt p 2 ≠ 0 ∧ sessSt p 5 = 0 ∧
       ({ rqC with sess := some 2 } : Rq).sess = some 2 ∧ rqC.sess = none ∧ tget none p.svc.locked 3 = none) ∧
    tget none (on (fun p => { p with svc := { p.svc with locked := [(3, some 50)] } }) tAddr).part.svc.locked 3 = some 50 ∧
    (accepted tAddr.part rqC 0x1313 1 (unwrapped tAddr.part rqC 77) ∧ renew rqC tAddr.part = tAddr.part ∧ checkWrite tAddr.part rqT 0x1313 1 77 = .denied ∧
      checkWrite (put [(0x1400, 7, 2)] tAddr).part rqC 0x1313 1 77 = .ok ∧ journalState (put [(0x1400, 7, 2)] tAddr).part = 2) := by decide +kernel

/-- A read of 6010h.02 in session 2 with a sequence. -/
def tReq (key : List Nat) (op seq : Nat) : Frame := tSigned key [0] (tFrame 0x10 0x02 0x02500 2 (toOctets 3 seq ++ [op, 0x60, 0x10, 0x02]))

/-- A request of session 2 under the key [1, 2] is a frame that carries its operation and its tag. -/
def tTagged (op seq : Nat) : Bool :=
  let f := tReq [1, 2] op seq
  decide (frameOf f.octets = some f) && f.body.getD 3 0 == op && ofOctets (f.body.take 3) == seq && !f.ser && f.rest == f.body &&
    f.head.drop (f.head.length - 16) == (hmac [1, 2] (0 :: f.head.take (f.head.length - 16))).take 16

/-- An open session 2 with the key [1, 2], a last response and the sequence 6. -/
def tOpen : State := put [(0x1322, 5, 6)] (tSess 2 { key := [1, 2], last := [1, 2, 3] })

theorem wit_RequestsRunOnce :
    (let p := (tSess 2 { busy := some 6 }).part
     serving p ∧ quiet p ∧ sessSt p 2 = 2 ∧ (session p 2).busy = some 6 ∧ 6 ≠ nextSeq 6 ∧ vendorIdx 0x6010 = false ∧ rqC.path % 2 = 0) ∧
    (let p := (tSess 0 { busy := some 6 }).part
     sessSt p 2 ≠ 2 ∧ (session p 2).busy = some 6) ∧
    (let p := tOpen.part
     let f := tReq [1, 2] 1 7
     serving p ∧ claimedLength f.octets ≤ 512 ∧ f.kind = kRequest ∧ f.up = false ∧ isOwn p f.addr f.tier = true ∧ f.sess < 8 ∧ sessSt p f.sess = 2 ∧ 23 ≤ f.body.length ∧ (session p f.sess).key = [1, 2] ∧
       (session p f.sess).busy = none ∧ 7 = nextSeq (rd p (0x1320 + f.sess) 5) ∧ (session p 2).last ≠ [] ∧ rd p 0x1322 5 = 6 ∧ 9 ≠ nextSeq 6) ∧
    sessSt (tSess 0 {}).part 2 ≠ 2 := by decide +kernel

/-- A read of the next sequence, of the last one, and of neither. -/
theorem wit_RequestsRunOnce_next : tTagged 1 7 = true := by decide +kernel
theorem wit_RequestsRunOnce_last : tTagged 1 6 = true := by decide +kernel
theorem wit_RequestsRunOnce_other : tTagged 1 9 = true := by decide +kernel

/-- The other operations, and a code of none. -/
theorem wit_RequestsRunOnce_write : tTagged 2 7 = true := by decide +kernel
theorem wit_RequestsRunOnce_describe : tTagged 3 7 = true := by decide +kernel
theorem wit_RequestsRunOnce_readSegment : tTagged 4 7 = true := by decide +kernel
theorem wit_RequestsRunOnce_begin_ : tTagged 5 7 = true := by decide +kernel
theorem wit_RequestsRunOnce_segment : tTagged 6 7 = true := by decide +kernel
theorem wit_RequestsRunOnce_schedule : tTagged 7 7 = true := by decide +kernel
theorem wit_RequestsRunOnce_close : tTagged 8 7 = true := by decide +kernel
theorem wit_RequestsRunOnce_none_ : tTagged 9 7 = true := by decide +kernel

/-- A request under another key than its session's. -/
theorem wit_RequestsRunOnce_wrongTag :
    (let p := (put [(0x1322, 5, 6)] (tSess 2 { key := [3] })).part
     let f := tReq [1, 2] 1 7
     f.head.drop (f.head.length - 16) ≠ (hmac (session p f.sess).key (0 :: f.head.take (f.head.length - 16))).take 16) := by decide +kernel

/-- A broadcast write of an entry under slot 3's key, with stamp 1. -/
def tBc (idx sub : Nat) (args : List Nat) : Frame :=
  tSigned (List.replicate 32 0) strBcst (tFrame 0x12 0x40 0 15 (toOctets 10 1 ++ [3, 2] ++ toOctets 2 idx ++ [sub] ++ args))

/-- A Leaf whose slot 3 is enabled. -/
def tSlot3 : State := put [(0x1313, 4, 1), (0x1313, 3, 1)] tAddr

/-- A broadcast that a Bough gathers: some children awaited. -/
def tGather (own : Option Nat) (wait : List Nat) : State :=
  on (fun p => setBus { p.svc.bus with gathers := [{ slot := 3, stamp := 1, origin := {}, own, wait, since := 50 }] } p) tHub

theorem wit_BroadcastsAreAuthenticated :
    (let f := tBc 0x7046 1 [0, 0, 9]
     let b : Bcast := { stamp := 1, slot := 3, op := 2, idx := 0x7046, sub := 1, args := [0, 0, 9] }
     bcastOf f.body = some b ∧ serving tAddr.part ∧ frameOf f.octets = some f ∧ f.kind = kBroadcast ∧ f.up = false ∧ bcastReaches tAddr.part f = true ∧ isBough tAddr.part = false ∧ tAddr.part.svc.bus.gathers = [] ∧
       bcastAccepted tAddr.part f b = false ∧ serving tSlot3.part ∧ bcastReaches tSlot3.part f = true ∧ bcastAccepted tSlot3.part f b = true ∧ notBroadcast b.idx b.sub = false ∧ b.op = 2 ∧ quiet tSlot3.part ∧
       lookup b.idx b.sub = some (rowOf 0x7046 1) ∧ journalled (rowOf 0x7046 1) = false ∧ stores (rowOf 0x7046 1) = true ∧ b.idx ∉ [0x1340, 0x2104, 0x9000] ∧ vendorIdx b.idx = false ∧ frameOf [1] = none ∧
       (let rq : Rq := { cls := slotClass tSlot3.part b.slot, slot := b.slot, path := 1 }
        let p := bump 0x1340 1 (wr 0x1340 (3 + b.slot) b.stamp (setBus { tSlot3.part.svc.bus with gathers := tSlot3.part.svc.bus.gathers ++ [{ slot := b.slot, stamp := b.stamp, origin := f.origin none, since := tSlot3.part.clk.rp }] } tSlot3.part))
        checkWrite p rq b.idx b.sub (valueOf b.idx b.sub b.args) = .ok ∧ (abortOf p rq b.idx b.sub (valueOf b.idx b.sub b.args)).isNone = true)) ∧
    (let f := tFrame 0x12 0x40 0 15 [1]
     frameOf f.octets = some f ∧ bcastOf f.body = none ∧ bcastReaches tAddr.part f = true) := by decide +kernel

/-- A broadcast of an entry that may not be broadcast. -/
theorem wit_BroadcastsAreAuthenticated_refused :
    (let f := tBc 0x5070 1 [0, 0xFF, 0x10]
     let b : Bcast := { stamp := 1, slot := 3, op := 2, idx := 0x5070, sub := 1, args := [0, 0xFF, 0x10] }
     bcastOf f.body = some b ∧ frameOf f.octets = some f ∧ bcastReaches tSlot3.part f = true ∧ bcastAccepted tSlot3.part f b = true ∧ notBroadcast b.idx b.sub = true) := by decide +kernel

/-- Broadcasts of a scheduled write, and of an operation that may not be broadcast. -/
theorem wit_BroadcastsAreAuthenticated_operations :
    (∀ op ∈ [7, 1], let f := tSigned (List.replicate 32 0) strBcst (tFrame 0x12 0x40 0 15 (toOctets 10 1 ++ [3, op] ++ toOctets 2 0x7046 ++ [1, 0, 0, 9]))
     let b : Bcast := { stamp := 1, slot := 3, op, idx := 0x7046, sub := 1, args := [0, 0, 9] }
     bcastOf f.body = some b ∧ frameOf f.octets = some f ∧ bcastAccepted tSlot3.part f b = true) := by decide +kernel

theorem wit_BroadcastsAreSummarised :
    let f := tFrame 0x13 0x82 0x2500 15 (toOctets 10 1 ++ [3] ++ List.replicate 30 0)
    let g := fun own wait => ({ slot := 3, stamp := 1, origin := {}, own, wait, since := 50 } : Gather)
    frameOf f.octets = some f ∧ f.kind = kSummary ∧ gatherOf tHub.part 5 f = none ∧
      gatherOf (tGather none [5, 6]).part 5 f = some (g none [5, 6]) ∧ ((g none [5, 6]).wait.any (· != 5)) = true ∧
      (∀ x ∈ (tGather none [5, 6]).part.svc.bus.gathers.map (fun x => if x = g none [5, 6] then gatherChild (tGather none [5, 6]).part 5 f (g none [5, 6]) else x), x.own = none ∨ x.wait ≠ []) ∧
      gatherOf (tGather (some 0) [5]).part 5 f = some (g (some 0) [5]) ∧ ((g (some 0) [5]).wait.any (· != 5)) = false ∧ (tGather (some 0) [5]).part.svc.bus.gathers = [g (some 0) [5]] ∧
      (tGather none [5, 6]).part.svc.bus.gathers = [g none [5, 6]] ∧ serving (tGather none [5, 6]).part ∧ serving (tGather (some 0) [5]).part := by decide +kernel

/-! ### Witnesses: firmware and trigger-table updates -/

/-- A delta of kind 0 for an image of 131 octets, with a stream. -/
def tDel (st : List Nat) : List Nat :=
  [0x55, 0x4C, 0x52, 0x43, 1, 0, 0, 0] ++ List.replicate 32 0 ++ [0, 0, 0, 131] ++ [0, 0, 0, st.length] ++ List.replicate 16 0 ++ st

/-- An image of 131 octets, sound where the Vendor's signature is. -/
def tImage : List Nat :=
  [0x55, 0x4C, 0x52, 0x46, 1, 0, 0, 0, 0, 0, 0, 0, 0, 9, 0, 0, 0, 3] ++ List.replicate 46 0 ++ [1, 2, 3] ++ List.replicate 64 7

/-- A Leaf with a delta staged and a rebuild at some point. -/
def tReb (st : List Nat) (r : Option Rebuild) : State :=
  on (fun p => { p with upd := { p.upd with staged := tDel st, rebuild := r } }) tLeaf

/-- The same with requests at the rebuild's arbiter. -/
def tRebArb (l : List ArbReq) (r : Rebuild) : State :=
  on (fun p => { p with fab := { p.fab with arb := l.map fun x => (.image, x) } }) (tReb [0] (some r))

theorem wit_RebuildsRunToTheirCommit :
    (let p := (tReb [0] none).part
     serving p ∧ quiet p ∧ renew rqC p = p ∧ checkWrite p rqC 0x9000 1 1 = .ok ∧ rebuildCause p = 0 ∧ rebuildCause tLeaf.part = 1 ∧ checkWrite p rqC 0x9000 1 2 = .ok ∧ p.upd.rebuild = none ∧ checkWrite p rqT 0x9000 1 1 = .denied) ∧
    (let p := (tReb [3, 0, 0, 131, 0x55, 0] (some { vendor := false })).part
     serving p ∧ unsettled p .image = true ∧ quiet p ∧ p.upd.rebuild = some { vendor := false } ∧
       (expand p.upd.staged (slotImage p (runningSlot p)).octetList (2 * p.upd.staged.length + 8) sectorLen 0 { pos := 64, rest := .none }).stop = .ended ∧
       (expand (tDel [9]) (slotImage p (runningSlot p)).octetList 140 sectorLen 0 { pos := 64, rest := .none }).stop = .bad) ∧
    (∀ l ∈ [[], [{ kind := .completion }], [{ kind := .failure 3 }], [({ kind := .abort, rqs := [rqC] } : ArbReq)]],
     let p := (tRebArb l { vendor := false, out := tImage, ended := true }).part
     p.upd.rebuild = some { vendor := false, out := tImage, ended := true } ∧ arbOf p .image = l ∧ unsettled p .image = (l.all (·.kind == .abort)) ∧ rd p 0x9000 0xB ≤ fieldAt tImage 10 4 ∧ sound p [] = false) ∧
    fieldAt tImage 10 4 < rd (put [(0x9000, 0xB, 10)] tLeaf).part 0x9000 0xB := by decide +kernel

theorem wit_SoundImage : Config.vendorSigned (tImage.take 67) (tImage.drop 67) = true → sound tLeaf.part tImage = true := by
  intro h
  unfold sound
  rw [Bool.and_eq_true]
  exact ⟨by decide +kernel, h⟩

/-- A Leaf with slot B in a state, and a trial that runs or not. -/
def tTrial (st : Nat) (run : Bool) : State := on (fun p => { p with upd := { p.upd with trial := run } }) (put [(slotIdx 1, 1, st)] tLeaf)

theorem wit_TrialsConfirmOrFallBack :
    (let p := (tTrial slotValid false).part
     serving p ∧ p.svc.journal = [] ∧ p.svc.staged = none ∧ quiet p ∧ checkWrite p rqC 0x9000 1 3 = .ok ∧ trialCause p = 0 ∧ trialCause tLeaf.part ≠ 0 ∧ slotWith p slotValid = some 1 ∧ slotWith p slotTrial = none ∧ bit 0 1 = false ∧ bit 2 1 = true ∧
       confirmedSlot p = 0 ∧ slotState p 0 = slotConfirmed ∧ bit 0 0 = false ∧ bit 2 0 = false ∧ bit 3 0 = true ∧ bit 3 1 = true ∧ checkWrite p rqC 0x9000 1 5 = .ok ∧ p.upd.trial = false) ∧
    (let p := (on (wr 0x9000 9 1) (tTrial slotTrial true)).part
     serving p ∧ tasc none p.dict = true ∧ tasc none p.effOld = true ∧ p.svc.journal = [] ∧ p.upd.trial = true ∧ slotWith p slotTrial = some 1 ∧ confirmedSlot p = 0 ∧ slotState p 0 = slotConfirmed ∧ quiet p ∧ checkWrite p rqC 0x9000 1 4 = .ok ∧
       confirmable p = true ∧ max p.clk.rp (p.upd.okFrom + 10 * secRp) ≤ windowEndAt p) := by decide +kernel

theorem wit_JournalOfHosts : journalOfHosts tLeaf.part :=
  ⟨fun _ h => absurd h List.not_mem_nil, fun _ _ h => by cases h⟩

/-- A trigger table of 573 words that passes its check: table id 5, a window of one frame, nothing armed. -/
def tTable : List Nat := [0xC0100, 5, 1] ++ List.replicate 569 0 ++ [2 ^ 20 - 0xC0100 - 6]

/-- The table's region, region 5, filled and in use with so many places; the transom stands somewhere. -/
def tTransom (n : Nat) (x : Transom) : State :=
  on (fun p => { p with acq := { p.acq with trans := x }, mem := { p.mem with active := [(0, 5)], places := [(0, freshPlaces p 5 n)], fills := [{ b0 := 7, nb := 1, r0 := 1, n := 36 }] } })
    (put [(0x7030, 1, 5), (0x7005, 1, 7), (0x7005, 2, 1), (0x7005, 3, 1), (0x7005, 4, 36), (0x7005, 5, 1), (0x7005, 6, 3)] tLeaf)

theorem wit_TheTransomInstallsAndReverts :
    let t : Transfer := { rq := rqV, idx := 0x9020, sub := 0, total := 573, words := tTable, last := 50, full := true }
    ∀ l ∈ [[], [{ kind := .completion }], [({ kind := .failure 3 } : ArbReq)]],
    let p := (on (fun p => setTransfer 0 (some t) { p with fab := { p.fab with arb := l.map fun x => (.transfer 0, x) } }) (tTransom 573 {})).part
    serving p ∧ transferOf p 0 = some t ∧ transferOf p 1 = none ∧ journalState p = 0 ∧ arbOf p (.transfer 0) = l ∧ unsettled p (.transfer 0) = l.isEmpty ∧ installCause p tTable = 0 ∧ installCause p [1] ≠ 0 ∧ quiet p ∧
      checkWrite p rqC 0x9021 1 1 = .ok ∧ checkWrite p rqT 0x9021 1 1 = .denied ∧ transomBusy p = false ∧ transomBusy (put [(0x9021, 2, 1)] tLeaf).part = true := by decide +kernel

theorem wit_TransomReadback :
    let p := (tTransom 3 { stage := .writing, image := [3, 0, 4] }).part
    serving p ∧ p.acq.trans.stage = .writing ∧ activeRegion p 0 < 16 ∧ (∀ ok : Bool, (tableStands ok [3, 0, 4] (writeImage (placesOf p 0) ([3, 0, 4].map fw) p)).1 = ok) := by decide +kernel

/-- A Leaf in the last frame of the confirmation window of that table, whose words of zeros come from the region's fill. -/
def tWindow : Part :=
  let p := (tTransom 573 { stage := .window, image := tTable }).part
  [0, 1, 2, 572].foldl (fun q i => poke ((placesOf q 0).getD i 0) { data := BitVec.ofNat 20 (tTable.getD i 0) } q) p

theorem wit_TransomWindow : serving tWindow ∧ tWindow.acq.trans.stage = .window ∧ rd tWindow 0x9021 4 = 0 ∧ windowCause tWindow false ≠ 0 := by decide +kernel

theorem wit_TransomWindowConfirms : let x := tableStands true tTable tWindow; x.1 = true ∧ windowCause x.2 true = 0 := by decide +kernel

/-! ### Witnesses: power and reset -/

/-- A Leaf in a phase of power. -/
def tPhase (x : Phase) : State := on (fun p => { p with pow := { p.pow with phase := x } }) tLeaf

theorem wit_PowerFailsIntoReset :
    (tPhase .running).part.pow.phase = .running ∧ (tPhase .powerFail).part.pow.phase = .powerFail ∧ (tPhase .powerFail).part.pow.bypass = false ∧
      (let p := (on (fun p => { p with pow := { p.pow with bypass := true } }) (tPhase .powerFail)).part
       p.pow.bypass = true ∧ p.pow.phase = .powerFail ∧ tasc none p.dict = true ∧ tasc none p.effOld = true) ∧
      (rd (put [(0x5020, 4, 1)] tLeaf).part 0x5020 4 = 1 ∧ txSt (put [(0x5020, 2, txSend)] tLeaf).part 0 = txSend) := by decide +kernel

theorem wit_ResetReleaseStartsThePart :
    (∀ p ∈ [(tPhase .inReset).part, (put [(slotIdx 1, 1, slotRebuilding)] (tPhase .inReset)).part, (put [(slotIdx 1, 1, slotTrial)] (tPhase .inReset)).part],
     p.pow.phase = .inReset ∧ p.pow.bad = 0 ∧ confirmedSlot p = 0 ∧ slotState p 0 = slotConfirmed ∧ bit 0 0 = false ∧ p.upd.trial = false ∧ p.upd.rebuild = none) ∧
    slotState (tPhase .inReset).part 1 ≠ slotRebuilding ∧ slotState (put [(slotIdx 1, 1, slotRebuilding)] (tPhase .inReset)).part (1 - 0) = slotRebuilding ∧
    (let p := (on (fun p => { p with upd := { p.upd with rebuild := some { vendor := false }, check := some { digest := sha256 p.upd.staged, pos := 64, out := 0, rest := .none, ended := false } } }) (put [(slotIdx 1, 1, slotRebuilding)] (tPhase .inReset))).part
     p.pow.phase = .inReset ∧ confirmedSlot p = 0 ∧ slotState p 0 = slotConfirmed ∧ p.upd.rebuild = some { vendor := false } ∧ p.upd.check = some { digest := sha256 p.upd.staged, pos := 64, out := 0, rest := .none, ended := false }) ∧
    (let p := (on (fun p => { p with upd := { p.upd with trial := true } }) (put [(slotIdx 1, 1, slotTrial)] (tPhase .inReset))).part
     p.pow.phase = .inReset ∧ confirmedSlot p = 0 ∧ slotState p 0 = slotConfirmed ∧ p.upd.trial = true ∧ slotWith p slotTrial = some 1) ∧
    (let p := (put [(0x9000, 0xA, 0xFF), (slotIdx 0, 1, 0)] (tPhase .inReset)).part
     p.pow.phase = .inReset ∧ p.pow.bad = 0 ∧ p.upd.trial = false ∧ slotState p 0 ≠ slotRebuilding ∧ slotState p 1 ≠ slotRebuilding ∧ confirmedSlot p = 0xFF ∧ slotState p 0 ≠ slotConfirmed ∧ p.svc.journal = [] ∧ p.svc.staged = none) ∧
    (let p := (on (fun p => { p with pow := { p.pow with bad := 4 } }) (tPhase .inReset)).part
     p.pow.bad ≠ 0) ∧ tLeaf.part.pow.phase ≠ .inReset := by decide +kernel

/-! ### Witnesses: testing and bypassing in service -/

/-- A Leaf with a test of PRBS7 on lane 1, its checker in a state. -/
def tLaneTest (chk : Nat) : State := put [(0xA011, 3, 0), (0xA011, 6, 1), (0xA011, 5, 10), (0xA011, 0xB, chk)] tLeaf

/-- So many bits of PRBS7, from a register, newest first (R518). -/
def prbs : Nat → List Bool → List Bool
  | 0, _ => []
  | n + 1, r => let b := r.getD 6 false != r.getD 5 false; b :: prbs n ((b :: r).take 7)

def tBits : List Bool := prbs 80 [true, true, true, true, true, true, true]

theorem wit_LaneTestsRun :
    (let p := tLeaf.part
     serving p ∧ quiet p ∧ checkWrite p rqC 0xA011 1 1 = .ok ∧ checkWrite p rqT 0xA011 1 1 = .denied ∧ checkWrite p rqT 0xA011 1 2 = .denied ∧ checkWrite p rqC 0xA011 1 2 = .ok ∧ underTest p 1 = false ∧ testCause p 1 = 0 ∧ testCause (put [(0x5020, 1, laneBypassed)] tLeaf).part 0 ≠ 0 ∧ checkWrite (put [(0x5020, 1, laneBypassed)] tLeaf).part rqC 0xA010 1 1 = .ok) ∧
    (let p := (tLaneTest 1).part
     serving p ∧ underTest p 1 = true ∧ rd p 0xA011 0xB = 1 ∧ (huntBits (patternTaps (rd p 0xA011 3)) [] 0 tBits).isSome ∧ huntBits (patternTaps (rd p 0xA011 3)) [] 0 [true] = none ∧ quiet p ∧
       checkWrite p rqC 0xA011 1 2 = .ok ∧ rd p 0xA011 5 ≠ 0) ∧
    (underTest (tLaneTest 2).part 1 = true ∧ rd (tLaneTest 2).part 0xA011 0xB = 2 ∧
      (countBits (7, 6) { reg := List.replicate 7 false, hist := [] } (List.replicate 31 true)).lost = false ∧
      (countBits (7, 6) { reg := List.replicate 7 false, hist := [] } (List.replicate 32 true)).lost = true) := by decide +kernel

theorem wit_IsolationAndRelease :
    (∀ st ∈ [stTrain, stService, stDown], let p := (put [(0x5100, 1, st)] tLeaf).part
     accepted p rqC 0xA000 1 1 ∧ renew rqC p = p ∧ rd p 0xA000 1 = 0 ∧ isBough p = false ∧ siblingLinks p 0 = [] ∧ linkSt p 0 = st) ∧
    (∀ st ∈ [stIsolated, stDown], let p := (put [(0xA000, 1, 1), (0x5100, 1, st), (0x5100, 2, 1)] tLeaf).part
     accepted p rqC 0xA000 1 0 ∧ accepted p rqC 0xA000 1 1 ∧ rd p 0xA000 1 = 1 ∧ siblingLinks p 0 = [] ∧ linkSt p 0 = st ∧ isoCause p 0 = 1 ∧ allIn p 0 laneReady = false) ∧
    (serving tLeaf.part ∧ checkWrite tLeaf.part rqT 0xA000 1 1 = .denied ∧ checkWrite tLeaf.part rqT 0xA000 1 0 = .denied) := by decide +kernel

theorem wit_SelfTestAndScan :
    (let p := (put [(0xA040, 1, 5)] (tBank 2 tLeaf)).part
     serving p ∧ quiet p ∧ checkWrite p rqC 0xA040 2 1 = .ok ∧ checkWrite p rqT 0xA040 2 1 = .denied ∧ bankStanding p (rd p 0xA040 1) = 2 ∧ bankBusy p = false ∧ bankStanding tLeaf.part 5 ≠ 2 ∧
       bankBusy (on (fun q => { q with mem := { q.mem with test := some 5 } }) tLeaf).part = true) ∧
    (let p := (on (fun q => { q with mem := { q.mem with test := some 5 } }) tFull).part
     live p ∧ p.mem.test = some 5 ∧ live tLeaf.part ∧ tLeaf.part.mem.test = none ∧ [(7, 53), (7, 53)].eraseDups = [(7, 53)]) ∧
    (pinInstruction 4 = true ∧ pinInstruction 1 = false ∧ (tPhase .inReset).part.pow.phase = .inReset ∧ (tPhase .inReset).part.pow.bad = 0 ∧ tLeaf.part.pow.phase ≠ .inReset) ∧
    ((ScanPin.tx 0).drives = true ∧ (ScanPin.tx 0).retimed = true ∧ ScanPin.sbu.drives = true ∧ ScanPin.sbu.retimed = false ∧ ScanPin.ref.drives = false ∧
      bypassOn (on (fun p => { p with pow := { p.pow with bypass := true } }) tLeaf).part = true) ∧
    (let p := (on (fun p => { p with pow := { p.pow with jtag := 3 } }) (tPhase .inReset)).part
     p.pow.jtag = 3 ∧ p.pow.bad = 0 ∧ bypassOn p = false) := by decide +kernel

/-- A cell of a boundary scan: two bits are shifted in, and the levels of the first two pins come out (R525, R527). -/
theorem test_boundary_scan :
    (after (.jtagInstructionUpdate 2 (some { pins := [true, false, true], tdi := [true, true] })) tLeaf).pow.tdo = [true, false] ∧
      (after (.jtagInstructionUpdate 2 (some { pins := [true, false, true], tdi := [true, true] })) tLeaf).pow.hold = true :: List.replicate 71 false ++ [true, true] := by decide +kernel

/-! ### Witnesses: the whole part -/

theorem wit_StepRunsTheFrontCommand :
    tLeaf.pending = [] ∧ alive tLeaf.part = true ∧ (tPhase .inReset).pending = [] ∧ (tPhase .inReset).part.pow.phase = .inReset := by decide +kernel

theorem wit_ResetHoldsThePart :
    (tPhase .inReset).part.pow.phase = .inReset ∧ bypassOn (tPhase .inReset).part = false ∧
      ∀ c ∈ [Instr.trialConfirm, .bypassEngage true rqC, .bypassRelease true rqC], (∀ n, c ≠ .supplyRise n) ∧ (∀ n, c ≠ .supplyFail n) ∧ (∀ a b d e, c ≠ .resetRelease a b d e) ∧
        (∀ o d, c ≠ .jtagInstructionUpdate o d) ∧ c ≠ .testLogicReset := by
  refine ⟨rfl, by decide +kernel, fun c h => ?_⟩
  simp only [List.mem_cons, List.not_mem_nil, or_false] at h
  rcases h with rfl | rfl | rfl <;> simp

theorem wit_StepsKeepTheDictionaryOrdered :
    ordered State.reset.part ∧ journalOfHosts State.reset.part ∧ ∃ t, step { State.reset with pending := [.testLogicReset] } = .next t :=
  ⟨⟨by decide +kernel, by decide +kernel⟩, wit_JournalOfHosts, _, rfl⟩

/-! ### The manual's worked examples -/

/-- "One hit in the notation": IN135, T2, leading, no flags, at 327,680,805,696 tk (00_scope). -/
def wHit : Rec := { n := 135, t := 2, lead := true, flags := 0, stamp := 327680805696 }

theorem test_hit_record : wHit.num = 0x87A04C4B40 ∧ wHit.words = [fw 0x87A04, fw 0xC4B40] ∧ withParity 0x87A04#20 = 0x187A04#21 ∧ withParity 0xC4B40#20 = 0x1C4B40#21 := by
  decide +kernel

/-- "From edge to fragment": the leading and the trailing stamp of IN135 (04_timestamping). -/
theorem test_converter :
    convert 327680804864 6 (rawCode 31 true) 200 (List.replicate 63 0 ++ [16170, 16421]) 42 = 327680805696 ∧
      convert 327680805888 6 (rawCode 19 true) 17 (List.replicate 39 0 ++ [10200, 10460]) 42 = 327680806696 := by decide +kernel

/-- "From edge to fragment": the header and end words of the V3 fragment for frame 39,062 at 3A702h. -/
theorem test_leaf_fragment :
    leafHeader (put [(0x1100, 1, 0x3A702)] tLeaf).part 3 0 0x135 39062 = [fw 0x1C135, fw 0, fw 0, fw 0x09896, fw 0x3A702] ∧
      leafEnd 3 0 39062 0 4 = [fw 0x2C896, fw 0, fw 4] := by decide +kernel

/-- "The first three bins of group G8": 1,048,576 hits, of which codes 0 to 2 count 7,000, 9,500 and 8,100. -/
theorem test_bin_edges : tableFrom [(0, 7000), (1, 9500), (2, 8100)] 1048576 3 0 0 = [0, 219, 516, 769] ∧ widthsOk [0, 219, 516, 769] = true ∧ largestDev [0, 219, 516, 769] = 41 := by
  decide +kernel

/-- "Reading headroom on a Bough": raw 335 with L = 9,216 and with all lanes (02_handshake_core). -/
theorem test_headroom : effHeadroom 335 9216 = 521 ∧ effHeadroom 335 14336 = 335 := by decide +kernel

/-- "An oscillating comparator": IN50's close and reopen markers (03_hit_inputs). -/
theorem test_shutter_markers :
    (({ n := 50, t := 0, lead := true, flags := 4, stamp := 0x403E8 } : Rec).words = [fw 0x32220, fw 0x403E8]) ∧
      ({ n := 50, t := 0, lead := false, flags := 4, stamp := 0x403E8 } : Rec).words = [fw 0x32020, fw 0x403E8] := by decide +kernel

/-- "Matching two signal cables": the statistics of eight intervals (05_interval_unit). -/
theorem test_interval_statistics :
    let iv := [137, 138, 137, 138, 137, 138, 137, 138].foldl ivAccum {}
    iv.s1 = 1100 ∧ iv.s2 = 151252 ∧ (256 * iv.s1 + iv.n / 2) / iv.n = 35200 ∧ ivVariance iv = 16384 ∧ ivDeviation (ivVariance iv) = 128 ∧ iv.mn = 137 ∧ iv.mx = 138 := by
  decide +kernel

/-- The table of the coincidence trigger, by its non-zero words (06_trigger_acquisition). -/
def wCoincidence : List Nat :=
  (List.range 573).map fun i =>
    match [(0, 0xC0100), (1, 0x17), (2, 0x80), (70, 0xFF000), (71, 0xFF), (430, 0x91502), (431, 8), (554, 1), (555, 0x81000), (556, 0xA00), (572, 0x2DE5F)].find? fun x => x.1 == i with
    | some x => x.2
    | none => 0

theorem test_trigger_table : imageOk wCoincidence = true ∧ checkWord (wCoincidence.take 572) = 0x2DE5F := by decide +kernel

/-- "Worked encoding": the merged body of Bough 0A300h for frame 39,063, item by item (08_packed_format). -/
def wMark (a : Nat) : List Nat := toWords 2 ({ ep := 0x35, tier := 3, addr := a } : Mark).word40
def wItems : List (List Nat) :=
  [wMark 0x0A320, [0x11E01, 0x24F80], wMark 0x0A390, toWords 2 0xC8E0124F80, toWords 2 0xC8C012555C, wMark 0x0A320, toWords 2 0x11C0125B38, wMark 0x0A3C0, toWords 2 0x05E04C4B40,
    toWords 2 0x05C04C4EC4]
def wPacked : List Nat := [0xCCD58, 0x51907, 0x124F8, 0x08479, 0x8C964, 0x72177, 0x03085, 0xDC847, 0x18E73, 0x9F008, 0x81790, 0x70800]

theorem test_packed_body : (packBody false (List.replicate 10 2) (wItems.flatten.map fw)).map wv = [0x14, 1, 0xDE1B4, 0xA860A] ++ wPacked := by decide +kernel

theorem test_unpacked_segment : expandCoded false 10 20 (wPacked.map fw) = some ((wItems.map fun i => i.map fw).flatten) := by decide +kernel

/-- "One probe and one update": θ and d, in 1/512 tk, and the servo's p, i and a (12_time). -/
theorem test_probe : probeOffset 327680000000000 327680000017021 327679999950000 327679999966937 (asymmetry 4 16) 0 = (2 * 9472, 2 * 256 * 16979) := by decide +kernel

theorem test_servo_update :
    (9472 * 2 ^ 24 / 14233600 : Int) = 11164 ∧
      (let q := piUpdate 9472 14233600 (setFreq (-1000) tLeaf.part)
       freqEst q = -826 ∧ q.clk.rate = -1965) := by decide +kernel

/-- "A three-wire sensor loses its sense lead": the compensated result and the loop's code (13_housekeeping_front_end). -/
theorem test_lead_compensation : compensated 238128 2 109522 7 = 234705 := by decide +kernel

theorem test_loop_code : loopCode (put [(0x8040, 3, ofI32 5422396), (0x8040, 4, ofI32 9535826)] tLeaf).part 0 7510560 = 30306 := by decide +kernel

/-- "One damaged group set": the NAK of set 7D1h (11_link_protocol). -/
theorem test_nak_word : nakWord 0 0x7D1 = 0xF87D1 ∧ withParity 0xF87D1#20 = 0x0F87D1#21 := by decide +kernel

/-- "A Tenant reads a view's mode at tier 3": the frame is 36 octets with its flag, and reads back (16_service_bus_sessions). -/
def wFrame : Frame := { kind := 0x10, flags := 3, addr := 0x0A3C0, host := 3, sess := 2, body := [0, 0, 0x12, 1, 0x30, 1, 1] ++ List.replicate 16 0 }

theorem test_request_frame : wFrame.octets.length + 1 = 36 ∧ wFrame.head.take 8 = [0x10, 3, 0, 0xA3, 0xC0, 0x32, 0, 0x17] ∧ frameOf wFrame.octets = some wFrame := by decide +kernel

/-- "A tier-1 crown with a silent child": Bough 3A000h's crown, 1,400 ms after D7's last report (15_object_dictionary). -/
def wRep (ago : Nat) (vals : List Nat) : CrownRep := { addr := 0, tier := 2, time := 10 ^ 13 - ago * msTk, vals := vals ++ List.replicate 23 0 }
def wCrown : List Nat :=
  (crownNow (on (fun p =>
    let p := { p with clk := { p.clk with fx := 10 ^ 13 * 2 ^ 32 } }
    keepReport 0 (wRep 40 [1, 0, 0, 0, 0, 521, 0, 0, 9472, 880, 0]) (keepReport 3 (wRep 90 [3, 0, 1, 1, 0, 480, 1, 1, 40000, 970, 3, 0, 0, 70]) (keepReport 7 (wRep 1400 [1]) p)))
    (put [(0x1100, 1, 0x3A000), (0x1100, 2, 1), (0x1200, 2, 512), (0x20D0, 1, 1), (0x6000, 4, 1), (0x6000, 3, 2), (0x6000, 0xA, 2560), (0x1000, 4, 910)] tBough)).part).take 11

theorem test_crown : wCrown = [5, 1, 1, 1, 0, 480, 1, 1, 40000, 970, 3] := by decide +kernel

/-! ### One step of the queue -/

/-- The two commands at the front run in order. -/
theorem test_queue :
    (match step { State.reset with pending := [.testLogicReset, .supplyRise 2] } with | .next t => some t.pending | _ => none) = some [.supplyRise 2] := by decide +kernel

/-! ### Ill-formed commands are refused (WellFormed) -/

theorem smoke_requests :
    ([{ cls := 0 }, { cls := 8 }, { cls := 1, slot := 8 }, { cls := 1, path := 4 }, { cls := 1, seq := 2 ^ 20 }, { cls := 1, sess := some 8 }] : List Rq).all (fun r => !r.wf) = true := by decide +kernel

theorem smoke_origins :
    ([{ via := some 18 }, { host := 256 }, { sess := 16 }, { addr := 2 ^ 20 }, { tier := 256 }] : List Origin).all (fun o => !o.wf) = true ∧
      ([[(2 ^ 24, 0)], [(0, 2 ^ 27)], [(0, 1), (0, 2 ^ 27)]] : List Upsets).all (fun u => !u.wf) = true ∧ (DrScan.mk [] []).wf = false := by decide +kernel

theorem smoke_ptp :
    ([{ kind := .sync, version := 16 }, { kind := .sync, domain := 256 }, { kind := .sync, src := 2 ^ 80 }, { kind := .sync, seq := 65536 }, { kind := .sync, sec := 2 ^ 48 }, { kind := .sync, ns := 10 ^ 9 },
      { kind := .sync, prio1 := 256 }, { kind := .sync, cls := 256 }, { kind := .sync, acc := 256 }, { kind := .sync, var := 65536 }, { kind := .sync, prio2 := 256 }, { kind := .sync, gm := 2 ^ 64 },
      { kind := .sync, steps := 65536 }, { kind := .sync, utc := 65536 }] : List PtpMsg).all (fun m => !m.wf) = true := by decide +kernel

def badRq : Rq := { cls := 0 }

theorem smoke_privileged :
    ([.calibrationStart badRq (.group 0) 1350000, .calibrationAbort badRq (.group 0), .intervalStart badRq, .intervalAbort badRq, .captureAbort badRq 0, .closeRequest badRq 0, .jobAbort badRq 0,
      .regionTableWrite badRq 0 1 0, .regionFillStart badRq 0, .scrubStart badRq 0, .scrubAbort badRq 0 false, .bankWithdraw badRq, .bankReturn badRq, .useRegionName badRq false 0, .laneEnable badRq 0 true,
      .laneSleepRequest badRq 0 0, .sparingMapWrite badRq 0, .bypassEngage false badRq, .bypassRelease false badRq, .ethernetModeWrite badRq 0 0, .retrainRequest badRq 0, .holdLooptimedClear badRq 0,
      .timeSourceWrite badRq 0, .reacquireRequest badRq, .domainSwitchRequest badRq 0] : List Instr).all (fun i => !i.wf) = true := by decide +kernel

theorem smoke_privileged' :
    ([.resultRead badRq 0, .excitationChange badRq 0 0 0, .chainSettingsWrite badRq 0 0 0, .converterStartNow badRq, .converterStartAtCompare badRq, .converterStop badRq, .injectedRequest badRq 0,
      .hkCalibrationRequest badRq 0, .hkCalibrationAbort badRq 0, .dictionaryRead badRq 0 0, .dictionaryWrite badRq 0 0 0, .describe badRq 0 0, .domainReadSegment badRq 0 0 0 0, .domainWriteBegin badRq 0 0 0,
      .domainWriteSegment badRq 0 0 0 [], .domainTransferAbort badRq, .scheduledWrite badRq 0 0 0 0, .closeSession badRq, .sessionCloseWrite badRq 0, .keyWrite badRq 0 0, .rebuildRequest badRq, .rebuildAbort badRq,
      .trialBoot badRq 0 false, .fallbackRequest badRq 0, .clearTrialStatus badRq, .transomRevert badRq, .portIsolate badRq 0, .portRelease badRq 0, .laneTestStart badRq 0, .laneTestStop badRq 0 [],
      .memorySelfTestStart badRq] : List Instr).all (fun i => !i.wf) = true := by decide +kernel

theorem smoke_core_and_front :
    ([.unitTransfer .management [], .headroomWindowEnd (2 ^ 28) 0 0, .headroomWindowEnd 0 256 0, .headroomWindowEnd 0 0 1001, .calibrationStart rqC (.group 0) 0, .calibrationDeferredStart 0, .autoCalibrationTimer 0,
      .triggerRequestReceived 0 false (2 ^ 80) 0 0 0, .triggerRequestReceived 0 false 0 8 0 0,
      .triggerRequestReceived 0 false 0 0 16 0, .triggerRequestReceived 0 false 0 0 0 (2 ^ 20), .triggerCommandReceived 0 false (2 ^ 80) 0 0 0 0, .triggerCommandReceived 0 false 0 (2 ^ 40) 0 0 0,
      .triggerCommandReceived 0 false 0 0 16 0 0, .triggerCommandReceived 0 false 0 0 0 16 0, .triggerCommandReceived 0 false 0 0 0 0 (2 ^ 20), .regionTableWrite rqC 0 0 0, .regionTableWrite rqC 0 6 0, .regionTableWrite rqC 0 1 (2 ^ 20), 
      .memoryRead .management (2 ^ 24) false [], .memoryRead .management 0 true [(0, 2 ^ 27)], .memoryWrite (2 ^ 24) (.word { src := .management, unit := 0, seen := 0 }) [],
      .memoryWrite 0 (.word { src := .management, unit := 0, seen := 0 }) [(2 ^ 24, 0)], .scrubUnit 0 [(0, 2 ^ 27)], .useRegionName rqC false 256] : List Instr).all (fun i => !i.wf) = true := by decide +kernel

theorem smoke_lanes_and_links :
    ([.equaliserScanDone 0 [(2 ^ 20, 0)], .equaliserScanDone 0 [(0, 2 ^ 20)], .trainingAnnounce 0 [2 ^ 20], .trainingPropose 0 [2 ^ 20], .trainingSwitch 0 [2 ^ 20],
      .trainingDone 0 [2 ^ 20], .trainingAcknowledge 0 [2 ^ 20], .laneSleepRequest rqC 0 256, .sparingMapWrite rqC 65536, .ethernetModeWrite rqC 0 256, .ackReceived 0 4096, .nakReceived 0 0 4096,
      .replayReceived 0 7 0 0, .replayReceived 0 0 4096 0, .replayReceived 0 0 0 2048, .markerGroupSent 0 0 (2 ^ 60) 0 false, .creditReturnReceived 0 16 [], .creditReturnReceived 0 0 [2 ^ 32], .helloReceived 0 [2 ^ 20],
      .assignReceived 0 0 [2 ^ 20], .groupSetReceived 0 0 [513], .timeProbeReceived 0 false [2 ^ 20]] : List Instr).all (fun i => !i.wf) = true := by decide +kernel

theorem smoke_time_and_housekeeping :
    ([.timeSourceWrite rqC 256, .ptpMessageReceived 0 0 { kind := .sync, version := 16 } 0 false 0 0 false, .ptpMessageReceived 0 0 { kind := .sync } 0 false (2 ^ 20) 0 false, .domainSwitchRequest rqC 256,
      .arpRequest 0 true (2 ^ 32) 0, .arpRequest 0 true 0 (2 ^ 32), .excitationChange rqC 65536 0 0, .excitationChange rqC 0 256 0, .excitationChange rqC 0 0 (2 ^ 20), .chainSettingsWrite rqC 0 256 0,
      .chainSettingsWrite rqC 0 0 (2 ^ 20), .loopCurrentCheck 0 65536, .hkCalibrationComplete 0 [], .hkCalibrationComplete 0 (List.replicate 16 [])] : List Instr).all (fun i => !i.wf) = true := by decide +kernel

theorem smoke_dictionary :
    ([.dictionaryRead rqC 65536 0, .dictionaryRead rqC 0 256, .dictionaryWrite rqC 65536 0 0, .dictionaryWrite rqC 0 256 0, .dictionaryWrite rqC 0 0 (2 ^ 256), .describe rqC 65536 0, .describe rqC 0 256,
      .domainReadSegment rqC 65536 0 0 0, .domainReadSegment rqC 0 256 0 0, .domainReadSegment rqC 0 0 (2 ^ 20) 0, .domainReadSegment rqC 0 0 0 (2 ^ 20), .domainWriteBegin rqC 65536 0 0, .domainWriteBegin rqC 0 256 0,
      .domainWriteBegin rqC 0 0 (2 ^ 20), .domainWriteSegment rqC 65536 0 0 [], .domainWriteSegment rqC 0 256 0 [], .domainWriteSegment rqC 0 0 (2 ^ 20) [], .domainWriteSegment rqC 0 0 0 [2 ^ 20],
      .scheduledWrite rqC 65536 0 0 0, .scheduledWrite rqC 0 256 0 0, .scheduledWrite rqC 0 0 (2 ^ 80) 0, .scheduledWrite rqC 0 0 0 (2 ^ 256), .broadcast none [256], .summaryReceived 0 [256],
      .crownReceived 0 256 0 0 [], .crownReceived 0 0 (2 ^ 20) 0 [], .crownReceived 0 0 0 (2 ^ 80) [], .crownReceived 0 0 0 0 [2 ^ 20], .healthEvaluation (2 ^ 20)] : List Instr).all (fun i => !i.wf) = true := by decide +kernel

theorem smoke_bus_and_updates :
    ([.busFrameReceived none [256], .upwardFrame none [256], .poll { host := 256 }, .managementPacket 0 false [2 ^ 20], .discover { host := 256 }, .openSession { host := 256 } 0 (List.replicate 16 0),
      .openSession {} 16 (List.replicate 16 0), .openSession {} 0 [], .openSession {} 0 (List.replicate 16 256), .prove { host := 256 } 0 0 (List.replicate 32 0), .prove {} 16 0 (List.replicate 32 0), .prove {} 0 0 [],
      .prove {} 0 0 (List.replicate 32 256), .keyWrite rqC 0 (2 ^ 256), .trialBoot rqC 4 false, .fallbackRequest rqC 4, .healthWindowEnd 4, .resetRelease 0 false 4 true, .jtagInstructionUpdate 0 (some { pins := [], tdi := [] }), .memorySelfTestDone [(32768, 0)],
      .memorySelfTestDone [(0, 54)]] : List Instr).all (fun i => !i.wf) = true := by decide +kernel

/-- Commands in their fields are well formed. -/
theorem smoke_well_formed :
    ([.unitTransfer .management [{ src := .bankPort 255, unit := 0, seen := 0 }], .intervalStart rqC, .memoryRead (.islandFifo 17) (2 ^ 24 - 1) true [(2 ^ 24 - 1, 2 ^ 27 - 1)], .nakReceived 17 6 4095,
      .jtagInstructionUpdate 255 (some { pins := List.replicate 74 true, tdi := [] }),  .dictionaryWrite rqC 0xFFFF 255 (2 ^ 256 - 1), .openSession {} 0 (List.replicate 16 255),
      .prove {} 0 0 (List.replicate 32 255), .hkCalibrationComplete 0 (List.replicate 16 (List.replicate 16 0))] : List Instr).all Instr.wf = true := by decide +kernel

end Sys2Proof.Tests
end

/-! What a run of writes of entries leaves alone: the frames of single entries. -/
namespace Sys2Proof.Machine

/-- A counter after one count, and every other entry as before. -/
theorem rd_bump {i a j b : Nat} (p : Part) (ha : a < 256) (hb : b < 256) :
    rd (bump i a p) j b = if j = i ∧ b = a then satInc (rd p i a) else rd p j b := rd_wr _ p ha hb

theorem rd_onlyIf (c : Bool) (f : Part → Part) (p : Part) (i a : Nat) :
    rd (onlyIf c f p) i a = if c then rd (f p) i a else rd p i a := by cases c <;> rfl

theorem otherEntries_of_rd {p q : Part} (h : ∀ i a, rd q i a = rd p i a) (l : List (Nat × Nat)) : otherEntries l p q :=
  fun i a _ _ => h i a

theorem otherEntries.trans {l : List (Nat × Nat)} {p q r : Part} (h : otherEntries l p q) (g : otherEntries l q r) :
    otherEntries l p r := fun i a ha hn => (g i a ha hn).trans (h i a ha hn)

theorem otherEntries_wr {l : List (Nat × Nat)} {i a : Nat} (v : Nat) (p : Part) (hm : (i, a) ∈ l) (ha : a < 256) :
    otherEntries l p (wr i a v p) := by
  intro j b hb hn
  refine rd_wr_ne v p fun hk => hn ?_
  obtain ⟨rfl, rfl⟩ := (ekey_inj hb ha).1 hk
  exact hm

theorem onlyEntries_refl (l : List (Nat × Nat)) (p : Part) : onlyEntries l p p := ⟨rfl, fun _ _ _ _ => rfl⟩

theorem onlyEntries.trans {l : List (Nat × Nat)} {p q r : Part} (h : onlyEntries l p q) (g : onlyEntries l q r) :
    onlyEntries l p r := by
  obtain ⟨hq, ho⟩ := h
  obtain ⟨hr, go⟩ := g
  refine ⟨?_, ho.trans go⟩
  rw [hr, hq]

/-- Placing a value in a listed entry changes nothing but listed entries. -/
theorem onlyEntries.wrote {l : List (Nat × Nat)} {p q : Part} (h : onlyEntries l p q) {i a : Nat} (v : Nat)
    (hm : (i, a) ∈ l) (ha : a < 256) : onlyEntries l p (wr i a v q) := h.trans ⟨rfl, otherEntries_wr v q hm ha⟩

/-- Counting in a listed entry changes nothing but listed entries. -/
theorem onlyEntries.counted {l : List (Nat × Nat)} {p q : Part} (h : onlyEntries l p q) {i a : Nat}
    (hm : (i, a) ∈ l) (ha : a < 256) : onlyEntries l p (bump i a q) := h.wrote _ hm ha

/-- Counting several times in a listed entry changes nothing but listed entries. -/
theorem onlyEntries.countedBy {l : List (Nat × Nat)} {p q : Part} (h : onlyEntries l p q) (k : Nat) {i a : Nat}
    (hm : (i, a) ∈ l) (ha : a < 256) : onlyEntries l p (bumpBy k i a q) := by
  unfold bumpBy
  split
  · exact h
  · exact h.wrote _ hm ha

theorem onlyEntries.mono {l m : List (Nat × Nat)} {p q : Part} (h : onlyEntries l p q) (hlm : l ⊆ m) : onlyEntries m p q :=
  ⟨h.1, fun i a ha hn => h.2 i a ha fun hm => hn (hlm hm)⟩

theorem onlyEntries.fab {l : List (Nat × Nat)} {p q : Part} (h : onlyEntries l p q) : q.fab = p.fab := by rw [h.1]

end Sys2Proof.Machine

/-! R55 to R57: the end of a headroom window. -/
namespace Sys2Proof.Machine

@[simp] theorem rd_advanceRp (n : Nat) (p : Part) (i a : Nat) : rd (advanceRp n p) i a = rd p i a :=
  rd_congr rfl rfl i a

/-- A window's end moves the clock to that end, and then changes nothing but the figures it reports. -/
theorem headroomWindow_onlyEntries (h b o : Nat) (p : Part) :
    onlyEntries [(0x1200, 1), (0x1200, 2), (0x1200, 3), (0x1200, 5), (0x7060, 1), (0x7060, 2), (0x7060, 3)]
      (advanceRp ((p.clk.rp / msRp + 1) * msRp) p) (headroomWindow h b o p) := by
  unfold headroomWindow
  refine onlyIf_keeps _ _ _ _ (.wrote (.wrote ?warned _ ?_ ?_) _ ?_ ?_) fun hk => hk.counted ?_ ?_
  case warned =>
    refine onlyIf_keeps _ _ _ _ (.wrote (.wrote (.wrote (onlyEntries_refl _ _) _ ?_ ?_) _ ?_ ?_) _ ?_ ?_) fun hk => hk.counted ?_ ?_
    all_goals simp
  all_goals simp

/-- What changes nothing but entries after time has passed changes nothing but entries and the clock. -/
theorem onlyEntries.after_advanceRp {l : List (Nat × Nat)} {n : Nat} {p q : Part} (h : onlyEntries l (advanceRp n p) q) :
    q = { p with dict := q.dict, clk := q.clk } ∧ otherEntries l p q := by
  obtain ⟨hq, ho⟩ := h
  refine ⟨?_, ho⟩
  rw [hq]
  rfl

/-- Settles O2: each figure is read back from the writes of the window's end, and its frame is theirs. -/
theorem headroomWindowReports : Obligations.HeadroomWindowReports := by
  intro s h b o e ⟨ha, hr⟩ hh he
  have hH : min h q20Max = h := by unfold q20Max; omega
  have hE : effHeadroom h (rd s.part 0x1200 6) = e := by rw [he, effHeadroom, q20Max]
  have hO : 950 ≤ min o 1000 ↔ 950 ≤ o := by omega
  obtain ⟨hq, hother⟩ := (headroomWindow_onlyEntries h b o s.part).after_advanceRp
  refine ⟨_, run_live ha hr, ?_, ?_, ?_, ?_, ?_, ?_, ?_, ?_, hother⟩
  · exact hq
  all_goals simp [headroomWindow, rd_onlyIf, rd_wr, rd_bump, hH, hE, ↓hO]

end Sys2Proof.Machine

/-! R43 to R49: transfers on the fabric, and the order in which a receiver grants its paths. -/
namespace Sys2Proof.Machine

/-! ### One transfer -/

section
variable (src : Block) (unit : Unit21) {seen again : Unit21} (p : Part)

theorem transfer_poisoned : transfer ⟨src, unit, .poisoned, seen, again⟩ p = delivered src unit .poisoned [true] p := rfl

theorem transfer_normal_ok (h : evenParity seen = true) :
    transfer ⟨src, unit, .normal, seen, again⟩ p = delivered src seen .normal [true] p := by
  simp [transfer, accepts, h]

theorem transfer_normal_repeated (h : evenParity seen = false) (h' : evenParity again = true) :
    transfer ⟨src, unit, .normal, seen, again⟩ p =
      delivered src again .replayed [false, true] (bump 0x1220 2 (bump 0x1220 1 p)) := by
  simp [transfer, accepts, h, h']

theorem transfer_normal_lost (h : evenParity seen = false) (h' : evenParity again = false) :
    transfer ⟨src, unit, .normal, seen, again⟩ p = poisonAt src [false, false] (bump 0x1220 1 (bump 0x1220 1 p)) := by
  simp [transfer, accepts, h, h']

theorem transfer_replayed_ok (h : evenParity seen = true) :
    transfer ⟨src, unit, .replayed, seen, again⟩ p = delivered src seen .replayed [true] (bump 0x1220 2 p) := by
  simp [transfer, accepts, h]

theorem transfer_replayed_lost (h : evenParity seen = false) :
    transfer ⟨src, unit, .replayed, seen, again⟩ p = poisonAt src [false] (bump 0x1220 1 p) := by
  simp [transfer, accepts, h]

end

/-- The entries a transfer can change: the counts of 1220h, and the source and time of the last unit lost. -/
def transferEntries : List (Nat × Nat) := [(0x1220, 1), (0x1220, 2), (0x1220, 3), (0x1220, 4), (0x1220, 5)]

/-- The part once the loss of a unit is counted and its source and time are recorded (R48). -/
def lossLogged (src : Block) (p : Part) : Part := wr 0x1220 5 (now p) (wr 0x1220 4 (blockCode src) (bump 0x1220 3 p))

theorem poisonAt_eq (src : Block) (answers : List Bool) (p : Part) :
    poisonAt src answers p = delivered src (BitVec.allOnes 21) .poisoned (answers ++ [true]) (lossLogged src p) := rfl

theorem onlyEntries.lossLogged {l : List (Nat × Nat)} {p q : Part} (h : onlyEntries l p q) (src : Block)
    (h3 : (0x1220, 3) ∈ l) (h4 : (0x1220, 4) ∈ l) (h5 : (0x1220, 5) ∈ l) : onlyEntries l p (lossLogged src q) :=
  ((h.counted h3 (by simp)).wrote _ h4 (by simp)).wrote _ h5 (by simp)

theorem rd_lossLogged (src : Block) (p : Part) (i : Nat) {a : Nat} (ha : a < 256) :
    rd (lossLogged src p) i a =
      if i = 0x1220 ∧ a = 5 then now p
      else if i = 0x1220 ∧ a = 4 then blockCode src
      else if i = 0x1220 ∧ a = 3 then satInc (rd p 0x1220 3) else rd p i a := by
  simp [lossLogged, rd_wr, rd_bump, ha]

theorem onlyEntries.now_eq {l : List (Nat × Nat)} {p q : Part} (h : onlyEntries l p q) : now q = now p := by rw [h.1]; rfl

/-- All that a transfer can do: write entries of 1220h, and end with what its receiver holds. -/
theorem transfer_eq_delivered (x : Present) (p : Part) :
    ∃ q u t as, onlyEntries transferEntries p q ∧ transfer x p = delivered x.src u t as q := by
  have h0 := onlyEntries_refl transferEntries p
  have h1 : ∀ {q}, onlyEntries transferEntries p q → onlyEntries transferEntries p (bump 0x1220 1 q) :=
    fun h => h.counted (by simp [transferEntries]) (by simp)
  have h2 : ∀ {q}, onlyEntries transferEntries p q → onlyEntries transferEntries p (bump 0x1220 2 q) :=
    fun h => h.counted (by simp [transferEntries]) (by simp)
  have hlost : ∀ {q}, onlyEntries transferEntries p q → onlyEntries transferEntries p (lossLogged x.src q) :=
    fun h => h.lossLogged _ (by simp [transferEntries]) (by simp [transferEntries]) (by simp [transferEntries])
  unfold transfer
  split
  · exact ⟨_, _, _, _, h0, rfl⟩
  · split
    · exact ⟨_, _, _, _, h2 h0, rfl⟩
    · exact ⟨_, _, _, _, hlost (h1 h0), poisonAt_eq ..⟩
  · split
    · exact ⟨_, _, _, _, h0, rfl⟩
    · dsimp only
      split
      · exact ⟨_, _, _, _, h2 (h1 h0), rfl⟩
      · exact ⟨_, _, _, _, hlost (h1 (h1 h0)), poisonAt_eq ..⟩

/-! ### One grant -/

/-- One grant: the transfer of the path granted, which is then the path granted last. -/
def granted (dst : Block) (x : Present) (p : Part) : Part :=
  { transfer x p with fab := { (transfer x p).fab with turns := tput 0 (transfer x p).fab.turns (blockCode dst) (blockCode x.src) } }

/-- A grant changes the entries its transfer writes, the transfers and the turns. -/
theorem granted_of_delivered {l : List (Nat × Nat)} {x : Present} {p q : Part} {u : Unit21} {t : Tag} {as : List Bool}
    (hq : onlyEntries l p q) (h : transfer x p = delivered x.src u t as q) (dst : Block) :
    granted dst x p = { p with
      dict := q.dict, fab := { p.fab with
        xfers := p.fab.xfers ++ [⟨x.src, u, t, as⟩], turns := tput 0 p.fab.turns (blockCode dst) (blockCode x.src) } } := by
  obtain ⟨hd, -⟩ := hq
  generalize q.dict = d at *
  subst hd
  rw [granted, h]
  rfl

/-- What the receiver holds of a grant is the last transfer, and its path is the one granted last. -/
theorem granted_frame (dst : Block) (x : Present) (p : Part) :
    ∃ d u t as, granted dst x p = { p with
      dict := d, fab := { p.fab with
        xfers := p.fab.xfers ++ [⟨x.src, u, t, as⟩], turns := tput 0 p.fab.turns (blockCode dst) (blockCode x.src) } } :=
  have ⟨q, u, t, as, hq, h⟩ := transfer_eq_delivered x p
  ⟨q.dict, u, t, as, granted_of_delivered hq h dst⟩

/-- The part as a new presentation finds it: with no transfers yet. -/
def cleared (p : Part) : Part := { p with fab := { p.fab with xfers := [] } }

@[simp] theorem rd_cleared (p : Part) (i a : Nat) : rd (cleared p) i a = rd p i a := rd_congr rfl rfl i a

@[simp] theorem now_cleared (p : Part) : now (cleared p) = now p := rfl

theorem present_eq (dst : Block) (l : List Present) (p : Part) : present dst l p = grantAll dst l.length l (cleared p) := rfl

/-- A single path that presents a unit is granted, and the receiver holds what its transfer delivers. -/
theorem unitTransfer_single {l : List (Nat × Nat)} {s : State} {x : Present} {q : Part} {u : Unit21} {t : Tag} {as : List Bool}
    (hs : live s.part) (dst : Block) (hq : onlyEntries l (cleared s.part) q)
    (h : transfer x (cleared s.part) = delivered x.src u t as q) :
    ∃ r, exec (.unitTransfer dst [x]) s = .next { s with part := r } ∧
      r = { s.part with dict := r.dict, fab := { s.part.fab with xfers := [⟨x.src, u, t, as⟩], turns := r.fab.turns } } ∧
      r.dict = q.dict ∧ (∀ i a, rd r i a = rd q i a) ∧ otherEntries l s.part r := by
  have e := granted_of_delivered hq h dst
  obtain ⟨hd, ho⟩ := hq
  have hrd : ∀ i a, rd (granted dst x (cleared s.part)) i a = rd q i a :=
    fun i a => rd_congr (by rw [e]) (by rw [e, hd]) i a
  refine ⟨granted dst x (cleared s.part), run_live hs.1 hs.2, ?_, by rw [e], hrd, fun i a ha hn => (hrd i a).trans (ho i a ha hn)⟩
  rw [e]
  rfl

/-- A unit that its single path loses twice is counted as poisoned, with its source and time (R48). -/
theorem unitTransfer_lost {s : State} {x : Present} {b : Part} {as : List Bool} (hs : live s.part) (dst : Block)
    (hb : onlyEntries [(0x1220, 1)] (cleared s.part) b) (h : transfer x (cleared s.part) = poisonAt x.src as b) :
    ∃ r, exec (.unitTransfer dst [x]) s = .next { s with part := r } ∧
      r = { s.part with
        dict := r.dict, fab := { s.part.fab with
          xfers := [⟨x.src, BitVec.allOnes 21, .poisoned, as ++ [true]⟩], turns := r.fab.turns } } ∧
      rd r 0x1220 1 = rd b 0x1220 1 ∧ rd r 0x1220 3 = satInc (rd s.part 0x1220 3) ∧
      rd r 0x1220 4 = blockCode x.src ∧ rd r 0x1220 5 = now s.part ∧
      otherEntries [(0x1220, 1), (0x1220, 3), (0x1220, 4), (0x1220, 5)] s.part r := by
  have hl : onlyEntries [(0x1220, 1), (0x1220, 3), (0x1220, 4), (0x1220, 5)] (cleared s.part) (lossLogged x.src b) :=
    (hb.mono (by simp)).lossLogged _ (by simp) (by simp) (by simp)
  have h3 : rd b 0x1220 3 = rd s.part 0x1220 3 := hb.2 _ _ (by simp) (by simp)
  obtain ⟨r, hx, hr, -, hrd, ho⟩ := unitTransfer_single hs dst hl (h.trans (poisonAt_eq ..))
  exact ⟨r, hx, hr, by simp [hrd, rd_lossLogged], by simp [hrd, rd_lossLogged, h3], by simp [hrd, rd_lossLogged],
    by simp [hrd, rd_lossLogged, hb.now_eq], ho⟩

/-! ### The order of the grants (R45) -/

theorem nextGrant_eq_none {last : Nat} {l : List Present} : nextGrant last l = none ↔ l = [] := by
  cases l with
  | nil => simp [nextGrant]
  | cons x l =>
    simp only [nextGrant]
    split
    · simp
    · split <;> simp

/-- The path granted and those still waiting are the paths that requested. -/
theorem nextGrant_perm {last : Nat} {l r : List Present} {y : Present} (h : nextGrant last l = some (y, r)) :
    List.Perm l (y :: r) := by
  induction l generalizing y r with
  | nil => simp [nextGrant] at h
  | cons x l ih =>
    simp only [nextGrant] at h
    split at h
    next hn =>
      obtain ⟨rfl, rfl⟩ : x = y ∧ [] = r := by simpa using h
      rw [nextGrant_eq_none.1 hn]
    next z t hz =>
      split at h
      · obtain ⟨rfl, rfl⟩ : z = y ∧ x :: t = r := by simpa using h
        exact ((ih hz).cons x).trans (.swap ..)
      · obtain ⟨rfl, rfl⟩ : x = y ∧ l = r := by simpa using h
        exact .refl _

/-- No path that requests stands before the path granted. -/
theorem nextGrant_first {last : Nat} {l r : List Present} {y : Present} (h : nextGrant last l = some (y, r)) :
    ∀ z ∈ l, turnOf last y ≤ turnOf last z := by
  induction l generalizing y r with
  | nil => simp
  | cons x l ih =>
    simp only [nextGrant] at h
    split at h
    next hn =>
      obtain ⟨rfl, -⟩ : x = y ∧ [] = r := by simpa using h
      simp [nextGrant_eq_none.1 hn]
    next w t hw =>
      have hl := ih hw
      split at h
      next hlt =>
        obtain ⟨rfl, -⟩ : w = y ∧ x :: t = r := by simpa using h
        exact List.forall_mem_cons.2 ⟨Nat.le_of_lt hlt, hl⟩
      next hge =>
        obtain ⟨rfl, -⟩ : x = y ∧ l = r := by simpa using h
        exact List.forall_mem_cons.2 ⟨Nat.le_refl _, fun z hz => Nat.le_trans (Nat.not_lt.1 hge) (hl z hz)⟩

theorem grantAll_succ {dst : Block} {n : Nat} {l r : List Present} {x : Present} {p : Part}
    (h : nextGrant (tget 0 p.fab.turns (blockCode dst)) l = some (x, r)) :
    grantAll dst (n + 1) l p = grantAll dst n r (granted dst x p) := by
  rw [grantAll, h]
  rfl

/-- What each grant keeps, the run of grants keeps. -/
theorem grantAll_keeps {dst : Block} (P : Part → Prop) (hg : ∀ x q, P q → P (granted dst x q)) (n : Nat)
    (l : List Present) {p : Part} (hp : P p) : P (grantAll dst n l p) := by
  induction n generalizing l p with
  | zero => exact hp
  | succ n ih =>
    cases h : nextGrant (tget 0 p.fab.turns (blockCode dst)) l with
    | none => rwa [grantAll, h]
    | some xr =>
      rw [grantAll_succ h]
      exact ih xr.2 (hg xr.1 p hp)

/-- Every path that requests is granted once. -/
theorem grantAll_xfers (dst : Block) {l : List Present} {n : Nat} (hn : n = l.length) (p : Part) :
    ∃ ys, (grantAll dst n l p).fab.xfers = p.fab.xfers ++ ys ∧ List.Perm (ys.map (·.src)) (l.map (·.src)) := by
  induction n generalizing l p with
  | zero =>
    obtain rfl := List.length_eq_zero_iff.1 hn.symm
    exact ⟨[], by simp [grantAll], .refl _⟩
  | succ n ih =>
    cases h : nextGrant (tget 0 p.fab.turns (blockCode dst)) l with
    | none => simp [nextGrant_eq_none.1 h] at hn
    | some xr =>
      obtain ⟨x, r⟩ := xr
      have hp := nextGrant_perm h
      have hlen : n = r.length := by simpa [← hn] using hp.length_eq
      obtain ⟨ys, hys, hperm⟩ := ih hlen (granted dst x p)
      obtain ⟨d, u, t, as, hx⟩ := granted_frame dst x p
      refine ⟨⟨x.src, u, t, as⟩ :: ys, ?_, (hperm.cons x.src).trans (hp.map _).symm⟩
      rw [grantAll_succ h, hys, hx]
      simp

/-- The first path granted is the first in the rotating order. -/
theorem present_head {dst : Block} {l : List Present} (hl : l ≠ []) (p : Part) :
    ∃ y, (present dst l p).fab.xfers.head? = some y ∧
      ∀ z ∈ l, turnOf (tget 0 p.fab.turns (blockCode dst)) ⟨y.src, 0, .normal, 0, 0⟩ ≤
        turnOf (tget 0 p.fab.turns (blockCode dst)) z := by
  cases h : nextGrant (tget 0 (cleared p).fab.turns (blockCode dst)) l with
  | none => exact absurd (nextGrant_eq_none.1 h) hl
  | some xr =>
    obtain ⟨x, r⟩ := xr
    have hlen : l.length = r.length + 1 := (nextGrant_perm h).length_eq
    obtain ⟨ys, hys, -⟩ := grantAll_xfers dst rfl (l := r) (granted dst x (cleared p))
    obtain ⟨d, u, t, as, hx⟩ := granted_frame dst x (cleared p)
    refine ⟨⟨x.src, u, t, as⟩, ?_, fun z hz => nextGrant_first h z hz⟩
    rw [present_eq, hlen, grantAll_succ h, hys, hx]
    rfl

/-- Grants change nothing but entries, the transfers and the turns. -/
theorem present_frame (dst : Block) (l : List Present) (p : Part) :
    present dst l p = { p with
      dict := (present dst l p).dict,
      fab := { p.fab with xfers := (present dst l p).fab.xfers, turns := (present dst l p).fab.turns } } := by
  refine grantAll_keeps (fun q => q = { p with dict := q.dict, fab := { p.fab with xfers := q.fab.xfers, turns := q.fab.turns } })
    (fun x q hq => ?_) l.length l rfl
  obtain ⟨d, u, t, as, hx⟩ := granted_frame dst x q
  rw [hx, hq]

/-- After the grants the path granted last is that of the last transfer. -/
theorem present_last (dst : Block) (l : List Present) (p : Part) :
    ∀ y, (present dst l p).fab.xfers.getLast? = some y → tget 0 (present dst l p).fab.turns (blockCode dst) = blockCode y.src := by
  refine grantAll_keeps (fun q => ∀ y, q.fab.xfers.getLast? = some y → tget 0 q.fab.turns (blockCode dst) = blockCode y.src)
    (fun x q _ y hy => ?_) l.length l (by simp)
  obtain ⟨d, u, t, as, hx⟩ := granted_frame dst x q
  rw [hx] at hy ⊢
  obtain rfl : ⟨x.src, u, t, as⟩ = y := by simpa using hy
  simp

/-- Settles O1: the cases of one transfer, and the order of the grants. -/
theorem transfersAreCheckedTwice : Obligations.TransfersAreCheckedTwice := by
  refine ⟨fun s dst src unit seen again hs => ⟨fun h => ?_, fun h h' => ?_, fun h => ?_⟩,
    fun s dst src unit seen again hs => ⟨fun h h' => ?_, fun h => ?_, ?_⟩, fun s dst reqs hs => ?_⟩
  · obtain ⟨r, hx, hr, hd, -⟩ := unitTransfer_single hs dst (onlyEntries_refl [] _) (transfer_normal_ok src unit _ h)
    exact ⟨r, hx, by rwa [hd] at hr⟩
  · have hq : onlyEntries [(0x1220, 1), (0x1220, 2)] (cleared s.part) (bump 0x1220 2 (bump 0x1220 1 (cleared s.part))) :=
      ((onlyEntries_refl _ _).counted (by simp) (by simp)).counted (by simp) (by simp)
    obtain ⟨r, hx, hr, -, hrd, ho⟩ := unitTransfer_single hs dst hq (transfer_normal_repeated src unit _ h h')
    exact ⟨r, hx, hr, by simp [hrd, rd_bump], by simp [hrd, rd_bump], ho⟩
  · have hq : onlyEntries [(0x1220, 2)] (cleared s.part) (bump 0x1220 2 (cleared s.part)) :=
      (onlyEntries_refl _ _).counted (by simp) (by simp)
    obtain ⟨r, hx, hr, -, hrd, ho⟩ := unitTransfer_single hs dst hq (transfer_replayed_ok src unit _ h)
    exact ⟨r, hx, hr, by simp [hrd], ho⟩
  · obtain ⟨r, hx, hr, h1, hrest⟩ := unitTransfer_lost hs dst
      (((onlyEntries_refl _ _).counted (by simp) (by simp)).counted (by simp) (by simp)) (transfer_normal_lost src unit _ h h')
    exact ⟨r, hx, hr, by simp [h1], hrest⟩
  · obtain ⟨r, hx, hr, h1, hrest⟩ := unitTransfer_lost hs dst
      ((onlyEntries_refl _ _).counted (by simp) (by simp)) (transfer_replayed_lost src unit _ h)
    exact ⟨r, hx, hr, by simp [h1], hrest⟩
  · obtain ⟨r, hx, hr, hd, -⟩ := unitTransfer_single hs dst (onlyEntries_refl [] _) (transfer_poisoned src unit _)
    exact ⟨r, hx, by rwa [hd] at hr⟩
  · obtain ⟨ys, hys, hperm⟩ := grantAll_xfers dst (rfl : reqs.length = _) (cleared s.part)
    refine ⟨present dst reqs s.part, run_live hs.1 hs.2, present_frame .., ?_, ?_, present_last _ _ _⟩
    · rw [present_eq, hys]
      exact hperm
    · rintro x l rfl
      exact present_head (by simp) _

end Sys2Proof.Machine

/-! R62 and R63: the pointers of an island FIFO and their Gray-coded copies. -/
namespace Sys2Proof.Machine

theorem foldl_gray (n m : Nat) : (List.range m).foldl (fun a i => a ^^^ (gray n >>> i)) 0 = n ^^^ (n >>> m) := by
  induction m with
  | zero => simp
  | succ m ih =>
    rw [List.range_succ, List.foldl_append, ih]
    simp only [List.foldl_cons, List.foldl_nil, gray, Nat.shiftRight_xor_distrib, ← Nat.shiftRight_add, Nat.add_comm 1 m]
    rw [Nat.xor_assoc, ← Nat.xor_assoc (n >>> m), Nat.xor_self, Nat.zero_xor]

/-- Gray code read back gives the number. -/
theorem ungray_gray {k n : Nat} (h : n < 2 ^ (k + 1)) : ungray k (gray n) = n := by
  rw [ungray, foldl_gray, Nat.shiftRight_eq_div_pow, Nat.div_eq_of_lt h, Nat.xor_zero]

theorem ptrOf_gray {f : FifoId} {n : Nat} (h : n < 2 * fifoDepth f) : ptrOf f (gray n) = n :=
  ungray_gray (Nat.lt_trans h Nat.lt_log2_self)

theorem fifoDepth_pos (f : FifoId) : 0 < fifoDepth f := by
  cases f with
  | dictRx | dictTx => exact Nat.two_pow_pos _
  | _ => simp [fifoDepth]

theorem ptrOf_zero (f : FifoId) : ptrOf f 0 = 0 :=
  ptrOf_gray (n := 0) (by have := fifoDepth_pos f; omega)

section
variable {f : FifoId} {a b c : Nat}

theorem ptrUp_cases (ha : a < 2 * fifoDepth f) :
    (a + 1 < 2 * fifoDepth f ∧ ptrUp f a = a + 1) ∨ (a + 1 = 2 * fifoDepth f ∧ ptrUp f a = 0) := by
  rcases Nat.lt_or_eq_of_le (Nat.succ_le_of_lt ha) with h | h
  · exact .inl ⟨h, Nat.mod_eq_of_lt h⟩
  · exact .inr ⟨h, (congrArg (· % _) h).trans (Nat.mod_self _)⟩

/-- A pointer is ahead of another on the same turn of the circle or on the next. -/
theorem ptrGap_cases (ha : a < 2 * fifoDepth f) (hb : b < 2 * fifoDepth f) :
    (b ≤ a ∧ ptrGap f a b = a - b) ∨ (a < b ∧ ptrGap f a b = a + 2 * fifoDepth f - b) := by
  unfold ptrGap
  rcases Nat.lt_or_ge a b with h | h
  · exact .inr ⟨h, Nat.mod_eq_of_lt (by omega)⟩
  · refine .inl ⟨h, ?_⟩
    rw [show a + 2 * fifoDepth f - b = a - b + 2 * fifoDepth f by omega, Nat.add_mod_right, Nat.mod_eq_of_lt (by omega)]

theorem ptrGap_lt (f : FifoId) (a b : Nat) : ptrGap f a b < 2 * fifoDepth f :=
  Nat.mod_lt _ (by have := fifoDepth_pos f; omega)

theorem ptrUp_lt (f : FifoId) (a : Nat) : ptrUp f a < 2 * fifoDepth f :=
  Nat.mod_lt _ (by have := fifoDepth_pos f; omega)

theorem ptrGap_eq_zero (ha : a < 2 * fifoDepth f) (hb : b < 2 * fifoDepth f) : ptrGap f a b = 0 ↔ a = b := by
  have := ptrGap_cases ha hb
  omega

/-- Gaps add up along the circle. -/
theorem ptrGap_add (ha : a < 2 * fifoDepth f) (hb : b < 2 * fifoDepth f) (hc : c < 2 * fifoDepth f) :
    ptrGap f a c = ptrGap f a b + ptrGap f b c ∨ ptrGap f a c + 2 * fifoDepth f = ptrGap f a b + ptrGap f b c := by
  have hab := ptrGap_cases ha hb
  have hbc := ptrGap_cases hb hc
  have hac := ptrGap_cases ha hc
  omega

theorem ptrGap_ptrUp_left (ha : a < 2 * fifoDepth f) (hb : b < 2 * fifoDepth f) (h : ptrGap f a b + 1 < 2 * fifoDepth f) :
    ptrGap f (ptrUp f a) b = ptrGap f a b + 1 := by
  have hup := ptrUp_cases ha
  have hold := ptrGap_cases ha hb
  have hnew := ptrGap_cases (ptrUp_lt f a) hb
  omega

theorem ptrGap_ptrUp_right (ha : a < 2 * fifoDepth f) (hb : b < 2 * fifoDepth f) (h : ptrGap f a b ≠ 0) :
    ptrGap f a (ptrUp f b) = ptrGap f a b - 1 := by
  have hup := ptrUp_cases hb
  have hold := ptrGap_cases ha hb
  have hnew := ptrGap_cases ha (ptrUp_lt f b)
  omega

/-- The pointer that another one is ahead of by some steps is reached by going those steps back. -/
theorem ptrGap_ptrGap (ha : a < 2 * fifoDepth f) (hb : b < 2 * fifoDepth f) : ptrGap f a (ptrGap f a b) = b := by
  have hab := ptrGap_cases ha hb
  have hback := ptrGap_cases ha (ptrGap_lt f a b)
  omega

/-- A copy that moves on is still a pointer, and stands no further behind its own than before (R62, R63). -/
theorem copyOn_behind {copy : Nat} (n : Nat) (ha : a < 2 * fifoDepth f) :
    ptrOf f (copyOn f a copy n) < 2 * fifoDepth f ∧ ptrGap f a (ptrOf f (copyOn f a copy n)) ≤ ptrGap f a (ptrOf f copy) := by
  have hm : min n (ptrGap f a (ptrOf f copy)) < 2 * fifoDepth f := Nat.lt_of_le_of_lt (Nat.min_le_right ..) (ptrGap_lt ..)
  have hc : ptrOf f (copyOn f a copy n) = ptrGap f a (min n (ptrGap f a (ptrOf f copy))) := ptrOf_gray (ptrGap_lt ..)
  refine ⟨hc ▸ ptrGap_lt .., ?_⟩
  rw [hc, ptrGap_ptrGap ha hm]
  exact Nat.min_le_right ..

end

/-! ### Sound FIFOs -/

theorem fifoSound_empty (f : FifoId) (last : Unit21 × Tag) : fifoSound f { last := last } := by
  have hd := fifoDepth_pos f
  simp [fifoSound, writerHeld, ptrOf_zero, ptrGap, hd]

section
variable {f : FifoId} {x : Fifo} (h : fifoSound f x)
include h

/-- The write side may see reads late, but never one that was not made. -/
theorem fifoSound.seen_reads (n : Nat) : fifoSound f { x with rdSeen := copyOn f x.rd x.rdSeen n } := by
  obtain ⟨hw, hr, hrs, hws, hlen, hheld, hdep, hgap⟩ := h
  obtain ⟨hc, hle⟩ := copyOn_behind (copy := x.rdSeen) n hr
  have hold := ptrGap_add hw hr hrs
  have hnew := ptrGap_add hw hr hc
  have hlt := ptrGap_lt f x.rd (ptrOf f x.rdSeen)
  unfold writerHeld at hheld hdep
  have hmid : x.q.length ≤ ptrGap f x.wr (ptrOf f (copyOn f x.rd x.rdSeen n)) ∧
      ptrGap f x.wr (ptrOf f (copyOn f x.rd x.rdSeen n)) ≤ fifoDepth f := by omega
  exact ⟨hw, hr, hc, hws, hlen, hmid.1, hmid.2, hgap⟩

/-- The read side may see writes late, but never one that was not made. -/
theorem fifoSound.seen_writes (n : Nat) : fifoSound f { x with wrSeen := copyOn f x.wr x.wrSeen n } := by
  obtain ⟨hw, hr, hrs, hws, hlen, hheld, hdep, hgap⟩ := h
  obtain ⟨hc, hle⟩ := copyOn_behind (copy := x.wrSeen) n hw
  have hold := ptrGap_add hw hws hr
  have hnew := ptrGap_add hw hc hr
  have hlt := ptrGap_lt f x.wr (ptrOf f x.wrSeen)
  have hlt' := ptrGap_lt f (ptrOf f (copyOn f x.wr x.wrSeen n)) x.rd
  have hmid : ptrGap f (ptrOf f (copyOn f x.wr x.wrSeen n)) x.rd ≤ x.q.length := by omega
  exact ⟨hw, hr, hrs, hc, hlen, hheld, hdep, hmid⟩

/-- A unit lands in a FIFO that its write side sees with room. -/
theorem fifoSound.put (hroom : fifoCredit f x ≠ 0) (u : Unit21 × Tag) :
    fifoSound f { x with q := x.q ++ [u], wr := ptrUp f x.wr } := by
  obtain ⟨hw, hr, hrs, hws, hlen, hheld, hdep, hgap⟩ := h
  have hfree : writerHeld f x < fifoDepth f := by unfold fifoCredit at hroom; omega
  have e : writerHeld f { x with q := x.q ++ [u], wr := ptrUp f x.wr } = writerHeld f x + 1 :=
    ptrGap_ptrUp_left hw hrs (show writerHeld f x + 1 < 2 * fifoDepth f by omega)
  refine ⟨ptrUp_lt f x.wr, hr, hrs, hws, ?_, ?_, by omega, ?_⟩
  · rw [List.length_append, hlen]
    exact (ptrGap_ptrUp_left hw hr (by omega)).symm
  · simp only [List.length_append, List.length_singleton, e]
    omega
  · simp only [List.length_append]
    omega

/-- The oldest unit leaves a FIFO that its read side does not see empty. -/
theorem fifoSound.taken {u : Unit21 × Tag} {r : List (Unit21 × Tag)} (hseen : ptrOf f x.wrSeen ≠ x.rd) (hq : x.q = u :: r) :
    fifoSound f { x with q := r, last := u, rd := ptrUp f x.rd } := by
  obtain ⟨hw, hr, hrs, hws, hlen, hheld, hdep, hgap⟩ := h
  have hne : ptrGap f (ptrOf f x.wrSeen) x.rd ≠ 0 := mt (ptrGap_eq_zero hws hr).1 hseen
  have hr' : x.q.length = r.length + 1 := by rw [hq]; rfl
  refine ⟨hw, ptrUp_lt f x.rd, hrs, hws, ?_, ?_, hdep, ?_⟩ <;> dsimp only
  · rw [ptrGap_ptrUp_right hw hr (by omega)]
    omega
  · exact Nat.le_trans (by omega) hheld
  · rw [ptrGap_ptrUp_right hws hr hne]
    omega

end

end Sys2Proof.Machine

/-! R60: the FIFOs of an island, and their places in the table of FIFOs. -/
namespace Sys2Proof.Machine

/-- Every FIFO is listed with its island. -/
theorem mem_islandFifos_self (f : FifoId) : f ∈ islandFifos (fifoIsland f) := by
  cases f with
  | collector g | modulator g => simp [fifoIsland, islandFifos]
  | laneRx l | laneTx l | mgmtRx l | mgmtTx l => revert l; decide
  | ethRx x | ethTx x => revert x; decide
  | refPps | compares | busRx | busTx | flashRd | flashWr | calHits | mgmtCoreRx | mgmtCoreTx | dictRx | dictTx => decide

theorem fifoIsland_lt (f : FifoId) : fifoIsland f < 18 := by
  cases f with
  | laneRx l | laneTx l | mgmtRx l | mgmtTx l => simp only [fifoIsland, laneIsland]; omega
  | ethRx x | ethTx x => simp only [fifoIsland]; omega
  | _ => simp [fifoIsland]

/-- An island's list names FIFOs of its own only. -/
theorem fifoIsland_of_mem : ∀ i : Fin 18, ∀ f ∈ islandFifos i, fifoIsland f = i := by decide

theorem mem_islandFifos (i : Fin 18) (f : FifoId) : f ∈ islandFifos i ↔ fifoIsland f = i :=
  ⟨fifoIsland_of_mem i f, fun h => h ▸ mem_islandFifos_self f⟩

/-- All the FIFOs of the part, island by island. -/
def allFifos : List FifoId := (List.range 18).flatMap islandFifos

theorem mem_allFifos (f : FifoId) : f ∈ allFifos :=
  List.mem_flatMap.2 ⟨_, List.mem_range.2 (fifoIsland_lt f), mem_islandFifos_self f⟩

/-- No two FIFOs share a place in the table. -/
theorem fifoKey_inj_on_allFifos : ∀ f ∈ allFifos, ∀ g ∈ allFifos, fifoKey f = fifoKey g → f = g := by decide +kernel

theorem fifoKey_inj {f g : FifoId} (h : fifoKey f = fifoKey g) : f = g :=
  fifoKey_inj_on_allFifos f (mem_allFifos f) g (mem_allFifos g) h

end Sys2Proof.Machine

/-! R60 to R66: what the commands of the island FIFOs do and what they leave alone. -/
namespace Sys2Proof.Machine

/-! ### Reads of the table of FIFOs -/

theorem fifo_setFifo_ne {f g : FifoId} (x : Fifo) (p : Part) (h : g ≠ f) : fifo (setFifo f x p) g = fifo p g :=
  tget_tput_ne _ _ _ _ (mt fifoKey_inj h)

theorem onlyEntries.fifo_eq {l : List (Nat × Nat)} {p q : Part} (h : onlyEntries l p q) (g : FifoId) :
    fifo q g = fifo p g := by rw [fifo, h.fab]; rfl

/-! ### The frame of a command on one FIFO -/

theorem onlyFifo_refl (f : FifoId) (l : List (Nat × Nat)) (p : Part) : onlyFifo f l p p :=
  ⟨rfl, fun _ _ => rfl, fun _ _ _ _ => rfl⟩

/-- Writing the FIFO changes nothing but the FIFO. -/
theorem onlyFifo.stored {f : FifoId} {l : List (Nat × Nat)} {p q : Part} (h : onlyFifo f l p q) (x : Fifo) :
    onlyFifo f l p (setFifo f x q) := by
  obtain ⟨hq, hg, ho⟩ := h
  refine ⟨?_, fun g hne => (fifo_setFifo_ne x q hne).trans (hg g hne), ho⟩
  rw [hq]
  rfl

/-- Writing listed entries changes nothing but listed entries. -/
theorem onlyFifo.trans_onlyEntries {f : FifoId} {l : List (Nat × Nat)} {p q r : Part} (h : onlyFifo f l p q)
    (e : onlyEntries l q r) : onlyFifo f l p r := by
  obtain ⟨hq, hg, ho⟩ := h
  refine ⟨?_, fun g hne => (e.fifo_eq g).trans (hg g hne), ho.trans e.2⟩
  rw [e.1, hq]

theorem onlyFifo_seeReads (f : FifoId) (n : Nat) (l : List (Nat × Nat)) (p : Part) : onlyFifo f l p (seeReads f n p) :=
  onlyIf_keeps _ _ _ _ (onlyFifo_refl f l p) fun h => h.stored _

theorem onlyFifo_seeWrites (f : FifoId) (n : Nat) (l : List (Nat × Nat)) (p : Part) : onlyFifo f l p (seeWrites f n p) :=
  onlyIf_keeps _ _ _ _ (onlyFifo_refl f l p) fun h => h.stored _

theorem rd_seeReads (f : FifoId) (n : Nat) (p : Part) (i : Nat) {a : Nat} (ha : a < 256) : rd (seeReads f n p) i a = rd p i a :=
  (onlyFifo_seeReads f n [] p).2.2 i a ha List.not_mem_nil

theorem rd_seeWrites (f : FifoId) (n : Nat) (p : Part) (i : Nat) {a : Nat} (ha : a < 256) : rd (seeWrites f n p) i a = rd p i a :=
  (onlyFifo_seeWrites f n [] p).2.2 i a ha List.not_mem_nil

/-- A side that sees more of the other moves no more than its copy of a pointer. -/
theorem fifo_seeReads (f : FifoId) (n : Nat) (p : Part) : ∃ c,
    fifo (seeReads f n p) f = { fifo p f with rdSeen := c } ∧ (fifoSound f (fifo p f) → fifoSound f { fifo p f with rdSeen := c }) := by
  unfold seeReads
  cases islandStopped p (fifoIsland f) with
  | true => exact ⟨(fifo p f).rdSeen, rfl, id⟩
  | false => exact ⟨_, fifo_setFifo .., fun h => h.seen_reads n⟩

@[inherit_doc fifo_seeReads] theorem fifo_seeWrites (f : FifoId) (n : Nat) (p : Part) : ∃ c,
    fifo (seeWrites f n p) f = { fifo p f with wrSeen := c } ∧ (fifoSound f (fifo p f) → fifoSound f { fifo p f with wrSeen := c }) := by
  unfold seeWrites
  cases islandStopped p (fifoIsland f) with
  | true => exact ⟨(fifo p f).wrSeen, rfl, id⟩
  | false => exact ⟨_, fifo_setFifo .., fun h => h.seen_writes n⟩

/-! ### Overrun and underrun (R64, R65) -/

theorem islandEntry_lt (f : FifoId) : fifoIsland f + 1 < 256 := by have := fifoIsland_lt f; omega

section
variable (f : FifoId) (p : Part)

theorem overrun_onlyEntries :
    onlyEntries [(0x1210, fifoIsland f + 1), (0x1211, fifoIsland f + 1)] p (overrun (fifoIsland f) p) :=
  ((onlyEntries_refl _ p).wrote _ (by simp) (islandEntry_lt f)).counted (by simp) (islandEntry_lt f)

theorem underrun_onlyEntries :
    onlyEntries [(0x1210, fifoIsland f + 1), (0x1212, fifoIsland f + 1)] p (underrun (fifoIsland f) p) :=
  ((onlyEntries_refl _ p).wrote _ (by simp) (islandEntry_lt f)).counted (by simp) (islandEntry_lt f)

theorem overrun_counts :
    rd (overrun (fifoIsland f) p) 0x1211 (fifoIsland f + 1) = satInc (rd p 0x1211 (fifoIsland f + 1)) ∧
      bit (rd (overrun (fifoIsland f) p) 0x1210 (fifoIsland f + 1)) 1 = true := by
  simp [overrun, islandBit, rd_bump, rd_wr, islandEntry_lt]

theorem underrun_counts :
    rd (underrun (fifoIsland f) p) 0x1212 (fifoIsland f + 1) = satInc (rd p 0x1212 (fifoIsland f + 1)) ∧
      bit (rd (underrun (fifoIsland f) p) 0x1210 (fifoIsland f + 1)) 0 = true := by
  simp [underrun, islandBit, rd_bump, rd_wr, islandEntry_lt]

end

/-! ### A write -/

/-- The producers of the lane receive FIFOs keep to no credits (R67). -/
theorem isLaneRx_of_credited {f : FifoId} (h : credited f = true) : isLaneRx f = false := by
  cases f with
  | laneRx l => simp [credited] at h
  | _ => rfl

/-- A unit lands in the FIFO, and only the marks of a rise past the high-water mark follow it. -/
theorem fifoPutAll_onlyEntries (f : FifoId) (x : Unit21 × Tag) (p : Part) :
    onlyEntries [(0x1200, 7), (0x1210, fifoIsland f + 1)]
      (setFifo f { fifo p f with q := (fifo p f).q ++ [x], wr := ptrUp f (fifo p f).wr } p) (fifoPutAll f [x] p) := by
  unfold fifoPutAll
  dsimp only [List.length_singleton, ptrUp]
  split
  · exact onlyIf_keeps _ _ _ _ ((onlyEntries_refl _ _).wrote _ (by simp) (islandEntry_lt f)) fun h => h.counted (by simp) (by simp)
  · exact onlyEntries_refl _ _

section
variable {f : FifoId} {n : Nat} {p : Part} (u : Unit21) (g : Tag) (stray : Bool)

theorem fifoWrite_room (hs : sideStopped p f true = false) (hf : seesFull (seeReads f n p) f = false) :
    fifoWrite f u g n stray p = fifoPutAll f [(u, g)] (seeReads f n p) := by simp [fifoWrite, hs, hf]

theorem fifoWrite_stray (hs : sideStopped p f true = false) (hf : seesFull (seeReads f n p) f = true) :
    fifoWrite f u g n true p = overrun (fifoIsland f) (seeReads f n p) := by simp [fifoWrite, hs, hf]

theorem fifoWrite_credited (hs : sideStopped p f true = false) (hf : seesFull (seeReads f n p) f = true) (hc : credited f = true) :
    fifoWrite f u g n false p = seeReads f n p := by
  simp [fifoWrite, hs, hf, hc, isLaneRx_of_credited hc]

/-- A write at a stopped side does nothing, and one to a FIFO seen full stores nothing. -/
theorem fifo_fifoWrite_full (h : sideStopped p f true = true ∨ seesFull (seeReads f n p) f = true) :
    fifo (fifoWrite f u g n stray p) f = fifo p f ∨ fifo (fifoWrite f u g n stray p) f = fifo (seeReads f n p) f := by
  unfold fifoWrite
  split
  · exact .inl rfl
  next hs =>
    have hf : seesFull (seeReads f n p) f = true := h.resolve_left hs
    have hover := (overrun_onlyEntries f (seeReads f n p)).fifo_eq f
    right
    simp only [hf, Bool.not_true, Bool.false_eq_true, if_false]
    split
    · exact hover
    · split
      · rfl
      · split
        · rfl
        · exact hover

theorem fifo_fifoWrite_room (hs : sideStopped p f true = false) (hf : seesFull (seeReads f n p) f = false) :
    fifo (fifoWrite f u g n stray p) f = { fifo (seeReads f n p) f with
      q := (fifo (seeReads f n p) f).q ++ [(u, g)], wr := ptrUp f (fifo (seeReads f n p) f).wr } := by
  rw [fifoWrite_room u g stray hs hf, (fifoPutAll_onlyEntries f (u, g) _).fifo_eq, fifo_setFifo]

/-- R61: a write that sees room appends the unit and its tag and moves the write pointer on. -/
theorem fifoWrite_appends (hs : sideStopped p f true = false) (hf : seesFull (seeReads f n p) f = false) :
    onlyFifo f [(0x1200, 7), (0x1210, fifoIsland f + 1)] p (fifoWrite f u g n stray p) ∧
      (fifo (fifoWrite f u g n stray p) f).q = (fifo p f).q ++ [(u, g)] ∧
      (fifo (fifoWrite f u g n stray p) f).wr = ptrUp f (fifo p f).wr ∧
      (fifo (fifoWrite f u g n stray p) f).last = (fifo p f).last := by
  obtain ⟨c, hseen, -⟩ := fifo_seeReads f n p
  rw [fifo_fifoWrite_room u g stray hs hf, hseen, fifoWrite_room u g stray hs hf]
  exact ⟨((onlyFifo_seeReads f n _ p).stored _).trans_onlyEntries (fifoPutAll_onlyEntries f (u, g) _), rfl, rfl, rfl⟩

/-- R65: a write of a producer that keeps to no credit to a FIFO that it sees full is ignored and counted. -/
theorem fifoWrite_overruns (hs : sideStopped p f true = false) (hf : seesFull (seeReads f n p) f = true) :
    onlyFifo f [(0x1210, fifoIsland f + 1), (0x1211, fifoIsland f + 1)] p (fifoWrite f u g n true p) ∧
      (fifo (fifoWrite f u g n true p) f).q = (fifo p f).q ∧
      rd (fifoWrite f u g n true p) 0x1211 (fifoIsland f + 1) = satInc (rd p 0x1211 (fifoIsland f + 1)) ∧
      bit (rd (fifoWrite f u g n true p) 0x1210 (fifoIsland f + 1)) 1 = true := by
  obtain ⟨c, hseen, -⟩ := fifo_seeReads f n p
  have ho := overrun_onlyEntries f (seeReads f n p)
  obtain ⟨hcount, hbit⟩ := overrun_counts f (seeReads f n p)
  rw [fifoWrite_stray u g hs hf, ho.fifo_eq, hcount, rd_seeReads _ _ _ _ (islandEntry_lt f), hseen]
  exact ⟨(onlyFifo_seeReads f n _ p).trans_onlyEntries ho, rfl, rfl, hbit⟩

/-- R67: a producer that keeps to its credits presents nothing to a FIFO that it sees full. -/
theorem fifoWrite_withheld (hs : sideStopped p f true = false) (hf : seesFull (seeReads f n p) f = true) (hc : credited f = true) :
    onlyFifo f [] p (fifoWrite f u g n false p) ∧ (fifo (fifoWrite f u g n false p) f).q = (fifo p f).q := by
  obtain ⟨c, hseen, -⟩ := fifo_seeReads f n p
  rw [fifoWrite_credited u g hs hf hc, hseen]
  exact ⟨onlyFifo_seeReads f n [] p, rfl⟩

/-- R62 and R63: a write keeps a FIFO sound. -/
theorem fifoWrite_keeps_sound (h : fifoSound f (fifo p f)) : fifoSound f (fifo (fifoWrite f u g n stray p) f) := by
  obtain ⟨c, e, hseen⟩ := fifo_seeReads f n p
  have h1 : fifoSound f (fifo (seeReads f n p) f) := e ▸ hseen h
  cases hs : sideStopped p f true with
  | true => rcases fifo_fifoWrite_full u g stray (n := n) (.inl hs) with e | e <;> rwa [e]
  | false =>
    cases hf : seesFull (seeReads f n p) f with
    | true => rcases fifo_fifoWrite_full u g stray (.inr hf) with e | e <;> rwa [e]
    | false =>
      have hroom : fifoCredit f (fifo (seeReads f n p) f) ≠ 0 := by
        simp only [seesFull, Bool.or_eq_false_iff, beq_eq_false_iff_ne] at hf
        exact hf.1
      rw [fifo_fifoWrite_room u g stray hs hf]
      exact h1.put hroom (u, g)

end

/-! ### A read -/

section
variable {f : FifoId} {n : Nat} {p : Part}

theorem fifoRead_empty (hs : sideStopped p f false = false) (he : seesEmpty (seeWrites f n p) f = true) :
    fifoRead f n p = underrun (fifoIsland f) (seeWrites f n p) := by simp [fifoRead, hs, he]

theorem fifoRead_oldest {u : Unit21 × Tag} {r : List (Unit21 × Tag)} (hs : sideStopped p f false = false)
    (he : seesEmpty (seeWrites f n p) f = false) (hq : (fifo (seeWrites f n p) f).q = u :: r) :
    fifoRead f n p = setFifo f { fifo (seeWrites f n p) f with
      q := r, last := u, rd := ptrUp f (fifo (seeWrites f n p) f).rd } (seeWrites f n p) := by simp [fifoRead, hs, he, hq]

/-- R61: a read takes the oldest unit and moves the read pointer on. -/
theorem fifoRead_takes {u : Unit21 × Tag} {r : List (Unit21 × Tag)} (hs : sideStopped p f false = false)
    (he : seesEmpty (seeWrites f n p) f = false) (hq : (fifo p f).q = u :: r) :
    onlyFifo f [] p (fifoRead f n p) ∧ (fifo (fifoRead f n p) f).q = r ∧ (fifo (fifoRead f n p) f).last = u ∧
      (fifo (fifoRead f n p) f).rd = ptrUp f (fifo p f).rd := by
  obtain ⟨c, hseen, -⟩ := fifo_seeWrites f n p
  rw [fifoRead_oldest hs he (by rw [hseen]; exact hq), fifo_setFifo, hseen]
  exact ⟨(onlyFifo_seeWrites f n [] p).stored _, rfl, rfl, rfl⟩

/-- R64: a read from a FIFO seen empty leaves the unit last read and is counted. -/
theorem fifoRead_underruns (hs : sideStopped p f false = false) (he : seesEmpty (seeWrites f n p) f = true) :
    onlyFifo f [(0x1210, fifoIsland f + 1), (0x1212, fifoIsland f + 1)] p (fifoRead f n p) ∧
      (fifo (fifoRead f n p) f).q = (fifo p f).q ∧ (fifo (fifoRead f n p) f).last = (fifo p f).last ∧
      rd (fifoRead f n p) 0x1212 (fifoIsland f + 1) = satInc (rd p 0x1212 (fifoIsland f + 1)) ∧
      bit (rd (fifoRead f n p) 0x1210 (fifoIsland f + 1)) 0 = true := by
  obtain ⟨c, hseen, -⟩ := fifo_seeWrites f n p
  have ho := underrun_onlyEntries f (seeWrites f n p)
  obtain ⟨hcount, hbit⟩ := underrun_counts f (seeWrites f n p)
  rw [fifoRead_empty hs he, ho.fifo_eq, hcount, rd_seeWrites _ _ _ _ (islandEntry_lt f), hseen]
  exact ⟨(onlyFifo_seeWrites f n _ p).trans_onlyEntries ho, rfl, rfl, rfl, hbit⟩

/-- R62 and R63: a read keeps a FIFO sound. -/
theorem fifoRead_keeps_sound (h : fifoSound f (fifo p f)) : fifoSound f (fifo (fifoRead f n p) f) := by
  obtain ⟨c, e, hseen⟩ := fifo_seeWrites f n p
  have h1 : fifoSound f (fifo (seeWrites f n p) f) := e ▸ hseen h
  cases hs : sideStopped p f false with
  | true => simpa [fifoRead, hs] using h
  | false =>
    cases he : seesEmpty (seeWrites f n p) f with
    | true => rwa [fifoRead_empty hs he, (underrun_onlyEntries f _).fifo_eq]
    | false =>
      obtain ⟨⟨hne, hq⟩, -⟩ := by
        simpa only [seesEmpty, Bool.or_eq_false_iff, beq_eq_false_iff_ne, List.isEmpty_eq_false_iff] using he
      obtain ⟨u, r, hq⟩ := List.exists_cons_of_ne_nil hq
      rw [fifoRead_oldest hs he hq, fifo_setFifo]
      exact h1.taken hne hq

/-- R63 and R65: the write side of a sound FIFO sees it full whenever it is. -/
theorem fifoSound.seesFull (h : fifoSound f (fifo p f)) (hq : (fifo p f).q.length = fifoDepth f) :
    Machine.seesFull p f = true := by
  obtain ⟨-, -, -, -, -, hheld, -⟩ := h
  have hc : fifoCredit f (fifo p f) = 0 := by unfold fifoCredit; omega
  simp [Machine.seesFull, hc]

/-- R63 and R64: a read side sees a FIFO empty whenever it is. -/
theorem seesEmpty_of_nil (hq : (fifo p f).q = []) : seesEmpty p f = true := by simp [seesEmpty, hq]

end

end Sys2Proof.Machine

/-! R60: an island's clock stops and restarts. -/
namespace Sys2Proof.Machine

/-- Nothing but links and the entries listed has changed. -/
def onlyLinks (l : List (Nat × Nat)) (p q : Part) : Prop :=
  q = { p with dict := q.dict, links := q.links } ∧ otherEntries l p q

theorem onlyLinks_refl (l : List (Nat × Nat)) (p : Part) : onlyLinks l p p := ⟨rfl, fun _ _ _ _ => rfl⟩

theorem onlyLinks.stored {l : List (Nat × Nat)} {p q : Part} (h : onlyLinks l p q) (k : Nat) (x : Link) :
    onlyLinks l p (setLink k x q) := by
  obtain ⟨hq, ho⟩ := h
  refine ⟨?_, ho⟩
  rw [hq]
  rfl

theorem onlyLinks.trans_onlyEntries {l : List (Nat × Nat)} {p q r : Part} (h : onlyLinks l p q) (e : onlyEntries l q r) :
    onlyLinks l p r := by
  obtain ⟨hq, ho⟩ := h
  refine ⟨?_, ho.trans e.2⟩
  rw [e.1, hq]

/-- A link's queues are flushed: nothing but the link and the counts of what is lost changes (R165). -/
theorem flushLink_onlyLinks {p q : Part} (i k : Nat) (h : onlyLinks [(0x3050, 9), (0x3050, 10)] p q) :
    onlyLinks [(0x3050, 9), (0x3050, 10)] p (flushLink i k q) := by
  have h1 := onlyIf_keeps (onlyLinks [(0x3050, 9), (0x3050, 10)] p) (i == 2) (setLink k { link q k with probes := [] }) q h
    fun h => h.stored k _
  unfold flushLink
  dsimp only
  split
  · exact (h1.stored k _).trans_onlyEntries (((onlyEntries_refl _ _).countedBy _ (by simp) (by simp)).countedBy _ (by simp) (by simp))
  · exact h1

/-- Flushing FIFOs changes nothing but the FIFOs. -/
theorem flushFifos_frame (l : List FifoId) (p : Part) :
    forEach l fifoFlush p = { p with fab := { p.fab with fifos := (forEach l fifoFlush p).fab.fifos } } := by
  refine forEach_keeps (fun q => q = { p with fab := { p.fab with fifos := q.fab.fifos } }) l fifoFlush p rfl fun f q hq => ?_
  rw [hq]
  rfl

/-- A FIFO flushed keeps the unit last read; another one keeps all it holds. -/
theorem fifo_flushFifos (l : List FifoId) (p : Part) (f : FifoId) :
    fifo (forEach l fifoFlush p) f = if f ∈ l then { last := (fifo p f).last } else fifo p f := by
  induction l generalizing p with
  | nil => simp
  | cons g l ih =>
    rw [forEach_cons, ih]
    by_cases h : f = g
    · subst h
      simp [fifoFlush]
    · simp [fifoFlush, fifo_setFifo_ne _ _ h, h]

/-- Everything a stopped island's restart does: its FIFOs are flushed, and the links that its lanes carry. -/
theorem islandRestart_eq {p : Part} {i : Nat} (h : islandStopped p i = true) :
    ∃ q, onlyLinks [(0x3050, 9), (0x3050, 10)] (forEach (islandFifos i) fifoFlush p) q ∧
      islandRestart i p = { q with fab := { q.fab with stopped := clrBit q.fab.stopped i } } := by
  refine ⟨_, ?_, by rw [islandRestart, if_pos h]⟩
  exact forEach_keeps _ _ _ _ (onlyLinks_refl _ _) fun k _ hq => flushLink_onlyLinks i k hq

/-- R60: a restart changes nothing but entries, links, the island's clock and the FIFOs. -/
theorem islandRestart_frame {p : Part} {i : Nat} (h : islandStopped p i = true) :
    islandRestart i p = { p with
      dict := (islandRestart i p).dict, links := (islandRestart i p).links,
      fab := { p.fab with stopped := (islandRestart i p).fab.stopped, fifos := (islandRestart i p).fab.fifos } } ∧
    otherEntries [(0x3050, 9), (0x3050, 10)] p (islandRestart i p) := by
  obtain ⟨q, ⟨hq, ho⟩, e⟩ := islandRestart_eq h
  have hf := flushFifos_frame (islandFifos i) p
  have hrd : ∀ j a, rd (forEach (islandFifos i) fifoFlush p) j a = rd p j a := fun j a => rd_congr (by rw [hf]) (by rw [hf]) j a
  refine ⟨?_, ?_⟩
  · rw [e, hq, hf]
  · rw [e]
    exact (otherEntries_of_rd hrd _).trans (ho.trans (otherEntries_of_rd (fun j a => rd_congr rfl rfl j a) _))

/-- R60: a restart empties every FIFO of the island and resets its pointers; the unit last read stays. -/
theorem fifo_islandRestart {p : Part} {i : Fin 18} (h : islandStopped p i = true) (f : FifoId) :
    fifo (islandRestart i p) f = if fifoIsland f = i then { last := (fifo p f).last } else fifo p f := by
  obtain ⟨q, ⟨hq, -⟩, e⟩ := islandRestart_eq h
  have hfif : (islandRestart i p).fab.fifos = (forEach (islandFifos i) fifoFlush p).fab.fifos := by rw [e, hq]
  simp only [← mem_islandFifos, ← fifo_flushFifos]
  rw [fifo, hfif]
  rfl

theorem islandStopped_islandRestart {p : Part} {i : Nat} (h : islandStopped p i = true) :
    islandStopped (islandRestart i p) i = false := by
  obtain ⟨q, -, e⟩ := islandRestart_eq h
  rw [e]
  exact bit_clrBit_same ..

end Sys2Proof.Machine

/-! R60 to R66: the island FIFOs. -/
namespace Sys2Proof.Machine

/-- Settles O3: the cases of a write and of a read, the soundness both keep, and the stop and restart of an island. -/
theorem islandFifosKeepOrderAndStop : Obligations.IslandFifosKeepOrderAndStop := by
  refine ⟨fun s f u g n stray ⟨ha, hr⟩ => ?_, fun s f u g n stray ⟨ha, hr⟩ h => ?_, fun s i ⟨ha, hr⟩ => ⟨?_, fun h => ?_⟩⟩
  · exact ⟨fun hs hf => ⟨_, run_live ha hr, fifoWrite_appends u g stray hs hf⟩,
      fun hs hf => ⟨_, run_live ha hr, fifoWrite_overruns u g hs hf⟩,
      fun hs hf hc => ⟨_, run_live ha hr, fifoWrite_withheld u g hs hf hc⟩,
      fun r hs he hq => ⟨_, run_live ha hr, fifoRead_takes hs he hq⟩,
      fun hs he => ⟨_, run_live ha hr, fifoRead_underruns hs he⟩, rfl⟩
  · exact ⟨h.seesFull, seesEmpty_of_nil, ⟨_, run_live ha hr, fifoWrite_keeps_sound u g stray h⟩,
      ⟨_, run_live ha hr, fifoRead_keeps_sound h⟩, fifoSound_empty f _⟩
  · exact ⟨_, run_live ha hr, rfl, bit_setBit_same ..⟩
  · obtain ⟨hq, ho⟩ := islandRestart_frame h
    refine ⟨_, run_live ha hr, hq, ho, islandStopped_islandRestart h, fun f hf => ?_, fun f hf => ?_⟩
    · rw [fifo_islandRestart h, if_pos hf]
    · rw [fifo_islandRestart h, if_neg hf]

end Sys2Proof.Machine

/-! R446 to R449: what a reader learns of octets that spell a frame. -/
namespace Sys2Proof.Machine

/-- A frame claims no more octets than R446 allows. -/
theorem claimedLength_le_of_frameOf {os : List Nat} {f : Frame} (h : frameOf os = some f) : claimedLength os ≤ 512 := by
  unfold frameOf at h
  split at h
  next k fl a2 a1 a0 hs n1 n0 t =>
    simp only [Option.ite_none_right_eq_some, Bool.and_eq_true, decide_eq_true_eq, List.all_cons] at h
    obtain ⟨⟨⟨⟨⟨⟨⟨-, hn⟩, -⟩, -, -, -, -, -, -, h1, h0, -⟩, -⟩, -⟩, -⟩, -⟩ := h
    simpa [claimedLength, ofOctets, Nat.mod_eq_of_lt h1, Nat.mod_eq_of_lt h0] using hn
  · cases h

/-- No kind of R449 travels both ways. -/
theorem not_mem_downKinds {k : Nat} (h : k ∈ upKinds) : k ∉ downKinds := by
  revert k
  decide

end Sys2Proof.Machine

/-! R446 to R448, R453 and R454: frames on their way down. -/
namespace Sys2Proof.Machine

theorem serving.not_powerFail {p : Part} (h : serving p) : p.pow.phase ≠ .powerFail := by simp [h.2]

theorem serving.alive {p : Part} (h : serving p) : alive p = true := h.1.1

theorem serving.not_recovery {p : Part} (h : serving p) : recovery p = false := h.1.2

theorem exec_busFrameReceived {s : State} (h : serving s.part) (via : Option (Fin 18)) (os : List Nat) :
    exec (.busFrameReceived via os) s = .next { s with part := frameDown (via.map (·.val)) os s.part } := runCtl_live h.alive

/-! ### Which frames are taken -/

section
variable {p : Part} {via : Option Nat} {os : List Nat} {f : Frame}

/-- R456: in band nothing is heard while frames in band are not enabled. -/
theorem frameDown_unheard (hv : via ≠ none) (h5 : rd p 0x1300 5 = 0) : frameDown via os p = p :=
  if_pos (.inr ⟨Option.isSome_iff_ne_none.2 hv, .inl h5⟩)

variable (hs : serving p) (hv : via = none ∨ rd p 0x1300 5 ≠ 0)
include hs hv

/-- Octets from the bus, and in band those that are enabled, reach a serving part (R456, R486, R507). -/
theorem not_deaf_downward :
    ¬ (p.pow.phase = .powerFail ∨ (via.isSome ∧ (rd p 0x1300 5 = 0 ∨ recovery p = true))) := by
  rcases hv with rfl | h5
  · simp [hs.not_powerFail]
  · simp [hs.not_powerFail, h5, hs.not_recovery]

theorem frameDown_tooLong (hl : 512 < claimedLength os) : frameDown via os p = bump 0x1301 8 p := by
  rw [frameDown, if_neg (not_deaf_downward hs hv), if_pos hl]

theorem frameDown_noFrame (hl : claimedLength os ≤ 512) (hf : frameOf os = none) :
    frameDown via os p = bump 0x1301 1 p := by
  rw [frameDown, if_neg (not_deaf_downward hs hv), if_neg (by omega), hf]

theorem frameDown_frame (hf : frameOf os = some f) :
    frameDown via os p =
      if f.kind ∈ downKinds ∧ f.up = false then routeDown f via os p
      else if via = none ∧ f.kind ∈ upKinds ∧ f.up = true then p
      else bump 0x1301 1 p := by
  have hl := claimedLength_le_of_frameOf hf
  rw [frameDown, if_neg (not_deaf_downward hs hv), if_neg (by omega), hf]
  simp [and_assoc]

theorem frameDown_routed (hf : frameOf os = some f) (hk : f.kind ∈ downKinds) (hu : f.up = false) :
    frameDown via os p = routeDown f via os p := by
  rw [frameDown_frame hs hv hf, if_pos ⟨hk, hu⟩]

/-- R448, R453: what other slaves answer is passed over on the segment, and is no frame for an uplink (log 76). -/
theorem frameDown_answer (hf : frameOf os = some f) (hk : f.kind ∈ upKinds) (hu : f.up = true) :
    frameDown via os p = if via = none then p else bump 0x1301 1 p := by
  rw [frameDown_frame hs hv hf, if_neg (by simp [hu])]
  simp [hk, hu]

/-- R448: a frame whose direction bit is not that of its kind is discarded and counted (log 76). -/
theorem frameDown_wrongWay (hf : frameOf os = some f) (hw : f.kind ∈ upKinds ↔ f.up = false) :
    frameDown via os p = bump 0x1301 1 p := by
  rw [frameDown_frame hs hv hf, if_neg fun h => not_mem_downKinds (hw.2 h.2) h.1, if_neg]
  rintro ⟨-, hk, hu⟩
  simp [hw.1 hk] at hu

end

/-! ### Relaying to a child (R453, R454) -/

/-- A target below the part is not the part. -/
theorem isOwn_of_inCrown {p : Part} {addr tier : Nat} (h : inCrown p addr tier = true) : isOwn p addr tier = false := by
  simp only [inCrown, Bool.and_eq_true, decide_eq_true_eq] at h
  obtain ⟨⟨-, hlt, -⟩, -⟩ := h
  simp [isOwn, show tier ≠ ownTier p by omega]

section
variable {p : Part} {via : Option Nat} {os : List Nat} {f : Frame}

theorem routeDown_relays (hk : f.kind ∈ [kOpen, kProve, kRequest, kDiscover]) (hser : f.ser = false) (hb : isBough p = true)
    (hc : inCrown p f.addr f.tier = true) : routeDown f via os p = relayTo via f os (positionOf p f.addr) p := by
  have hbc : f.kind ≠ kBroadcast := fun h => absurd (h ▸ hk) (by decide)
  have hpoll : f.kind ≠ kPoll := fun h => absurd (h ▸ hk) (by decide)
  simp [routeDown, hbc, hpoll, hser, isOwn_of_inCrown hc, hb, hc]

/-- R453: a Bough relays what it hears from the bus for its crown. -/
theorem frameDown_relays (hs : serving p) (hf : frameOf os = some f) (hk : f.kind ∈ [kOpen, kProve, kRequest, kDiscover])
    (hu : f.up = false) (hser : f.ser = false) (hb : isBough p = true) (hc : inCrown p f.addr f.tier = true) :
    frameDown none os p = relayTo none f os (positionOf p f.addr) p := by
  have hdown : f.kind ∈ downKinds :=
    (by decide : ∀ k ∈ [kOpen, kProve, kRequest, kDiscover], k ∈ downKinds) _ hk
  rw [frameDown_routed hs (.inl rfl) hf hdown hu, routeDown_relays hk hser hb hc]

/-- The relay table's entry for a frame that names its target by its address. -/
def relayEntry (p : Part) (via : Option Nat) (f : Frame) (n : Nat) (bus : Bool) : Relay :=
  { origin := f.origin via, serial := 0, port := n, bus, since := p.clk.rp }

variable {n : Nat}

theorem relayTo_noPath (h : pathTo p via n = none) :
    relayTo via f os n p = bump 0x1301 7 (unreachable (f.origin via) 1 n p) := by
  simp only [relayTo, h]

theorem relayTo_tableFull (h : (pathTo p via n).isSome = true) (hlen : 128 ≤ p.svc.bus.relays.length) :
    relayTo via f os n p = bump 0x1301 4 (unreachable (f.origin via) 2 n p) := by
  obtain ⟨b, hb⟩ := Option.isSome_iff_exists.1 h
  simp only [relayTo, hb, if_pos hlen]

theorem relayTo_bus (hser : f.ser = false) (h : pathTo p via n = some true) (hlen : p.svc.bus.relays.length < 128) :
    relayTo via f os n p =
      setBus { p.svc.bus with relays := p.svc.bus.relays ++ [relayEntry p via f n true], sentDown := os } p := by
  simp [relayTo, h, Nat.not_le.2 hlen, hser, relayEntry, sendDown, setBus]

theorem relayTo_inBand (hser : f.ser = false) (h : pathTo p via n = some false) (hlen : p.svc.bus.relays.length < 128) :
    relayTo via f os n p = sendInBand (portAt p n) os
      (setBus { p.svc.bus with relays := p.svc.bus.relays ++ [relayEntry p via f n false] } p) := by
  simp only [relayTo, h, Nat.not_le.2 hlen, hser]
  rfl

end

end Sys2Proof.Machine

/-! R446 to R448, R450 and R454: frames on their way up, and the age of relay entries. -/
namespace Sys2Proof.Machine

theorem exec_upwardFrame {s : State} (h : serving s.part) (via : Option (Fin 16)) (os : List Nat) :
    exec (.upwardFrame via os) s = .next { s with part := frameUp (via.map (·.val)) os s.part } := run_live h.alive h.not_recovery

theorem exec_relayEntryTimeout {s : State} (h : serving s.part) :
    exec .relayEntryTimeout s = .next { s with part := relayTimeout s.part } := run_live h.alive h.not_recovery

/-! ### Which frames are taken -/

section
variable {p : Part} {via : Option Nat} {os : List Nat} {f : Frame}

/-- R454, R456: a Leaf takes no upward frames, and a Bough none in band while frames in band are not enabled. -/
theorem frameUp_unheard (h : isBough p = false ∨ (via ≠ none ∧ rd p 0x1300 5 = 0)) : frameUp via os p = p := by
  refine if_pos (.inr ?_)
  rcases h with hb | ⟨hv, h5⟩
  · exact .inl (by simp [hb])
  · exact .inr ⟨Option.isSome_iff_ne_none.2 hv, h5⟩

section
variable (hs : serving p) (hb : isBough p = true) (hv : via = none ∨ rd p 0x1300 5 ≠ 0)
include hs hb hv

/-- Octets from the bus, and in band those that are enabled, reach a serving Bough (R456, R507). -/
theorem not_deaf_upward :
    ¬ (p.pow.phase = .powerFail ∨ !isBough p ∨ (via.isSome ∧ rd p 0x1300 5 = 0)) := by
  rcases hv with rfl | h5
  · simp [hs.not_powerFail, hb]
  · simp [hs.not_powerFail, hb, h5]

theorem frameUp_tooLong (hl : 512 < claimedLength os) : frameUp via os p = bump 0x1301 8 p := by
  rw [frameUp, if_neg (not_deaf_upward hs hb hv), if_pos hl]

theorem frameUp_noFrame (hl : claimedLength os ≤ 512) (hf : frameOf os = none) :
    frameUp via os p = bump 0x1301 1 p := by
  rw [frameUp, if_neg (not_deaf_upward hs hb hv), if_neg (by omega), hf]

theorem frameUp_wrongWay (hf : frameOf os = some f) (hw : f.kind ∉ upKinds ∨ f.up = false) :
    frameUp via os p = bump 0x1301 1 p := by
  have hl := claimedLength_le_of_frameOf hf
  rw [frameUp, if_neg (not_deaf_upward hs hb hv), if_neg (by omega), hf]
  rcases hw with hk | hu
  · simp [hk]
  · simp [hu]

/-- R448, R454: the kinds that answer a request pass the Bough, once they have answered its poll. -/
theorem frameUp_passes (hf : frameOf os = some f) (hu : f.up = true)
    (hk : f.kind ∈ [kChallenge, kOpened, kResponse, kIdentity, kError, kUnreachable]) :
    frameUp via os p = passUp f os (if via.isNone then pollAnswered f p else p) := by
  have hl := claimedLength_le_of_frameOf hf
  obtain ⟨hup, hempty, hcrown, hsum⟩ :=
    (by decide : ∀ k ∈ [kChallenge, kOpened, kResponse, kIdentity, kError, kUnreachable],
      k ∈ upKinds ∧ k ≠ kEmpty ∧ k ≠ kCrown ∧ k ≠ kSummary) _ hk
  rw [frameUp, if_neg (not_deaf_upward hs hb hv), if_neg (by omega), hf]
  simp [hup, hu, hempty, hcrown, hsum]

/-- R450: EMPTY does no more than answer the poll. -/
theorem frameUp_empty (hf : frameOf os = some f) (hu : f.up = true) (hk : f.kind = kEmpty) :
    frameUp via os p = if via.isNone then pollAnswered f p else p := by
  have hl := claimedLength_le_of_frameOf hf
  rw [frameUp, if_neg (not_deaf_upward hs hb hv), if_neg (by omega), hf]
  simp [hk, hu, upKinds]

end

/-! ### The answer to a poll (R450, R451) -/

theorem pollAnswered_unpolled (h : p.svc.bus.polled = none) : pollAnswered f p = p := by simp only [pollAnswered, h]

theorem pollAnswered_position {y : Polled} {n : Nat} (h : p.svc.bus.polled = some y) (hn : y.pos = some n) :
    pollAnswered f p = setBus { p.svc.bus with
      polled := none, polls := tput {} p.svc.bus.polls n { last := some p.clk.rp, miss := 0, more := f.more } } p := by
  simp only [pollAnswered, h, hn]

theorem pollAnswered_serial {y : Polled} (h : p.svc.bus.polled = some y) (hn : y.pos = none) :
    pollAnswered f p = setBus { p.svc.bus with polled := none } p := by
  simp only [pollAnswered, h, hn]

/-- A frame in band answers no poll, and none is awaited where the bus has no poll unanswered. -/
theorem pollAnswered_of_unpolled (h : via = none → p.svc.bus.polled = none) :
    (if via.isNone then pollAnswered f p else p) = p := by
  split
  next hv => exact pollAnswered_unpolled (h (Option.isNone_iff_eq_none.1 hv))
  · rfl

/-- An answer leaves no poll unanswered and changes the bus alone. -/
theorem pollAnswered_eq (f : Frame) (p : Part) : ∃ b, pollAnswered f p = setBus b p ∧ b.polled = none := by
  cases hq : p.svc.bus.polled with
  | none => exact ⟨p.svc.bus, pollAnswered_unpolled hq, hq⟩
  | some y =>
    cases hn : y.pos with
    | none => exact ⟨_, pollAnswered_serial hq hn, rfl⟩
    | some n => exact ⟨_, pollAnswered_position hq hn, rfl⟩

theorem serving_pollAnswered (f : Frame) (h : serving p) : serving (pollAnswered f p) := by
  obtain ⟨b, hq, -⟩ := pollAnswered_eq f p
  exact hq ▸ h

/-- A frame from the bus is taken as though its poll had been answered before it came. -/
theorem frameUp_pollAnswered (hs : serving p) (hb : isBough p = true) (hf : frameOf os = some f) (hk : f.kind ∈ upKinds)
    (hu : f.up = true) : frameUp none os (pollAnswered f p) = frameUp none os p := by
  have hl := claimedLength_le_of_frameOf hf
  obtain ⟨b, hq, hnone⟩ := pollAnswered_eq f p
  have hb' : isBough (pollAnswered f p) = true := hq ▸ hb
  have hidem : pollAnswered f (pollAnswered f p) = pollAnswered f p := pollAnswered_unpolled (by rw [hq]; exact hnone)
  rw [frameUp, frameUp, if_neg (not_deaf_upward (serving_pollAnswered f hs) hb' (.inl rfl)),
    if_neg (not_deaf_upward hs hb (.inl rfl)), if_neg (by omega), if_neg (by omega), hf]
  simp [hk, hu, hidem]

theorem exec_upwardFrame_pollAnswered {s : State} (hs : serving s.part) (hb : isBough s.part = true) (hf : frameOf os = some f)
    (hk : f.kind ∈ upKinds) (hu : f.up = true) :
    exec (.upwardFrame none os) { s with part := pollAnswered f s.part } = exec (.upwardFrame none os) s := by
  rw [exec_upwardFrame hs, exec_upwardFrame (s := { s with part := pollAnswered f s.part }) (serving_pollAnswered f hs)]
  simp only [Option.map_none, frameUp_pollAnswered hs hb hf hk hu]

/-! ### The way back (R454) -/

theorem passUp_entry {e : Relay} (h : p.svc.bus.relays.find? (answers f) = some e) :
    passUp f os p =
      sendUp e.origin.via (withMore false os) (setBus { p.svc.bus with relays := p.svc.bus.relays.erase e } p) := by
  simp only [passUp, h]

theorem passUp_noEntry (h : p.svc.bus.relays.find? (answers f) = none) :
    passUp f os p = sendUp (reportPath p) (withMore false os) p := by
  simp only [passUp, h]

/-! ### The age of an entry (R454) -/

theorem advanceRp_clk_rp (n : Nat) (p : Part) : (advanceRp n p).clk.rp = max p.clk.rp n := by
  rw [advanceRp, advance_rp]
  omega

theorem advanceRp_svc (n : Nat) (p : Part) : (advanceRp n p).svc = p.svc := rfl

theorem relayTimeout_empty (h : p.svc.bus.relays = []) : relayTimeout p = p := by simp only [relayTimeout, h]

/-- The age is left a variable: the kernel would count 200 ms in ring periods one by one. -/
theorem relayTimeout_oldest {e : Relay} {l : List Relay} {n : Nat} (hn : n = e.since + 200 * msRp)
    (h : p.svc.bus.relays = e :: l) : relayTimeout p = setBus { p.svc.bus with relays := l } (advanceRp n p) := by
  rw [relayTimeout, h]
  dsimp only
  rw [← hn, advanceRp_svc]

theorem relayTimeout_frame {e : Relay} {l : List Relay} (h : p.svc.bus.relays = e :: l) :
    relayTimeout p =
        { p with clk := (relayTimeout p).clk, svc := { p.svc with bus := { p.svc.bus with relays := l } } } ∧
      (relayTimeout p).clk.rp = max p.clk.rp (e.since + 200 * msRp) := by
  obtain ⟨n, hn⟩ : ∃ n, n = e.since + 200 * msRp := ⟨_, rfl⟩
  rw [relayTimeout_oldest hn h, ← hn]
  exact ⟨rfl, advanceRp_clk_rp n p⟩

end

end Sys2Proof.Machine

/-! R446 to R448, R453 and R454: frames find their way. -/
namespace Sys2Proof.Machine

/-- Settles O45: what is heard, what is relayed down, what passes up, the answer to a poll, and the age of an entry. -/
theorem framesFindTheirWay : Obligations.FramesFindTheirWay := by
  refine fun s hs => ⟨fun via os => ?heardDown, fun via os => ?heardUp, fun os f e hf hk hu hser hb hc he => ?relayed,
    fun via os f hf hu hb hv hpolled => ?passed, fun os f y polls hf hk hu hb hy hpolls => ?polled, fun h => ?noEntry,
    fun e l h => ?oldest⟩
  case heardDown =>
    simp only [exec_busFrameReceived hs]
    refine ⟨fun hv h5 => by rw [frameDown_unheard (by simpa using hv) h5], fun hv => ?_⟩
    replace hv : via.map (·.val) = none ∨ rd s.part 0x1300 5 ≠ 0 := by simpa using hv
    exact ⟨fun hl => by rw [frameDown_tooLong hs hv hl], fun hl hf => by rw [frameDown_noFrame hs hv hl hf],
      fun f _ hf hk hu => by simp only [frameDown_answer hs hv hf hk hu, Option.map_eq_none_iff],
      fun f _ hf hw => by rw [frameDown_wrongWay hs hv hf hw]⟩
  case heardUp =>
    simp only [exec_upwardFrame hs]
    refine ⟨fun h => by rw [frameUp_unheard (by simpa using h)], fun hb hv => ?_⟩
    replace hv : via.map (·.val) = none ∨ rd s.part 0x1300 5 ≠ 0 := by simpa using hv
    exact ⟨fun hl => by rw [frameUp_tooLong hs hb hv hl], fun hl hf => by rw [frameUp_noFrame hs hb hv hl hf],
      fun f _ hf hw => by rw [frameUp_wrongWay hs hb hv hf hw]⟩
  case relayed =>
    subst he
    rw [exec_busFrameReceived hs, Option.map_none, frameDown_relays hs hf hk hu hser hb hc]
    exact ⟨fun hp hlen => by rw [relayTo_bus hser hp hlen]; rfl, fun hp hlen => by rw [relayTo_inBand hser hp hlen]; rfl,
      fun hp => by rw [relayTo_noPath hp], fun hp hlen => by rw [relayTo_tableFull hp hlen]⟩
  case passed =>
    rw [exec_upwardFrame hs]
    replace hv : via.map (·.val) = none ∨ rd s.part 0x1300 5 ≠ 0 := by simpa using hv
    replace hpolled : via.map (·.val) = none → s.part.svc.bus.polled = none := by simpa using hpolled
    refine ⟨fun hk => ?_, fun hk => by rw [frameUp_empty hs hb hv hf hu hk, pollAnswered_of_unpolled hpolled]⟩
    rw [frameUp_passes hs hb hv hf hu hk, pollAnswered_of_unpolled hpolled]
    exact ⟨fun e he => by rw [passUp_entry he], fun he => by rw [passUp_noEntry he]⟩
  case polled =>
    have hq : pollAnswered f s.part = setBus { s.part.svc.bus with polled := none, polls } s.part := by
      cases hn : y.pos with
      | none => simp only [pollAnswered_serial hy hn, hpolls, hn]
      | some n => simp only [pollAnswered_position hy hn, hpolls, hn]
    have hafter := exec_upwardFrame_pollAnswered hs hb hf hk hu
    rw [hq] at hafter
    exact hafter.symm
  case noEntry => rw [exec_relayEntryTimeout hs, relayTimeout_empty h]
  case oldest => exact ⟨_, exec_relayEntryTimeout hs, relayTimeout_frame h⟩

end Sys2Proof.Machine
